-- ==== Sys2Proof/Word.lean ====
section
/-! DEFINITION. The word types of the module: registers are 64 bits (21_register_reference R463), FP32 lanes and
accumulator values 32 bits (02_number_formats R28), bytes 8 bits, little-endian throughout (00_scope R9). -/
namespace Sys2Proof

/-- One byte of memory, of a packet, of a register's storage (R9). -/
abbrev Byte := BitVec 8

/-- A 32-bit value: an FP32 pattern or a 32-bit integer (R28, R95). -/
abbrev W32 := BitVec 32

/-- A 64-bit value: a register, a seed, a tag (R463). -/
abbrev W64 := BitVec 64

end Sys2Proof
end

