-- ==== Sys2Proof/Syntax.lean ====
section
/-! DEFINITION. The block's commands, one constructor of `Instr` per row of spec/opcode_table.json, with the inputs that each
step takes from outside (the table gives no operands: log 9). Addresses, identifiers and counts are natural numbers whose widths
`WellFormed` checks; patterns are bit vectors. -/
namespace Sys2Proof

/-- Failed tries of a management network message at each of its receivers: a die's controller, the hub NoC, the CP (18_error_detection R414). -/
structure MsgTries where
  die : Nat := 0
  hub : Nat := 0
  cp : Nat := 0
  deriving DecidableEq, Repr, Inhabited

/-- What the CRC-8 of the CP's working memory and of its accepted packets finds as a command is taken up (R414, R415). -/
inductive CpCheck where
  | pass | memory | packet
  deriving DecidableEq, Repr, Inhabited

/-- A restore order: the position, and the failed tries of its message (R348, R414). -/
structure OrderTo where
  pos : Nat
  tries : MsgTries := {}
  deriving DecidableEq, Repr, Inhabited

/-- The header of a host command (15_command_protocol R354), with the queue that carries it and its sequence number (R326); `cp`
and `msg` are what the module meets as it runs the command: the CP's checks, and failed tries of the management messages that the command sends (R414). -/
structure PktHead where
  queue : Nat
  seq : Nat
  reply : Nat
  fence : Bool
  notify : Bool
  tag : W64
  cp : CpCheck := .pass
  msg : MsgTries := {}
  deriving DecidableEq, Repr, Inhabited

/-- CTX_CREATE (14_contexts R333). -/
structure CtxFields where
  id : Nat
  cls : Nat
  part : Nat
  domain : Nat
  cqBase : Nat
  cqSlots : Nat
  rqBase : Nat
  rqSlots : Nat
  pad : W32
  boostUs : Nat
  deriving DecidableEq, Repr, Inhabited

/-- MEM_MAP (07_memory_tiers R178); `size1G` is MM_SIZE, `write` MM_WRITE. -/
structure MapFields where
  ctx : Nat
  va : Nat
  pa : Nat
  pages : Nat
  size1G : Bool
  write : Bool
  deriving DecidableEq, Repr, Inhabited

/-- An error that a reading step meets (07_memory_tiers R184, R185): the sector (physical address / 64), how many of its
reads fail (1: the first re-read passes; 2: the second; 3 or more: none), whether the source's copy passes, and the syndrome of the
reads that fail. -/
structure SectorErr where
  sector : Nat
  fails : Nat
  sourceOk : Bool
  syndrome : Nat := 1
  deriving DecidableEq, Repr, Inhabited

/-- KV_RING_CREATE (R359). -/
structure KvRingFields where
  ctx : Nat
  header : Nat
  w : Nat
  d : Nat
  heads : Nat
  owner : Nat
  base : Nat
  next : Nat
  errs : List SectorErr := []
  deriving DecidableEq, Repr, Inhabited

/-- SO_CREATE (13_sync R310). -/
structure SoFields where
  id : Nat
  type : Nat
  domain : Nat
  remote : Bool
  init : Nat
  param : Nat
  deriving DecidableEq, Repr, Inhabited

/-- EDDY_GROUP_CREATE (06_eddy_ring R149). -/
structure EddyFields where
  tag : Nat
  ctx : Nat
  size : Nat
  rank : Nat
  members : List Nat
  ports : Nat
  portOut : List Nat
  portIn : List Nat
  layout : Nat
  slice : Nat
  pos0 : Nat
  slots : Nat
  landBase : Nat
  slotBytes : Nat
  formTimeout : Nat
  stallLimit : Nat
  deriving DecidableEq, Repr, Inhabited

/-- EXPX_GROUP_CREATE (08_sparsity R225): the Eddy fields without layout, slice, slot and landing fields. -/
structure ExpxFields where
  tag : Nat
  ctx : Nat
  size : Nat
  rank : Nat
  members : List Nat
  ports : Nat
  portOut : List Nat
  portIn : List Nat
  pos0 : Nat
  formTimeout : Nat
  stallLimit : Nat
  deriving DecidableEq, Repr, Inhabited

/-- TRADE_RING_CREATE (09_trade_ring R232). -/
structure TradeFields where
  tag : Nat
  ctx : Nat
  size : Nat
  rank : Nat
  members : List Nat
  ports : Nat
  portOut : List Nat
  portIn : List Nat
  node : Nat
  gports : Nat
  gportOut : List Nat
  gportIn : List Nat
  mesh : List Nat
  landBase : Nat
  landTrains : Nat
  formTimeout : Nat
  stallLimit : Nat
  deriving DecidableEq, Repr, Inhabited

/-- STAGE_QUEUE_CREATE (11_job_mapping R287); `consumer` is SQ_ROLE. -/
structure StageFields where
  tag : Nat
  ctx : Nat
  consumer : Bool
  peer : Nat
  peerCtx : Nat
  ports : Nat
  port : List Nat
  slots : Nat
  itemBytes : Nat
  base : Nat
  formTimeout : Nat
  stallLimit : Nat
  deriving DecidableEq, Repr, Inhabited

/-- A Vauri flit (17_vauri_links R397): its fields, or, where `raw` is given, the 256 bytes that came, whose fields and CRC count. -/
structure Flit where
  crcOk : Bool
  seq : Nat
  kind : Nat
  ack : Nat
  nak : Bool
  vc : Nat
  first : Bool
  last : Bool
  len : Nat
  crVc : Nat
  crCount : Nat
  bind : Nat
  payload : List Byte
  raw : Option (List Byte) := none
  deriving DecidableEq, Repr, Inhabited

/-- What a LAND_ACK acknowledges (R404, R405): a remote signal by number, or a unit of a context's binding. -/
inductive Landed where
  | signal (num : Nat)
  | unit (ctx : Nat)
  deriving DecidableEq, Repr, Inhabited

/-- The outcome of a Vauri training attempt (R395): passed, with what the identity exchange of step 5 gave, or failed in these
lanes; `inverted` are the lanes with inverted polarity. -/
structure TrainOutcome where
  pass : Bool
  peerId : Nat
  peerPort : Nat
  peerClass : Nat
  buffers : List Nat
  failedLanes : BitVec 16
  inverted : BitVec 16
  deriving DecidableEq, Repr, Inhabited

/-- What a parity check met: no error, or one (04_vector R118, 10_parameter_update R270). `word`: a scratchpad word of working data failed
its CRC-8, which fails the attempt and counts SP_CRC_ERR (07_memory_tiers R189, R412). -/
inductive Check where
  | pass | fail | word
  deriving DecidableEq, Repr, Inhabited

/-- An operation's step that reads memory: the operation, and the errors that its reads meet (07_memory_tiers R185). -/
structure OpAt where
  op : Nat
  errs : List SectorErr := []
  deriving DecidableEq, Repr, Inhabited

/-- What a tile's commit reply meets: the parity of the entries that the writeback reads (03_matrix R87), and the errors of sectors that it writes
in part (07_memory_tiers R188). -/
structure CommitIn where
  parity : Check
  errs : List SectorErr := []
  deriving DecidableEq, Repr, Inhabited

/-- What a model's write-back meets: whether its home's link was lost, and the errors of the dirty slots that it reads (07_memory_tiers R203,
R205). -/
structure HomeWrite where
  lost : Bool
  errs : List SectorErr := []
  deriving DecidableEq, Repr, Inhabited

/-- What an SFU meets as it grants (04_vector R104, R118): whether the micro-program store passes its check, and the parity of the vector
registers that the request carries. -/
structure GrantIn where
  storeOk : Bool
  parity : Check := .pass
  deriving DecidableEq, Repr, Inhabited

/-- Where a vector instruction runs: a context's VECTOR operation in progress and its stream (04_vector R95), and the parity of the
vector registers that it reads (R118). -/
structure VLoc where
  ctx : Nat
  stream : Nat
  parity : Check := .pass
  deriving DecidableEq, Repr, Inhabited

/-- The fields of a vector instruction word other than VI_OP (R95). -/
structure VWord where
  stream : Nat
  d : Nat
  a : Nat
  b : Nat
  c : Nat
  p : Nat
  pall : Bool
  range : Bool
  fmt : Nat
  tensor : Bool
  imm : Nat
  deriving DecidableEq, Repr, Inhabited

/-- The fields of a micro-program step word other than MS_OP (R113). -/
structure StepWord where
  d : Nat
  a : Nat
  b : Nat
  c : Nat
  imm : Nat
  deriving DecidableEq, Repr, Inhabited

/-- Which protocol a control message belongs to (R150, R225, R233, R287). -/
inductive Proto where
  | eddy | trade | expx | stage
  deriving DecidableEq, Repr, Inhabited

/-- A FORM message (R150): the port it came in at, and what it carries. -/
structure FormMsg where
  proto : Proto
  ctx : Nat
  port : Nat
  tag : Nat
  size : Nat
  rank : Nat
  digest : BitVec 128
  deriving DecidableEq, Repr, Inhabited

/-- An OPEN message (R234). -/
structure OpenMsg where
  ctx : Nat
  port : Nat
  tag : Nat
  number : Nat
  step : Nat
  digest : BitVec 128
  deriving DecidableEq, Repr, Inhabited

/-- What a landing block brings: whether it came poisoned, and the errors that the reads and partial writes of its landing meet (R166, R185, R188). -/
structure Landing where
  poisoned : Bool
  errs : List SectorErr := []
  deriving DecidableEq, Repr, Inhabited

/-- A block that is asked for again (06_eddy_ring R166): the rank that asks, the circulation it asks in, and the errors that the owner's reads meet
(R185). -/
structure ResendTo where
  dest : Nat
  circ : Nat
  errs : List SectorErr := []
  deriving DecidableEq, Repr, Inhabited

/-- An expert exchange unit's or message's context and group, operation index, sending and addressed rank (R226), and the errors that
the reads and partial writes it asks for meet (R185, R188). -/
structure ExpxMsg where
  ctx : Nat
  tag : Nat
  op : Nat
  src : Nat
  dst : Nat
  errs : List SectorErr := []
  deriving DecidableEq, Repr, Inhabited

/-- A bucket verdict round the ring (R245, R246). -/
inductive Verdict where
  | commit | restart | nonfinite | exhausted
  deriving DecidableEq, Repr, Inhabited

/-- The read-clear lost counters (R331). -/
inductive LostQ where
  | eq | tq | jq
  deriving DecidableEq, Repr, Inhabited

/-- The sensor classes of 20_power R456. -/
inductive SensorKind where
  | junction | hbm | lpddr | conversion | coldPlate
  deriving DecidableEq, Repr, Inhabited

/-- One temperature sample: its class, its telemetry unit and the temperature (m°C) (R422, R456). -/
structure Sample where
  kind : SensorKind
  unit : Nat
  temp : Int
  deriving DecidableEq, Repr, Inhabited

/-- The commands. -/
inductive Instr where
  -- contexts (14)
  | ctxCreate (h : PktHead) (f : CtxFields)
  | ctxDestroy (h : PktHead) (id : Nat)
  | ctxQuery (h : PktHead) (id : Nat)
  | ctxSet (h : PktHead) (id cls : Nat) (pad : W32) (boostUs mask : Nat)
  | ctxSuspend (h : PktHead) (id : Nat)
  | ctxResume (h : PktHead) (id : Nat)
  | kcgSet (h : PktHead) (id : Nat) (seed : W64)
  -- memory (07, 15)
  | memMap (h : PktHead) (f : MapFields)
  | memUnmap (h : PktHead) (ctx va pages : Nat) (size1G : Bool)
  | memTranslate (h : PktHead) (ctx va : Nat)
  | memCopy (h : PktHead) (ctx src dst bytes : Nat) (errs : List SectorErr)
  | memFill (h : PktHead) (ctx dst bytes : Nat) (pattern : W64)
  | tierQuery (h : PktHead) (ctx token : Nat)
  | kvRingCreate (h : PktHead) (f : KvRingFields)
  | cfgSet (h : PktHead) (key value : Nat)
  | cfgGet (h : PktHead) (key : Nat)
  -- plans (15)
  | planAdmit (h : PktHead) (addr bytes : Nat) (errs : List SectorErr)
  | monoCheckComplete (ctx : Nat)
  | planRelease (h : PktHead)
  | planRun (h : PktHead) (step status : Nat)
  | planQuery (h : PktHead)
  -- synchronisation objects (13)
  | soCreate (h : PktHead) (f : SoFields)
  | soDestroy (h : PktHead) (id : Nat)
  | soRead (h : PktHead) (id : Nat)
  | soSignal (h : PktHead) (id op n : Nat)
  | soReset (h : PktHead) (id value : Nat)
  -- rings, groups and stage queues (06, 08, 09, 10, 11)
  | tradeRingCreate (h : PktHead) (f : TradeFields)
  | tradeRingDestroy (h : PktHead) (tag ctx : Nat)
  | tradeRingQuery (h : PktHead) (tag ctx : Nat)
  | tradeStateRead (h : PktHead) (ctx first count : Nat)
  | tradeStateWrite (h : PktHead) (ctx first count : Nat) (records : List Byte)
  | eddyGroupCreate (h : PktHead) (f : EddyFields)
  | eddyGroupDestroy (h : PktHead) (tag ctx : Nat)
  | eddyGroupQuery (h : PktHead) (tag ctx : Nat)
  | expxGroupCreate (h : PktHead) (f : ExpxFields)
  | expxGroupDestroy (h : PktHead) (tag ctx : Nat)
  | expxGroupQuery (h : PktHead) (tag ctx : Nat)
  | stageQueueCreate (h : PktHead) (f : StageFields)
  | stageQueueDestroy (h : PktHead) (tag ctx : Nat)
  | stageQueueQuery (h : PktHead) (tag ctx : Nat)
  -- model cache (07)
  | mcRegister (h : PktHead) (model bytes home : Nat)
  | mcUnregister (h : PktHead) (model : Nat)
  | mcLoad (h : PktHead) (model : Nat)
  | mcPin (h : PktHead) (model : Nat)
  | mcUnpin (h : PktHead) (model : Nat)
  | mcEvict (h : PktHead) (model : Nat)
  | mcQuery (h : PktHead) (model first : Nat)
  | mcWriteback (h : PktHead) (model : Nat)
  | modelWritebackComplete (model : Nat) (w : HomeWrite)
  -- telemetry, firmware, power (18, 19, 20)
  | telRead (h : PktHead) (unit first count : Nat)
  | lullRead (h : PktHead) (ctx first count : Nat)
  | fwStageWrite (h : PktHead) (offset : Nat) (data : List Byte)
  | fwStageCommit (h : PktHead)
  | fwActivate (h : PktHead) (mode tag step : Nat)
  | fwQuery (h : PktHead)
  | attestQuote (h : PktHead) (nonce : BitVec 256) (dest : Nat)
  | identRead (h : PktHead) (dest : Nat)
  | resetOrdered (h : PktHead)
  | pwrCapSet (h : PktHead) (cap : Nat)
  | pwrQuery (h : PktHead)
  -- host registers and queues (13, 16, 17, 21)
  | doorbellWrite (ctx : Nat)
  | packetAccept (ctx : Nat) (errs : List SectorErr)
  | rqHeadWrite (ctx : Nat) (value : W64)
  | hiRetrainWrite (value : W64)
  | hiWinWrite (size : Bool) (value : W64)
  | mqEnableWrite (value : W64)
  | ntEnableWrite (value : W64)
  | ntAckWrite (value : W64)
  | lostCounterRead (which : LostQ) (tag : Nat)
  | vlModuleIdWrite (value : W64)
  | vlEnableWrite (value : W64)
  | vpRetrainWrite (port : Nat) (value : W64)
  | registerWrite (offset : Nat) (value : W64)
  -- recovery window (19)
  | recEraseStaging
  | recWrite
  | recCommit
  | recInstall
  | recBootActive
  | recRestart
  -- host attachment (16)
  | hostWriteTransaction (addr : Nat) (data : List Byte) (errs : List SectorErr)
  | hostReadRequest (addr len tag : Nat) (errs : List SectorErr)
  | hostReadCompletion (tag status : Nat) (data : List Byte)
  | sidebandAccess (write : Bool) (addr : Nat) (wide : Bool) (value : W64)
  | ucieTrainAttempt
  | ucieFlitReplay (flits : Nat)
  | ucieLinkFault
  | ucieTrainAttemptEnd (pass : Bool)
  -- Vauri links (17)
  | vauriTrainAttempt (port : Nat)
  | vauriTrainAttemptEnd (port : Nat) (o : TrainOutcome)
  | vauriUnitSend (port vc : Nat)
  | vauriIdleSend (port : Nat)
  | flitDataReceive (port : Nat) (f : Flit)
  | flitSignalReceive (port : Nat) (f : Flit)
  | flitLandAckReceive (port : Nat) (f : Flit) (what : Landed)
  | flitIdleReceive (port : Nat) (f : Flit)
  | vauriReplayTimeout (port : Nat)
  | vauriLockLost (port lane : Nat)
  | vauriBerCheck (port : Nat)
  | linkCreditReserve (port vc : Nat)
  -- synchronisation operations (13)
  | soRsignal (ctx op : Nat)
  | rsignalDepart (ctx op : Nat)
  | syncSignal (ctx op : Nat)
  | syncWait (ctx op : Nat)
  | syncTrywait (ctx : Nat) (op : OpAt)
  | syncRaise (ctx op : Nat)
  | syncWaitge (ctx op : Nat)
  | syncArrive (ctx op : Nat)
  | syncArrivewait (ctx op : Nat)
  | syncAcquire (ctx op : Nat)
  | syncTryacquire (ctx : Nat) (op : OpAt)
  | syncRelease (ctx op : Nat)
  | syncFadd (ctx : Nat) (op : OpAt)
  | syncTake (ctx op : Nat)
  | syncReturn (ctx op : Nat)
  | syncRead (ctx : Nat) (op : OpAt)
  | waiterWake (so ctx : Nat)
  | soWaitTimeout (so ctx : Nat)
  | soParityError (so : Nat)
  -- matrix engine (03)
  | matmul (ctx op : Nat) (errs : List SectorErr)
  | claimReply (ctx pos op : Nat)
  | tileChunkLoad (ctx pos : Nat) (errs : List SectorErr)
  | tileGroupComplete (ctx pos : Nat) (check : Check)
  | commitReply (ctx pos : Nat) (g : CommitIn)
  -- vector engine (04)
  | vector (ctx op : Nat)
  | vadd (l : VLoc) (w : VWord)
  | vsub (l : VLoc) (w : VWord)
  | vmul (l : VLoc) (w : VWord)
  | vfma (l : VLoc) (w : VWord)
  | vmin (l : VLoc) (w : VWord)
  | vmax (l : VLoc) (w : VWord)
  | vabs (l : VLoc) (w : VWord)
  | vneg (l : VLoc) (w : VWord)
  | vcmp (l : VLoc) (w : VWord)
  | vsel (l : VLoc) (w : VWord)
  | vpand (l : VLoc) (w : VWord)
  | vpor (l : VLoc) (w : VWord)
  | vcvt (l : VLoc) (w : VWord)
  | vtwosum (l : VLoc) (w : VWord)
  | vtwoprod (l : VLoc) (w : VWord)
  | vld (l : VLoc) (w : VWord) (errs : List SectorErr)
  | vst (l : VLoc) (w : VWord) (errs : List SectorErr)
  | vlda (l : VLoc) (w : VWord)
  | vred (l : VLoc) (w : VWord)
  | vsort (l : VLoc) (w : VWord)
  | vmerge (l : VLoc) (w : VWord)
  | vtopk (l : VLoc) (w : VWord)
  | vsfu (l : VLoc) (w : VWord)
  | vkcg (l : VLoc) (w : VWord)
  | vvar (l : VLoc) (w : VWord)
  | sfuGrant (core : Nat) (g : GrantIn)
  | sfuResult (core : Nat)
  | msSplite (core : Nat) (w : StepWord)
  | msSpliti (core : Nat) (w : StepWord)
  | msSeg (core : Nat) (w : StepWord)
  | msHorner (core : Nat) (w : StepWord)
  | msFadd (core : Nat) (w : StepWord)
  | msFmul (core : Nat) (w : StepWord)
  | msFfma (core : Nat) (w : StepWord)
  | msScale (core : Nat) (w : StepWord)
  | msCmp (core : Nat) (w : StepWord)
  | msSel (core : Nat) (w : StepWord)
  | msSkip (core : Nat) (w : StepWord)
  | msClamp (core : Nat) (w : StepWord)
  | msSeamclamp (core : Nat) (w : StepWord)
  | msCall (core : Nat) (w : StepWord)
  | msOut (core : Nat) (w : StepWord)
  -- attention (05)
  | attentionForward (ctx op : Nat) (errs : List SectorErr)
  | attentionBackward (ctx op : Nat) (errs : List SectorErr)
  | attentionVerify (ctx op : Nat) (errs : List SectorErr)
  | attentionAppend (ctx op : Nat) (errs : List SectorErr)
  | attentionCommit (ctx op : Nat) (errs : List SectorErr)
  | attendBlock (ctx pos : Nat) (check : Check) (errs : List SectorErr)
  | backwardStep (ctx pos : Nat) (check : Check) (errs : List SectorErr)
  | backwardCombine (ctx : Nat) (o : OpAt)
  -- formation and the Eddy ring (06)
  | formMessage (m : FormMsg)
  | sealMessage (p : Proto) (ctx tag : Nat)
  | sealedMessage (p : Proto) (ctx tag : Nat)
  | formTimeout (p : Proto) (ctx tag : Nat)
  | eddyBlockLand (ctx : Nat) (port : Nat) (block : List Byte) (poisoned : Landing)
  | eddyBlockForward (ctx : Nat) (errs : List SectorErr)
  | eddyCreditGrant (ctx : Nat)
  | eddyCreditReceive (ctx tag : Nat)
  | eddyResendRequest (ctx : Nat) (rotOwner head loc : Nat) (dest : ResendTo)
  | eddyStallTimeout (ctx : Nat)
  -- the Trade ring (09)
  | openMessage (m : OpenMsg)
  | amaxExchangeMessage (ctx : Nat) (second : Bool) (values : List (Nat × W32))
  | trainLand (ctx port : Nat) (train : List Byte) (errs : List SectorErr)
  | trainSend (ctx : Nat) (errs : List SectorErr)
  | tradeLandingCredit (ctx count : Nat)
  | trainRerequest (ctx port bucket train : Nat)
  | bucketVerdictMessage (ctx bucket : Nat) (v : Verdict) (e : Int) (peak : Nat)
  | verdictRecordMessage (ctx : Nat) (record : List Byte)
  | finalVerdictRecord (ctx : Nat) (record : List Byte)
  | gatherTrainLand (ctx port : Nat) (train : List Byte) (poisoned : List Nat)
  | tradeStallTimeout (ctx : Nat)
  | tradeReduce (ctx op : Nat) (errs : List SectorErr)
  | tradeGather (ctx op : Nat) (errs : List SectorErr)
  -- parameter update (10)
  | optUpdate (ctx op : Nat) (errs : List SectorErr)
  | updateUnit (ctx op pos : Nat) (check : Check) (errs : List SectorErr)
  | refreshUnit (ctx op pos : Nat) (check : Check) (errs : List SectorErr)
  -- experts and sparse tensors (08)
  | expertRoute (ctx op : Nat) (errs : List SectorErr)
  | routeChunkCount (ctx op chunk : Nat) (check : Check) (errs : List SectorErr)
  | expertScatter (ctx op : Nat) (errs : List SectorErr)
  | expertCombine (ctx op : Nat) (errs : List SectorErr)
  | expxCountLand (m : ExpxMsg) (step : Nat) (counts : List Nat) (poisoned : Bool)
  | expxRowGrant (m : ExpxMsg)
  | expxRowLand (m : ExpxMsg) (expert ordinal ret : Nat) (row : List Byte) (poisoned damaged : Bool)
  | expxReturnLand (m : ExpxMsg) (ret : Nat) (row : List Byte) (poisoned damaged : Bool)
  | expxRowResendRequest (m : ExpxMsg) (expert ordinal ret : Nat)
  | omtPack (ctx op : Nat) (errs : List SectorErr)
  | omtUnpack (ctx op : Nat) (errs : List SectorErr)
  -- transfers and stage queues (07, 11)
  | transfer (ctx : Nat) (o : OpAt)
  | transferStart (ctx : Nat) (updraft : Bool)
  | transferSegmentComplete (ctx : Nat) (updraft : Bool) (errs : List SectorErr)
  | stqPut (ctx op : Nat) (errs : List SectorErr)
  | stqGet (ctx : Nat) (op : OpAt)
  | stqRelease (ctx op : Nat)
  | stageItemLand (ctx tag step index segment : Nat) (data : List Byte) (last poisoned : Bool)
  | stageCreditReturn (ctx tag : Nat)
  | stageStallTimeout (ctx tag : Nat)
  -- marks (11, 12, 21), rebuild (07)
  | stepMark (ctx op : Nat) (errs : List SectorErr)
  | lullSnap (ctx : Nat) (op : OpAt)
  | traceMark (ctx op : Nat)
  | tensorRebuild (ctx tensor : Nat) (ok : Bool)
  -- scheduling, save and restore (14)
  | quantumExpire (ctx : Nat)
  | saveOrder (ctx pos : Nat) (tries : MsgTries)
  | saveDrainComplete (ctx pos : Nat)
  | saveComplete (ctx pos : Nat)
  | restoreOrder (ctx : Nat) (pos : OrderTo)
  | restoreComplete (ctx pos : Nat) (errs : List SectorErr)
  | boostBudgetExpire (so : Nat)
  -- telemetry mirror, I2C, power and reset (18, 20)
  | telemetryMirrorRefresh
  | i2cMirrorRead (addr offset len : Nat) (write : Bool)
  | i2cRecoveryAccess (addr offset : Nat) (write : Bool) (data : List Byte) (len : Nat)
  | governorTick (pinMw pin1sMw : Nat)
  | thermalSample (samples : List Sample)
  | thermalStepUp (kind : SensorKind) (unit : Nat)
  | inputVoltageEvent (mv : Nat)
  | inputShutdown (aux : Bool) (mv : Nat)
  | auxPowerUp (straps : Nat)
  | busbarPowerUp
  | resetRelease (recoveryN : Bool)
  | resetNLow
  | calmPoint
  | fwBackgroundCopyComplete
  | flashStoreComplete (readBackOk : Bool)
  deriving DecidableEq, Repr

end Sys2Proof
end

