-- ==== Sys2Proof/Decode.lean ====
section
/-! DEFINITION. The opcode table gives no row any bits ("fields" is empty and there is no "fixed" in every row of
spec/opcode_table.json), so no word spells a command: decoding is total and answers none. How a command packet's bytes spell a
host command (15_command_protocol R354 to R361) is `Machine/Packets.lean`. -/
namespace Sys2Proof

/-- The command that a word of `nbits` bits spells by the table's bits: none, since no row has bits. -/
def decodeTableWord (_nbits _w : Nat) : Option Instr := none

end Sys2Proof
end

