-- ==== Sys2Proof/Config.lean ====
section
/-! DEFINITION. What the spec leaves open as a value: every constant here is opaque, so no proof can see what it is.
The assumption log names each. -/
namespace Sys2Proof

/-- A fresh free value: the n-th one that the model's own counter `State.freeCtr` hands out (log 2). -/
opaque Config.freeWord : Nat → W64

/-- What a byte of host-die memory reads at a time of the reference counter, when no completion has delivered it: host memory
is outside the module (R383; log 6). -/
opaque Config.hostByte : Nat → Nat → Byte

/-- The coefficient tables of the built-in functions (R106): by table, segment and power 1 to 3, 64-bit fixed point with 48 fraction
bits. The tables belong to the compatibility class and are not in the spec, so the bits inside the 2 ulp bound are free (log 12). -/
opaque Config.sfuCoef : Nat → Nat → Nat → W64

/-- An internal value of a micro-program that the spec does not state, by its kind and the operand's sign, significand and exponent
(log 12). -/
opaque Config.sfuExt : Nat → Bool × Nat × Int → Bool × Nat × Int

/-- SHAKE256 with a 256-bit output: named by the spec (R112, R302, R428), not defined there (log 13). -/
opaque Config.shake256 : List Byte → BitVec 256

/-- Does an SLH-DSA-SHAKE-256s signature verify: public key, message, signature (R428, R429; log 13). -/
opaque Config.slhVerify : List Byte → List Byte → List Byte → Bool

/-- An SLH-DSA-SHAKE-256s signature of a message by the identity private key (R444; log 13). -/
opaque Config.slhSign : BitVec 1024 → List Byte → List Byte

/-- An SLH-DSA-SHAKE-256f signature of a message by the attestation key of the start with this boot count (R446; log 13). -/
opaque Config.attestSign : Nat → List Byte → List Byte

/-- The attestation public key generated at the start with this boot count (R444; log 13). -/
opaque Config.attestKey : Nat → List Byte

/-- The SHAKE256 digest of the boot ROM, entry kind 1 of the measurement log (R445; log 13). -/
opaque Config.bootRomDigest : BitVec 256

end Sys2Proof
end

