-- ==== Sys2Proof/Machine/Types.lean ====
section
/-! DEFINITION. The records that the machine's state is built of: status codes, numbers and flags, plan images, work in progress,
queues, objects, groups, ports, firmware. Plain data throughout. -/
namespace Sys2Proof.Machine

/-! ## Status codes (15_command_protocol R371) -/

/-- Every status the module returns. -/
inductive Status where
  | ok | opcode | paramLength | paramRange | replyRoom | queue | notIssued | poison | cfgValue | cfgKey
  | ctxUnknown | ctxExists | ctxRange | ctxBusy | ctxState | savePool | placeCores
  | memRange | memAlign | memBusy | memFault | memCapacity | tierToken
  | ringPosition | ringOwner | verifyTree | verifyPath | omtRange | omtFull
  | planImage | planClass | planBusy | planShape | planFormat | planTileShape | planTileFit
  | planMicroprog | planTier | planExpertFit | planTrade | planStage | planSync | planBuffer | planNone | dupTile | runArea
  | soUnknown | soExists | soRange | soBusy | soNotHolder | soHeld | soOverflow | soLink | waitTimeout | waitHolderPreempted
  | tradeFormMismatch | tradeFormTimeout | tradeSkew | tradeLink | tradeNoRing | tradeBusy
  | stepSkew | stepLimit | scaleExhausted | gradOverflow | updateParam
  | eddyFormMismatch | eddyFormTimeout | eddySkew | eddyLink | eddyNoGroup | eddyLanding
  | expxFormMismatch | expxFormTimeout | expxSkew | expxLink
  | stageFormMismatch | stageFormTimeout | stageSkew | stageLink
  | mcUnknown | mcExists | mcBusy | mcFull | mcPins | mcWriter | mcHome
  | telRange | fwSignature | fwSvn | fwFormat | fwStaging | fwBusy | fwPower | powerRange
  deriving DecidableEq, Repr, Inhabited

/-- The values of R371. -/
def Status.code : Status → Nat
  | .ok => 0x0000 | .opcode => 0x0001 | .paramLength => 0x0002 | .paramRange => 0x0003 | .replyRoom => 0x0004
  | .queue => 0x0005 | .notIssued => 0x0006 | .poison => 0x0007 | .cfgValue => 0x0008 | .cfgKey => 0x0009
  | .ctxUnknown => 0x0101 | .ctxExists => 0x0102 | .ctxRange => 0x0103 | .ctxBusy => 0x0104 | .ctxState => 0x0105
  | .savePool => 0x0110 | .placeCores => 0x0111
  | .memRange => 0x0201 | .memAlign => 0x0202 | .memBusy => 0x0203 | .memFault => 0x0204 | .memCapacity => 0x0205
  | .tierToken => 0x0206 | .ringPosition => 0x0210 | .ringOwner => 0x0211 | .verifyTree => 0x0212 | .verifyPath => 0x0213
  | .omtRange => 0x0220 | .omtFull => 0x0221
  | .planImage => 0x0301 | .planClass => 0x0302 | .planBusy => 0x0303 | .planShape => 0x0304 | .planFormat => 0x0305
  | .planTileShape => 0x0306 | .planTileFit => 0x0307 | .planMicroprog => 0x0308 | .planTier => 0x0309
  | .planExpertFit => 0x030A | .planTrade => 0x030B | .planStage => 0x030C | .planSync => 0x030D | .planBuffer => 0x030E
  | .planNone => 0x030F | .dupTile => 0x0310 | .runArea => 0x0311
  | .soUnknown => 0x0401 | .soExists => 0x0402 | .soRange => 0x0403 | .soBusy => 0x0404 | .soNotHolder => 0x0405
  | .soHeld => 0x0406 | .soOverflow => 0x0407 | .soLink => 0x0408 | .waitTimeout => 0x0410 | .waitHolderPreempted => 0x0411
  | .tradeFormMismatch => 0x0510 | .tradeFormTimeout => 0x0511 | .tradeSkew => 0x0512 | .tradeLink => 0x0513
  | .tradeNoRing => 0x0514 | .tradeBusy => 0x0515 | .stepSkew => 0x0516 | .stepLimit => 0x0517 | .scaleExhausted => 0x0518
  | .gradOverflow => 0x0519 | .updateParam => 0x051A
  | .eddyFormMismatch => 0x0520 | .eddyFormTimeout => 0x0521 | .eddySkew => 0x0522 | .eddyLink => 0x0523
  | .eddyNoGroup => 0x0524 | .eddyLanding => 0x0525
  | .expxFormMismatch => 0x0530 | .expxFormTimeout => 0x0531 | .expxSkew => 0x0532 | .expxLink => 0x0533
  | .stageFormMismatch => 0x0540 | .stageFormTimeout => 0x0541 | .stageSkew => 0x0542 | .stageLink => 0x0543
  | .mcUnknown => 0x0601 | .mcExists => 0x0602 | .mcBusy => 0x0603 | .mcFull => 0x0604 | .mcPins => 0x0605
  | .mcWriter => 0x0606 | .mcHome => 0x0607 | .telRange => 0x0701
  | .fwSignature => 0x0801 | .fwSvn => 0x0802 | .fwFormat => 0x0803 | .fwStaging => 0x0804 | .fwBusy => 0x0805
  | .fwPower => 0x0806 | .powerRange => 0x0901

/-! ## Tables by number -/

/-- A table with natural-number keys, kept with rising keys. -/
abbrev KV (α : Type) := List (Nat × α)

/-! ## Numbers -/

/-- The operand formats (R362), in code order 0-7. -/
inductive Fmt where
  | bf16 | fp32 | e4m3 | e5m2 | vb8 | pf32 | i32 | byte
  deriving DecidableEq, Repr, Inhabited

/-- An accumulator entry or vector register element: an FP32 pattern and the four flags of R54 (OVF, INFIN, INV, FLUSH in bits
0-3).  `nin` is the model's own: the NaN held came in as a NaN input, which `CAPTURE_KIND` of a later store names (R59). -/
structure Entry where
  v : W32
  fl : BitVec 4
  nin : Bool
  deriving DecidableEq, Repr, Inhabited

/-- The first-invalid capture (R57, R59); `kind` 0 invalid operation, 1 NaN input. -/
structure Capture where
  kind : Nat
  tileM : Nat
  tileN : Nat
  kgroup : Nat
  row : Nat
  col : Nat
  deriving DecidableEq, Repr, Inhabited

/-- The counts behind the numeric status block (R57). -/
structure NumStat where
  sat : Nat
  flush : Nat
  inv : Nat
  cap : Option Capture
  deriving DecidableEq, Repr, Inhabited

/-! ## Plan images (15 R361 to R364, R470) -/

/-- A tensor descriptor (R362). -/
structure TDesc where
  addr : Nat
  fmt : Nat
  layout : Nat
  tier : Nat
  rank : Nat
  token : Nat
  stream : Nat
  dims : List Nat
  strides : List Nat
  rebuildFirst : Nat
  rebuildCount : Nat
  scale : Nat
  scaleKind : Nat
  shist : Nat
  omtMap : Nat
  omtOfs : Nat
  omtData : Nat
  omtCap : Nat
  deriving DecidableEq, Repr, Inhabited

/-- A matrix operation (R70, R219, R363). -/
structure MatF where
  m : Nat
  n : Nat
  k : Nat
  tileM : Nat
  tileN : Nat
  dbuf : Nat
  aFmt : Nat
  bFmt : Nat
  outFmt : Nat
  aSparse : Nat
  bSparse : Nat
  cInit : Nat
  numMode : Nat
  kSplit : Nat
  gridOrder : Nat
  band : Nat
  claimWidth : Nat
  rangeCount : Nat
  rangeSo : List Nat
  rangeEnd : List Nat
  rowstat : Nat
  rowstatDesc : Nat
  tstatDesc : Nat
  grpCount : Nat
  grpCntDesc : Nat
  grpSrc : Nat
  grpStride : Nat
  grpBBytes : Nat
  aDesc : Nat
  bDesc : Nat
  cDesc : Nat
  outDesc : Nat
  deriving DecidableEq, Repr, Inhabited

/-- An attention operation (R120). -/
structure AttF where
  op : Nat
  headDim : Nat
  qHeads : Nat
  kvHeads : Nat
  qLen : Nat
  kvLen : Nat
  qPos0 : Nat
  kvPos0 : Nat
  mask : Nat
  window : Nat
  scale2 : W32
  scale : W32
  kvSrc : Nat
  outFmt : Nat
  numMode : Nat
  dqParts : Nat
  qDesc : Nat
  kDesc : Nat
  vDesc : Nat
  oDesc : Nat
  doDesc : Nat
  dqDesc : Nat
  dkDesc : Nat
  dvDesc : Nat
  lseDesc : Nat
  dqpDesc : Nat
  docDesc : Nat
  ringDesc : Nat
  treeDesc : Nat
  pathDesc : Nat
  deriving DecidableEq, Repr, Inhabited

/-- An expert dispatch operation (R214). -/
structure ExpF where
  op : Nat
  tokens : Nat
  experts : Nat
  topk : Nat
  cap : Nat
  ovfCap : Nat
  rowFmt : Nat
  rowLen : Nat
  group : Nat
  scoreDesc : Nat
  predDesc : Nat
  emaskDesc : Nat
  recDesc : Nat
  selDesc : Nat
  cntDesc : Nat
  xDesc : Nat
  bufDesc : Nat
  ovfDesc : Nat
  yDesc : Nat
  yovfDesc : Nat
  retDesc : Nat
  outDesc : Nat
  wDesc : Nat
  numMode : Nat
  deriving DecidableEq, Repr, Inhabited

/-- A vector operation (R363) with its instruction words (R95). -/
structure VecF where
  streams : Nat
  code : Nat
  words : List W64
  iter : Nat
  inplace : Nat
  ddof : Nat
  dropP32 : Nat
  dropScale : W32
  numMode : Nat
  deriving DecidableEq, Repr, Inhabited

/-- A SYNC operation (R363). -/
structure SyncF where
  op : Nat
  so : Nat
  n : Nat
  tmo : Nat
  module : Nat
  port : Nat
  result : Nat
  deriving DecidableEq, Repr, Inhabited

/-- A stage operation (R363). -/
structure StqF where
  op : Nat
  tag : Nat
  lullAs : Nat
  srcDesc : Nat
  result : Nat
  deriving DecidableEq, Repr, Inhabited

/-- OPT_UPDATE (R260). -/
structure UpdF where
  reduce : Nat
  groups : Nat
  state : Nat
  lscale : Nat
  claimSo : Nat
  numMode : Nat
  deriving DecidableEq, Repr, Inhabited

/-- The operations of a plan (R363). -/
inductive PlanOp where
  | matmul (f : MatF)
  | attention (f : AttF)
  | expert (f : ExpF)
  | omtPack (src dst mode : Nat)
  | omtUnpack (src dst mode : Nat)
  | vector (f : VecF)
  | transfer (list count : Nat)
  | sync (f : SyncF)
  | stage (f : StqF)
  | tradeReduce (table buckets mode : Nat)
  | tradeGather (table buckets mode : Nat)
  | optUpdate (f : UpdF)
  | stepMark (record : Nat) (entries : List (Nat × Nat × Nat))
  | lullSnap (addr : Nat)
  | traceMark (code : Nat) (data : W64)
  deriving DecidableEq, Repr, Inhabited

/-- `OP_KIND` (R363). -/
def PlanOp.kind : PlanOp → Nat
  | .matmul _ => 0x0001 | .attention _ => 0x0002 | .expert _ => 0x0003 | .omtPack .. => 0x0004 | .omtUnpack .. => 0x0005
  | .vector _ => 0x0006 | .transfer .. => 0x0007 | .sync _ => 0x0008 | .stage _ => 0x0009 | .tradeReduce .. => 0x000A
  | .tradeGather .. => 0x000B | .optUpdate _ => 0x000C | .stepMark .. => 0x000D | .lullSnap _ => 0x000E | .traceMark .. => 0x000F

/-- One segment of a micro-program's table: four coefficients (64-bit fixed point, 48 fraction bits) and its seam value (R112). -/
structure Seg where
  c0 : BitVec 64
  c1 : BitVec 64
  c2 : BitVec 64
  c3 : BitVec 64
  seam : W32
  deriving DecidableEq, Repr, Inhabited

/-- An extended value (R111): sign, 48-bit significand m, exponent e; the value is m x 2^e with m of at most 48 bits. -/
structure Ext where
  neg : Bool
  m : Nat
  e : Int
  deriving DecidableEq, Repr, Inhabited

/-- A micro-program with its steps and tables (R112, R113). -/
structure MicroProg where
  slot : Nat
  steps : List (BitVec 32)
  results : Nat
  segs : Nat
  segsel : Nat
  mono : Nat
  monoLo : W32
  monoHi : W32
  consts : List Ext
  table : List Seg
  digest : BitVec 256
  digestOk : Bool
  deriving DecidableEq, Repr, Inhabited

/-- An admitted plan (R364, R369). -/
structure Plan where
  cls : Nat
  ops : List PlanOp
  tensors : KV TDesc
  mps : List MicroProg
  models : List (Nat × Bool × Nat)
  tokens : List Nat
  cores : Nat
  dies : Nat
  exact : Bool
  dieRank : List Nat
  digest : BitVec 256
  deriving DecidableEq, Repr, Inhabited

/-! ## Runs and work in progress -/

/-- Matrix operation progress (R72, R76, R82, R281): commit map, stored partials of (tile, split) units with their counts, row
statistics of finished tiles by tm x Gn + tn (maximum, sum, absolute maximum), claim ranges seen exhausted by (position, range),
poisoned units, poisoned tiles, finished tiles, the tiles that wait for a measured output scale, that scale, and the source's amax. -/
structure MatProg where
  commit : List Nat
  parts : KV (List Entry × NumStat)
  stats : KV (List (Entry × Entry × Entry))
  exhausted : List (Nat × Nat)
  poisonUnits : List Nat
  poisonTiles : List Nat
  tiles : List Nat
  deferred : KV (List Entry × NumStat)
  shScale : Option W32
  amax : W32
  deriving DecidableEq, Repr, Inhabited

/-- A window ring's header as an operation read it (R139). -/
structure RingHdr where
  w : Nat
  d : Nat
  heads : Nat
  next : Nat
  staged : Nat
  owner : Nat
  stagePos : Nat
  base : Nat
  deriving DecidableEq, Repr, Inhabited

/-- The running state of one query row (R126), with the log-sum-exp it finishes with (R128). -/
structure Row where
  m : Entry
  l : Entry
  o : List Entry
  seen : Bool
  invalid : Bool
  flushed : Bool
  lse : Entry
  deriving DecidableEq, Repr, Inhabited

/-- A core's attention unit (R125, R137): operation, unit, the rows, the next place in block order, for backward the next query
block and the gradients of the resident key block, whether the unit's standing operand has been loaded, whether the key block had a
visible pair, the attempt, the counts, whether it is poisoned or finished, and the exp2 requests of the next step whose results it still
waits for, none where the step has not asked for them (R124). -/
structure AttWork where
  op : Nat
  unit : Nat
  rows : List Row
  blk : Nat
  qb : Nat
  dk : List Entry
  dv : List Entry
  loaded : Bool
  hit : Bool
  attempt : Nat
  num : NumStat
  poisoned : Bool
  fin : Bool
  sfu : Option (List Nat)
  deriving DecidableEq, Repr, Inhabited

/-- Attention progress (R125, R133, R134, R145): commit map, the next unit to claim, empty rows, stored key and value gradient
partials by (head x 2^32 + block), poisoned units, units that wait aside for circulated blocks, the ring's header, the tree's
parents, and whether backward's results have been combined. -/
structure AttProg where
  commit : List Nat
  next : Nat
  empty : Nat
  parts : KV (List Entry × List Entry)
  poisoned : List Nat
  parked : List AttWork
  ring : Option RingHdr
  tree : List Nat
  combined : Bool
  deriving DecidableEq, Repr, Inhabited

/-- One stream of a VECTOR operation: next word, iteration, whether it waits on SFU results, and the lane groups whose results the
current word has (R95, R102, R104). -/
structure VStream where
  word : Nat
  iter : Nat
  waitSfu : Bool
  sfuDone : List Nat
  deriving DecidableEq, Repr, Inhabited

/-- The vector register file of a position (R91): registers keyed lane x 32 + register, predicates 0-7 of 64 lanes. -/
structure VecRegs where
  regs : KV Entry
  preds : List W64
  deriving DecidableEq, Repr, Inhabited

/-- VECTOR progress (R95 to R101, R116 to R118, R281): streams, the elements that each reducing word has taken so far by word and
element index, the attempt and its counts, `VAR_CLAMP`, the stored elements by tensor index, whether the outputs are poisoned,
per stored tensor with a scale history the chosen scale, the amax and the stores that wait for the scale, the registers as the
operation found them, from which an attempt runs again, and by physical address the bytes as they stood before its stores, with whether they
were poisoned and whether by a detected error, which a fault puts back (R181). The attempt is 3 once none is left. -/
structure VecProg where
  streams : List VStream
  taken : KV (List (Nat × Entry × Entry))
  attempt : Nat
  num : NumStat
  varClamp : Nat
  stored : List (Nat × Nat)
  spoiled : Bool
  shist : KV (Option W32 × W32)
  deferred : KV (List (Nat × Entry))
  init : VecRegs
  undo : KV (Byte × Bool × Bool)
  deriving DecidableEq, Repr, Inhabited

/-- Expert routing progress (R216, R224): chunks counted, failed attempts by chunk, whether the counts are poisoned. -/
structure ExpProg where
  chunks : List Nat
  attempts : KV Nat
  poisoned : Bool
  deriving DecidableEq, Repr, Inhabited

/-- OPT_UPDATE progress (R262, R268 to R270, R281): the group table as read, the buckets, the units that positions hold for a
re-run and the failed attempts by unit, units finished, the positions that had the phase's exhausted claim, whether the refresh phase
runs, the sides due as (bucket, block, side) and those finished, the counters of the update status block, and by bucket the scale of
its working copy (none: it waits for the new masters). -/
structure UpdProg where
  groups : List (List Byte)
  bks : List (List Nat)
  held : KV Nat
  attempts : KV Nat
  done : List Nat
  exhausted : List Nat
  refreshing : Bool
  sides : List (Nat × Nat × Nat)
  sidesDone : List Nat
  refreshed : Nat
  retries : Nat
  fallbacks : Nat
  scales : KV (Option W32)
  deriving DecidableEq, Repr, Inhabited

/-- What an operation in progress keeps. -/
inductive Prog where
  | none
  | mat (p : MatProg)
  | att (p : AttProg)
  | vec (p : VecProg)
  | exp (p : ExpProg)
  | upd (p : UpdProg)
  | wait (left : Nat)
  | signal (num left : Nat)
  deriving DecidableEq, Repr, Inhabited

/-- An operation of a run (R365): not begun, begun, or ended. -/
inductive OpSt where
  | pending | begun | ended
  deriving DecidableEq, Repr, Inhabited

/-- One operation of a run: its state, status, status blocks after the numeric block, when it began, its numeric counts, whether a
work unit was poisoned, and the first poisoned address met with its place in canonical order. -/
structure OpRun where
  st : OpSt
  status : Status
  extra : List Byte
  began : Nat
  num : NumStat
  poisoned : Bool
  poisonAt : Option (Nat × Nat)
  dup : Bool
  prog : Prog
  deriving DecidableEq, Repr, Inhabited

/-- A run of the admitted plan (R365): the step number, the status area, the seed and padding in force, the operation that stops
the run (R366), the operations. -/
structure Run where
  stop : Option Nat
  head : PktHead
  since : Nat
  step : Nat
  area : Nat
  seed : W64
  pad : W32
  ops : List OpRun
  deriving DecidableEq, Repr, Inhabited

/-- A core's matrix work record (R53, R75, R88, R347): operation, claimed units not begun, the unit in progress, the next K chunk to
stage, the staged chunks (stored bits of A by row, of B by column), the next group, the accumulator entries, the attempt, the
attempt's counts, and whether the unit is poisoned. -/
structure TileWork where
  op : Nat
  claimed : List Nat
  unit : Option Nat
  chunk : Nat
  staged : List (List (List Nat) × List (List Nat))
  group : Nat
  acc : List Entry
  attempt : Nat
  num : NumStat
  poisoned : Bool
  deriving DecidableEq, Repr, Inhabited

/-- A lane's micro-program state (R111, R113): registers hold extended or fixed-point values; next step; step predicate; segment;
results emitted; whether tiny results flush. -/
inductive MpVal where
  | ext (x : Ext)
  | fix (x : Int)
  deriving DecidableEq, Repr, Inhabited

structure MpLane where
  regs : List MpVal
  pc : Nat
  pred : Bool
  seg : Option Nat
  outs : List Entry
  flush : Bool
  deriving DecidableEq, Repr, Inhabited

/-- An SFU request (R102): which context, operation, position and stream, lane group, slot, the operand lanes and destination; `att`: exp2 operands of
the position's attention unit `d` (R124), whose results its step takes. -/
structure SfuReq where
  ctx : Nat
  op : Nat
  pos : Nat
  att : Bool
  stream : Nat
  group : Nat
  slot : Nat
  d : Nat
  lanes : List Nat
  args : List (Entry × Entry × Entry)
  deriving DecidableEq, Repr, Inhabited

/-- A granted request, with the lanes of its micro-program (R102, R111). -/
structure SfuRun where
  req : SfuReq
  lanes : List MpLane
  deriving DecidableEq, Repr, Inhabited

/-- A core's SFU (R102, R103): grant pointer, pending requests, and the granted requests in flight in order of their grants. -/
structure Sfu where
  ptr : Nat
  reqs : List SfuReq
  granted : List SfuRun
  deriving DecidableEq, Repr, Inhabited

/-! ## Contexts and positions (14) -/

/-- Which way the two channels of a core's NoC port point (R18): one each way, both outbound for a save, both inbound for a restore. -/
inductive NocDir where
  | normal | outbound | inbound
  deriving DecidableEq, Repr, Inhabited

/-- Where a placement position is (R338, R345, R348). -/
inductive Place where
  | saved
  | waiting (core part : Nat)
  | restoring (core part : Nat) (ordered : Bool)
  | resident (core part since : Nat)
  | saving (core part : Nat) (phase : Nat)
  deriving DecidableEq, Repr, Inhabited

/-- One placement position (R338, R339, R292): where it is, the core of its initial placement, its save area, whether that lies in
the LPDDR5X pool, whether an image is held and its sequence number, since when it has waited for a partition of its class
(R343), whether a quantum decision restored it, a save order that waits for a restore and a restore that waits for a save (R350), the class of a
boost (R352). -/
structure Position where
  place : Place
  home : Nat
  area : Nat
  spilled : Bool
  image : Bool
  imgSeq : Nat
  quantum : Option Nat
  byQuantum : Bool
  saveDue : Bool
  restoreDue : Bool
  boost : Option Nat
  lulls : List Nat
  rems : List Nat
  ovf : BitVec 12
  deriving DecidableEq, Repr, Inhabited

/-- A page mapping (R176, R177). -/
structure Mapping where
  va : Nat
  pa : Nat
  big : Bool
  write : Bool
  hot : Bool
  loc : Bool
  deriving DecidableEq, Repr, Inhabited

/-- A tier token (R192, R198); state 0 EMPTY, 1 FILLING, 2 HELD; `placed` are the physical spans (address, bytes) where Updrafts
put its data while it is held, which it can refill (R185). -/
structure Token where
  size : Nat
  home : Nat
  state : Nat
  poison : Nat
  placed : List (Nat × Nat)
  deriving DecidableEq, Repr, Inhabited

/-- A transfer descriptor (R193) with its progress (R197). -/
structure Xfer where
  hbm : Nat
  token : Nat
  offset : Nat
  bytes : Nat
  updraft : Bool
  last : Bool
  gateSo : Nat
  gateN : Nat
  doneSo : Nat
  doneN : Nat
  seq : Nat
  started : Bool
  gated : Bool
  waiting : Bool
  done : Nat
  op : Nat
  poisoned : Bool
  deriving DecidableEq, Repr, Inhabited

/-- An admission that waits for its monotonic runs (R115, R369). -/
structure Admitting where
  head : PktHead
  since : Nat
  plan : Plan
  progs : List Nat
  deriving DecidableEq, Repr, Inhabited

/-- What the context keeps since its last STEP_MARK (R302, R303). -/
structure MarkSpan where
  since : Nat
  firstOp : Nat
  recovered : Nat
  envir : Bool
  statuses : List (Status × List Byte)
  deriving DecidableEq, Repr, Inhabited

/-- A context (R333); `padNext` and `seedNext` take effect at the next plan step (R301, R333); `frames` are the bytes of management frames
that its admission has reserved (R76, R369 stage 12); `ringBroke`: a Trade ring of the context has broken since the host last wrote its
group state records (R252, R296; log 86). -/
structure Ctx where
  cls : Nat
  part : Nat
  domain : Nat
  pad : W32
  padNext : W32
  boostUs : Nat
  seed : W64
  seedNext : W64
  suspended : Bool
  noIssue : Bool
  maps : List Mapping
  plan : Option Plan
  admitting : Option Admitting
  run : Option Run
  positions : List Position
  tokens : List Token
  frames : Nat
  down : List Xfer
  up : List Xfer
  xferSeq : Nat
  ringBroke : Bool
  mark : MarkSpan
  deriving DecidableEq, Repr, Inhabited

/-! ## Queues (13, 15, 21) -/

/-- The queue registers and positions of one context (R326 to R329, R467). -/
structure QueueRec where
  cqBase : Nat
  cqSlots : Nat
  cqTail : Nat
  cqSeq : Nat
  rqBase : Nat
  rqSlots : Nat
  rqHead : Nat
  rqErr : Bool
  idle : Nat
  lastRetired : Nat
  retired : List Nat
  bell : Bool
  deriving DecidableEq, Repr, Inhabited

/-- A packet accepted and not retired (R327, R373), with its opcode and acceptance time. -/
structure Accepted where
  head : PktHead
  opcode : Nat
  since : Nat
  deriving DecidableEq, Repr, Inhabited

/-- A reply held while the link is lost (R380). -/
structure HeldReply where
  head : PktHead
  opcode : Nat
  since : Nat
  slots : Nat
  status : Status
  results : List Byte
  deriving DecidableEq, Repr, Inhabited

/-- An entry of the event, trace or journal queue (R330). -/
structure QEntry where
  seq : Nat
  time : Nat
  code : Nat
  ctx : Nat
  data : List Byte
  deriving DecidableEq, Repr, Inhabited

/-- One of the three module queues (R330, R331). -/
structure EvQueue where
  entries : List QEntry
  write : Nat
  read : Nat
  lost : Nat
  deriving DecidableEq, Repr, Inhabited

/-- A transaction from the module to the host die (R381). -/
inductive HostTx where
  | write (addr : Nat) (data : List Byte)
  | read (addr len tag : Nat)
  | completion (tag status : Nat) (data : List Byte)
  | notify (data : List Byte)
  deriving DecidableEq, Repr, Inhabited

/-- UCIe training in progress (R379, R380): the rate being tried, whether it is a retrain after a fault, the attempt, the highest
rate tried, whether it comes after the first training. -/
structure UcieTrain where
  rate : Nat
  fault : Bool
  attempt : Nat
  highest : Nat
  again : Bool
  started : Bool
  deriving DecidableEq, Repr, Inhabited

/-- The host interface (16 R386). `err` bits as HI_ERR; `lost` while the link is lost (R380), which a write to HI_ERR does not change;
`out` the transactions sent, as bytes; `replay` those that the adapter holds; `reads` the outstanding reads by tag: address, bytes, failed tries;
`got` the parts that completions have brought for readers that wait, `want` the host-window spans that readers wait for (R383). -/
structure HostIf where
  bootStage : Nat
  linkUp : Bool
  rate : Nat
  mqEnabled : Bool
  rateMax : Nat
  winBase : Nat
  winSize : Nat
  mqRqBase : Nat
  mqRqSlots : Nat
  ntEnable : Bool
  err : BitVec 6
  crcRetry : Nat
  retrains : Nat
  train : Option UcieTrain
  out : List (List Byte)
  reads : KV (Nat × Nat × Nat)
  got : List (Nat × Nat)
  want : List (Nat × Nat)
  view : List (Nat × Byte)
  replay : List HostTx
  lost : Bool
  downPosted : Bool
  sbOut : List (Bool × W64)
  deriving DecidableEq, Repr, Inhabited

/-- Notification sources (R390): the armed sources and cause counts; source 1024 stands for 0xFFFF, the event queue. -/
structure Notif where
  armed : List Nat
  counts : KV Nat
  deriving DecidableEq, Repr, Inhabited

/-! ## Synchronisation objects (13) -/

/-- Who waits on an object: a SYNC operation of a run, or the gate of a transfer (R193). -/
inductive Waiter where
  | op (ctx op : Nat)
  | gate (ctx : Nat) (updraft : Bool)
  deriving DecidableEq, Repr, Inhabited

/-- What a wait waits for (R312): a count, an epoch, a generation other than this one, a free lock, credits. -/
inductive WaitKind where
  | count (n : Nat)
  | epoch (v : Nat)
  | generation (g : Nat)
  | lock
  | credit (n : Nat)
  deriving DecidableEq, Repr, Inhabited

/-- A pending wait (R312, R320), with the microseconds of timeout left (0: none). -/
structure Wait where
  who : Waiter
  kind : WaitKind
  left : Nat
  since : Nat
  deriving DecidableEq, Repr, Inhabited

/-- A synchronisation object (R310, R312). -/
structure Obj where
  type : Nat
  domain : Nat
  remote : Bool
  param : Nat
  value : Nat
  arrivals : Nat
  holder : Option (Nat × Nat)
  ovf : Bool
  broken : Bool
  waits : List Wait
  granted : List Waiter
  boosted : Bool
  deriving DecidableEq, Repr, Inhabited

/-- A boost in progress (R352): lock, holder and position, waiter and its class, end of the budget (µs). -/
structure Boost where
  so : Nat
  holder : Nat
  pos : Nat
  waiter : Nat
  cls : Nat
  budget : Nat
  since : Nat
  deriving DecidableEq, Repr, Inhabited

/-- A remote signal (R404): target, number, object, operation, count, and the port it was last sent on. -/
structure RSignal where
  ctx : Nat
  op : Nat
  target : Nat
  num : Nat
  so : Nat
  sop : Nat
  n : Nat
  port : Nat
  deriving DecidableEq, Repr, Inhabited

/-- Remote signal numbers received from one module (R404): the highest applied, and those applied within the window. -/
structure RsIn where
  high : Option Nat
  applied : List Nat
  deriving DecidableEq, Repr, Inhabited

/-! ## Model cache (07) -/

/-- A registered model (R199, R200); state 0 ABSENT, 1 LOADING, 2 RESIDENT, 3 WRITING_BACK; `used`: a reference or pin has been dropped,
which set the release stamp (R202). -/
structure Model where
  bytes : Nat
  home : Nat
  state : Nat
  slots : List Nat
  refs : List (Nat × Bool)
  pins : Nat
  dirty : List Nat
  stamp : Nat
  loaded : Nat
  loader : Nat
  evicting : Bool
  used : Bool
  waiting : List (PktHead × Nat × Nat)
  deriving DecidableEq, Repr, Inhabited

/-- A load that waits for evictions to write back (R203): the model, the models it waits for, and the slots that are kept for it. -/
structure LoadWait where
  model : Nat
  evicting : List Nat
  slots : List Nat
  loader : Nat
  deriving DecidableEq, Repr, Inhabited

/-! ## Vauri ports (17) -/

/-- A unit queued to leave a port (R398, R351): its channel, the context it belongs to, binding tag, flits, and for a remote
signal the signal, for an acknowledgement what it acknowledges, whether its content is poisoned (R187, R228), how many of its flits have
left, whether it is a further segment of a stage item, whose first segment went before it (R290, R398), and whether it had begun on a port that
went down, so that it is sent whole (R167, R257, R290). -/
structure TxUnit where
  vc : Nat
  ctx : Nat
  bind : Nat
  payload : List Byte
  signal : Option RSignal
  landed : Option Landed
  poison : Bool
  sent : Nat := 0
  cont : Bool := false
  begun : Bool := false
  deriving DecidableEq, Repr, Inhabited

/-- A flit in the replay buffer (R399) with the number of times it has been replayed and the context and unit it carries. -/
structure TxFlit where
  flit : Flit
  replays : Nat
  unit : TxUnit
  deriving DecidableEq, Repr, Inhabited

/-- A Vauri port (R395 to R403, R411). `state` as VP_STATUS.STATE; `counters` in register order; `cntOvf` as VP_CNT_OVF; `reserved` the
reservations of R351 as (context, channel, flits); `out` the flits that left, as their 256 bytes (R397); `unlanded` the contexts of units sent and not acknowledged as landed (R405);
`toAck` the units received whole whose bytes are not visible yet, by context and channel (R405); `crcTimes` the CRC errors of the last second (R410). -/
structure Port where
  state : Nat
  peerId : Nat
  peerPort : Nat
  peerValid : Bool
  use : Nat
  bind : Nat
  peerClass : Nat
  inverted : BitVec 16
  failedLanes : BitVec 16
  snrLo : W64
  snrHi : W64
  berLimit : Nat
  err : BitVec 5
  cntOvf : BitVec 8
  counters : List Nat
  attempt : Nat
  retrain : Bool
  started : Bool
  txSeq : Nat
  rxSeq : Nat
  replay : List TxFlit
  credits : List Nat
  peerBuf : List Nat
  owed : List Nat
  openUnits : List (Nat × List Byte)
  txq : List TxUnit
  out : List (List Byte)
  nakDue : Bool
  crcTimes : List Nat
  berPosted : Option Nat
  reserved : List (Nat × Nat × Nat)
  unlanded : List Nat
  toAck : List (Nat × Nat) := []
  deriving DecidableEq, Repr, Inhabited

/-! ## Groups, rings and queues between modules (06, 08, 09, 11) -/

/-- Formation (R150, R151): state 0 FORMING, 1 FORMED, 2 FAILED; in-ports checked; SEAL received and sent; the create's packet. -/
structure Form where
  state : Nat
  inOk : List Nat
  sealIn : Bool
  sealSent : Bool
  pkt : Option (PktHead × Nat)
  deriving DecidableEq, Repr, Inhabited

/-- A landed Eddy block (R156, R159): rotation, local block index, head, kind, header, whether it has been forwarded or
dropped, whether a copy was asked for again (R166), and whether it came poisoned. Its body stands in its landing slot.
`bad` holds the sectors whose errors it was asked for again. -/
structure EBlock where
  rot : Nat
  loc : Nat
  head : Nat
  kind : Nat
  hdr : List Byte
  sent : Bool
  asked : Bool
  poisoned : Bool
  bad : List Nat := []
  deriving DecidableEq, Repr, Inhabited

/-- An Eddy group (R149, R152, R159): fields, formation, circulation number, the operation that issued it, landed blocks, places
of the own slice already passed, landing credit held and granted (blocks), rotations whose slot is free again.
`prev` is the operation and step of the circulation before, whose blocks this member still owes to one that asks (R166). -/
structure Eddy where
  f : EddyFields
  form : Form
  circ : Nat
  op : Option Nat
  blocks : List EBlock
  ownSent : Nat
  credit : Nat
  granted : Nat
  freed : Nat
  prev : Option (Nat × Nat) := none
  deriving DecidableEq, Repr, Inhabited

/-- A landed reduce train that has not been used (R241, R247): its landing slot, its place, its 20-byte header and the bytes of its
body, which stand in the slot. -/
structure Train where
  slot : Nat
  bucket : Nat
  attempt : Nat
  idx : Nat
  hdr : List Byte
  len : Nat
  deriving DecidableEq, Repr, Inhabited

/-- A gather train held here (R254, R255): place, step count, its bytes where they were not written, and the 64-byte pieces that came
poisoned. -/
structure GTrain where
  bucket : Nat
  idx : Nat
  step : Nat
  body : Option (List Byte)
  poisoned : List Nat
  deriving DecidableEq, Repr, Inhabited

/-- A sent train, kept for a re-request (R256): place, the port it left on, its bytes, and whether poison travelled with it. -/
structure SentTrain where
  bucket : Nat
  idx : Nat
  port : Nat
  bytes : List Byte
  poison : Bool
  deriving DecidableEq, Repr, Inhabited

/-- A bucket of a reduction or gather in progress (R235, R243 to R246): its fields; attempt, scale exponent (none while the amax
exchange has not set it), whether the exchange is due, this member's maximum; trains sent or, at the owner, added; trains landed by
(attempt, train); what the headers brought; the owner's counts; the verdict. -/
structure Bucket where
  group : Nat
  owner : Nat
  elems : Nat
  grad : Nat
  out : Nat
  resid : Nat
  scale : Nat
  param : Nat
  pfmt : Nat
  attempt : Nat
  e : Option Int
  fresh : Bool
  amax : W32
  done : Nat
  landed : List (Nat × Nat)
  ovf : Bool
  nf : Bool
  peak : Nat
  num : NumStat
  verdict : Option Verdict
  deriving DecidableEq, Repr, Inhabited

/-- A message that waits until the member's own operation has reached it (R234, R257). -/
inductive TMsg where
  | openTable (port : Nat) (tag number step : Nat) (digest : BitVec 128)
  | amax (second : Bool) (values : List (Nat × W32))
  | train (port : Nat) (bytes : List Byte)
  | verdict (bucket : Nat) (v : Verdict) (e : Int) (peak : Nat)
  | record (bytes : List Byte)
  | final (bytes : List Byte)
  | gather (port : Nat) (bytes : List Byte) (poisoned : List Nat)
  deriving DecidableEq, Repr, Inhabited

/-- A group state record (R259). -/
structure GroupState where
  step : Nat
  fallback : Nat
  retries : Nat
  flags : Nat
  deriving DecidableEq, Repr, Inhabited

/-- A Trade ring (R232, R234, R241, R250): fields, formation, reduction number; the operation in progress and whether it is a gather;
ports whose OPEN matched, whether the member has started and whether its amax exchange is over, the bucket table's digest, the
buckets; landed trains; the sent trains kept for a re-request, and what was re-requested as (bucket, attempt, train); landing credit held
and granted but not used; RESTART verdicts given, the contribution's flags and count of nonfinite elements, whether it has been
made; the partial record that waits; final records by operation; gather trains held and sent as (bucket, train, destination);
messages that wait; the 64 group state records. -/
structure Trade where
  f : TradeFields
  form : Form
  number : Nat
  op : Option Nat
  gather : Bool
  opened : List Nat
  started : Bool
  amaxDone : Bool
  digest : BitVec 128
  buckets : List Bucket
  trains : List Train
  sent : List SentTrain
  asked : List (Nat × Nat × Nat)
  credit : Nat
  granted : Nat
  restarts : Nat
  skew : Bool
  limit : Bool
  poison : Bool
  nonfinite : Nat
  contributed : Bool
  held : Option (List Byte)
  finals : KV (List Byte)
  gheld : List GTrain
  gsent : List (Nat × Nat × Nat)
  early : List TMsg
  states : List GroupState
  sending : Bool := false
  deriving DecidableEq, Repr, Inhabited

/-- The buckets that this member owns and whose verdict is COMMIT (R253). -/
def Trade.owned (t : Trade) : Nat := (t.buckets.filter fun b => b.owner == t.f.rank && b.verdict == some .commit).length

/-- Counts from a source (R226, R227, R229): step number, operation index, rows by owned expert, and whether they came poisoned. -/
structure ExpxCount where
  step : Nat
  op : Nat
  counts : List Nat
  poisoned : Bool
  deriving DecidableEq, Repr, Inhabited

/-- A row that landed (R226 to R228): its operation, whether it was returned, the member that sent it, its identity, and the bytes where it stands. -/
structure RowAt where
  op : Nat
  back : Bool
  src : Nat
  expert : Nat
  ordinal : Nat
  ret : Nat
  spans : List (Nat × Nat)
  deriving DecidableEq, Repr, Inhabited

/-- An expert exchange group (R225 to R229): fields, formation, the operation in progress; by source, the counts that no route has
taken yet, the oldest first; by route, the counts of every source; row grants as (route, owner); by scatter, the rows that stand here as
(source, expert, ordinal, return row); owners that this member's rows have gone to; by combine, the return rows that have landed; `landed` where
each row stands; `taken` the counts that a route has taken, as (source, step, operation). -/
structure Expx where
  f : ExpxFields
  form : Form
  op : Option Nat
  counts : KV (List ExpxCount)
  base : KV (List (List Nat))
  grants : List (Nat × Nat)
  rows : KV (List (Nat × Nat × Nat × Nat))
  sent : List Nat
  returned : KV (List Nat)
  landed : List RowAt := []
  taken : List (Nat × Nat × Nat) := []
  deriving DecidableEq, Repr, Inhabited

/-- A stage queue end (R287 to R290): fields, formation; the next index to put, to get and to release; credit; landed items as
(index, step); segments of items that have not landed whole as (index, segment, whether it is the last). -/
structure StageQ where
  f : StageFields
  form : Form
  putIdx : Nat
  getIdx : Nat
  relIdx : Nat
  credit : Nat
  landed : List (Nat × Nat)
  segs : List (Nat × Nat × Bool)
  deriving DecidableEq, Repr, Inhabited

/-! ## Firmware and identity (19) -/

/-- The fields of a manifest that the module keeps of an image that verified (R428). -/
structure Manifest where
  cls : Nat
  stateFmt : Nat
  release : Nat
  bytes : Nat
  revoke : Nat
  comps : List (Nat × Nat × Nat × BitVec 256)
  digest : BitVec 256
  deriving DecidableEq, Repr, Inhabited

/-- What a store writes (R430). -/
inductive StoreKind where
  | staging | stagingMark | pendingAct | config | copyActive | fuse
  deriving DecidableEq, Repr, Inhabited

/-- What an intent record names (R430): the store's kind and its target, a flash offset or a fuse. -/
structure Intent where
  kind : StoreKind
  target : Nat
  deriving DecidableEq, Repr, Inhabited

/-- Which command waits on the store in progress (R432), and what it will do when the read-back passes. -/
inductive StoreOwner where
  | host (h : PktHead) (since opcode : Nat)
  | recovery
  | start
  | background
  deriving DecidableEq, Repr, Inhabited

/-- A security-engine command that waits its turn (R432). -/
inductive SecCmd where
  | stageWrite (offset : Nat) (data : List Byte)
  | stageCommit
  | activate (mode tag step : Nat)
  | quote (nonce : BitVec 256) (dest : Nat)
  | ident (dest : Nat)
  | cfgSet (key old value : Nat)
  deriving DecidableEq, Repr, Inhabited

/-- A store in progress (R430): what is erased and what is written where, the command that it serves, the interrupted store whose intent stays open
beside it in recovery mode (R442), and a fuse program: the component kind and its floor, or 0 and the revocation bits (R440). -/
structure FlashStore where
  kind : StoreKind
  owner : StoreOwner
  base : Nat
  erase : Option (Nat × Nat)
  data : List Byte
  cmd : Option SecCmd
  left : Option Intent := none
  fuse : Option (Nat × Nat) := none
  deriving DecidableEq, Repr, Inhabited

/-- A measurement log entry (R445). -/
structure LogEntry where
  kind : Nat
  value : Nat
  digest : BitVec 256
  deriving DecidableEq, Repr, Inhabited

/-- Flash, fuses and firmware state (19). `intent` is the open intent that the log in flash shows, `logSeq` the number of records written into it (R430),
`cfgSeq` the sequence number of the newer configuration copy (R426); `jwait` are journal entries stored before the queue opens (R448), `shadow` the
staged components' bodies (R437), `loaded` says that a calm point has loaded them (R439), `act` that a start has activated an image whose fuses are
still to program, `fuses` the programs that are due (R440). -/
structure Firmware where
  flash : List (Nat × Byte)
  fzKey : List (BitVec 256)
  fzRevoke : Nat
  fzSvn : List Nat
  fzIdKey : BitVec 1024
  intent : Option Intent
  logSeq : Nat
  cfgSeq : Nat
  store : Option FlashStore
  waiting : List (PktHead × Nat × SecCmd)
  stgEnd : Nat
  stgFresh : Bool
  staged : Option Manifest
  active : Option Manifest
  running : Option Manifest
  pendingAct : Option (BitVec 256)
  sched : Option (Nat × Nat)
  schedDecided : Bool
  copying : Bool
  boots : Nat
  log : List LogEntry
  chain : BitVec 128
  count : Nat
  attKey : Nat
  jwait : List (Nat × Nat × List Byte)
  shadow : List (Nat × List Byte)
  loaded : Bool
  act : Bool
  fuses : List (Nat × Nat)
  deriving DecidableEq, Repr, Inhabited

/-- The recovery window (R442). -/
structure RecWin where
  cause : Nat
  state : Nat
  result : Nat
  intent : Nat
  offset : Nat
  length : Nat
  buf : List (Nat × Byte)
  restart : Bool
  deriving DecidableEq, Repr, Inhabited

/-! ## Power, telemetry (18, 20) -/

/-- The telemetry mirror (R425). -/
structure Mirror where
  state : Nat
  cls : Nat
  vin : Nat
  pin : Nat
  limit : Nat
  tempMax : Nat
  tempDie : List Nat
  coldPlate : Nat
  flags : Nat
  deriving DecidableEq, Repr, Inhabited

/-- Power inputs, governor and thermal state (20): inputs, PWR_GOOD, straps, THERM_N; input voltage, whether the input is stable
(R431), the last EV_POWER_INPUT kind; the host cap, the common step, thermal steps by island, the temperature of each sensor, input
power, governor ticks with little of it, when clocks were last accounted, and when a limit's crossing was last posted (R423). -/
structure Power where
  auxOk : Bool
  busOk : Bool
  pwrGood : Bool
  straps : Nat
  recoveryN : Bool
  thermN : Bool
  vinMv : Nat
  stable : Bool
  alarm : Option Nat
  cap : Nat
  step : Nat
  thermSteps : KV Nat
  temps : List ((SensorKind × Nat) × Int)
  pinMw : Nat
  pin1sMw : Nat
  low : Nat
  capNs : Nat
  energy : Nat := 0
  since : Nat
  posted : List ((SensorKind × Nat × Nat) × Nat)
  vinPosted : KV Nat
  i2cOut : List Byte
  i2cBuf : List (Nat × Byte)
  deriving DecidableEq, Repr, Inhabited

/-- The Vauri module block (R411). -/
structure VlRegs where
  moduleId : Nat
  valid : Bool
  enable : BitVec 16
  err : BitVec 2
  deriving DecidableEq, Repr, Inhabited

/-- The order numbers (00_scope R1, R464), codes 0-3. -/
inductive Order where
  | o288x0512x08 | o288x1024x16 | o384x0512x16 | o384x1024x16
  deriving DecidableEq, Repr, Inhabited

/-- Identity (R464); `cls`: the compatibility class the module was made for (R8), which a start with an image of another class leaves as it
is (log 118). -/
structure Ident where
  order : Order
  serial : BitVec 128
  stepping : Nat
  cls : Nat
  deriving DecidableEq, Repr, Inhabited

end Sys2Proof.Machine
end

