-- ==== Sys2Proof/Machine/State.lean ====
section
/-! DEFINITION. The module's whole state as plain data, the outcomes a step can name, and the module as it stands right after
reset. INVENTORY.md lists every field with the rule that names it. -/
namespace Sys2Proof.Machine

/-- No command stops the model with a fault: what the spec calls a fault is a status of an operation or of a reply (R181, R371),
an event (R417) or a state of the module (R415). The type has no constructor. -/
inductive Fault where
  deriving DecidableEq, Repr

/-- Why a command has no meaning. -/
inductive Refusal where
  /-- Raised by an arm of `exec` whose command is not modelled yet, with its mnemonic; safe: nothing is claimed of it. -/
  | notModelled (mnemonic : String)
  deriving DecidableEq, Repr

/-- The state of the module. -/
structure State where
  /-- Identity fuses (R427, R464). -/
  ident : Ident
  /-- The configuration keys 1-5 in force and pending (R360). -/
  cfgCur : List Nat
  cfgPend : List Nat
  /-- The reference counter in nanoseconds (R23). -/
  refCount : Nat
  /-- Module halt (R415). -/
  halted : Bool
  /-- An ordered reset has begun (R452). -/
  resetDue : Bool
  /-- The step of the calm point being taken, if any (R439). -/
  calm : Option Nat
  power : Power
  mirror : Mirror
  /-- Telemetry readings by unit x 0x10000 + index, and the overflow bits of each unit (R419 to R421). -/
  tel : KV Nat
  telOvf : KV Nat
  hi : HostIf
  nt : Notif
  /-- Replies held while the link is lost (R380). -/
  held : List HeldReply
  /-- Submission and reply queues by context, 0 the management queue (R326 to R329, R467). -/
  queues : KV QueueRec
  /-- Packets accepted and not retired, in order of acceptance (R327, R373). -/
  accepted : List Accepted
  /-- The queue at which the CP's pass over the queues goes on (R374). -/
  pass : Nat
  /-- The event, trace and journal queues (R330, R331). -/
  evq : EvQueue
  trq : EvQueue
  jrq : EvQueue
  tqEnable : BitVec 8
  ctxs : KV Ctx
  boosts : List Boost
  /-- Synchronisation objects by identifier (R309). -/
  sos : KV Obj
  /-- Remote signals: by target the next number and those not acknowledged; by sender what was applied; those issued and not
  departed (R322, R404). -/
  rsOut : KV (Nat × List RSignal)
  rsIn : KV RsIn
  rsWait : List RSignal
  /-- Memory by physical address: HBM3E, LPDDR5X, core windows, command queue window (R169, R174, R387). -/
  mem : List Host.Cell
  /-- Poisoned 64-byte sectors, by physical address / 64, rising (R184, R187). -/
  poison : List Nat
  /-- The poisoned sectors whose poison arose from a detected error on this module (R296), rising. -/
  hwPoison : List Nat
  /-- The poisoned sectors whose stored bytes are still what was written there last: a detected error of the store alone made them poison, so
  that a rebuild gives these bytes back (R186), rising. -/
  sound : List Nat
  /-- Sectors that wait for their tensor's rebuild, with the context that met them (R185, R186). -/
  rebuild : List (Nat × Nat)
  /-- Sectors of landed expert rows that have been asked for again, with the context (R228). -/
  rowDue : List (Nat × Nat)
  /-- The model cache (R199 to R204) and its loads in progress. -/
  models : KV Model
  loads : List LoadWait
  /-- The context and engine whose segment moved last (R196): true for the Updraft engine. -/
  tierLast : Nat × Bool
  /-- Reserved tier-2 areas (address, bytes; R192) and save areas (pool, address, bytes; R340). -/
  lpUsed : List (Nat × Nat)
  saveUsed : List (Nat × Nat × Nat)
  /-- Engine records by context x 1024 + position (R53, R125, R91). -/
  tiles : KV TileWork
  att : KV AttWork
  vec : KV VecRegs
  /-- The SFU of each core (R102). -/
  sfu : KV Sfu
  /-- Cores whose NoC channels are turned (R18, R345, R348). -/
  noc : KV NocDir
  /-- Micro-programs by context x 64 + slot (R110), and digests with a monotonicity verdict (R115). -/
  mpStore : KV MicroProg
  monoCache : KV Bool
  /-- Eddy groups, Trade rings, expert exchange groups and stage queues by context x 2^32 + tag. -/
  eddy : KV Eddy
  trade : KV Trade
  expx : KV Expx
  stageQ : KV StageQ
  /-- Stall timers of rings and queues (R165, R256, R289), by channel x 2^42 + context x 2^32 + tag: the reference count at the last progress, and the
  stalls posted since. -/
  stalls : KV (Nat × Nat)
  /-- Vauri module block and ports 0-15 (R411). -/
  vl : VlRegs
  ports : List Port
  fw : Firmware
  recw : RecWin
  /-- The model's own counter of free values used (log 2). -/
  freeCtr : Nat
  /-- Commands waiting, first in first out. -/
  pending : List Instr
  deriving DecidableEq, Repr

/-- An empty module queue (R331, R465). -/
def EvQueue.empty : EvQueue := { entries := [], write := 0, read := 0, lost := 0 }

/-- A port at reset (R411): STATE 1 where the order number leaves it out, BER limit 10, everything else 0. -/
def Port.reset (present : Bool) : Port :=
  { state := if present then 0 else 1, peerId := 0, peerPort := 0, peerValid := false, use := 0, bind := 0, peerClass := 0,
    inverted := 0, failedLanes := 0, snrLo := 0, snrHi := 0, berLimit := 10, err := 0, cntOvf := 0,
    counters := [0, 0, 0, 0, 0, 0, 0, 0], attempt := 0, retrain := false, started := false, txSeq := 0, rxSeq := 0,
    replay := [], credits := [], peerBuf := [], owed := [], openUnits := [], txq := [], out := [], nakDue := false,
    crcTimes := [], berPosted := none, reserved := [], unlanded := [] }

/-- Ports 0-7 are present on every order number, 8-15 on all but ZP2-288-0512-08 (R1, R3). -/
def Order.ports : Order → Nat
  | .o288x0512x08 => 8
  | .o288x1024x16 | .o384x0512x16 | .o384x1024x16 => 16

/-- The host interface registers at reset (R386). -/
def HostIf.reset : HostIf :=
  { bootStage := 0, linkUp := false, rate := 0, mqEnabled := false, rateMax := 3, winBase := 0, winSize := 0, mqRqBase := 0,
    mqRqSlots := 0, ntEnable := false, err := 0, crcRetry := 0, retrains := 0, train := none, out := [],
    reads := [], got := [], want := [], view := [], replay := [], lost := false, downPosted := false, sbOut := [] }

/-- The defaults of the configuration keys 1 to 5 (R170, R199, R340, R343, R360). -/
def cfgDefaults : List Nat := [8, 64, 16, 64, 10000]

/-- The module right after reset: powered, with reset still held and no firmware in flash (log 3, 4, 5, 7, 8). -/
def State.reset : State :=
  { ident := { order := .o384x1024x16, serial := 0, stepping := 0, cls := 1 },
    cfgCur := cfgDefaults, cfgPend := cfgDefaults, refCount := 0, halted := false, resetDue := false, calm := none,
    power := {
      auxOk := true, busOk := true, pwrGood := true, straps := 0, recoveryN := true, thermN := true, vinMv := 60000,
      stable := true, alarm := none, cap := 1800, step := 125, thermSteps := [], temps := [], pinMw := 0, pin1sMw := 0,
      low := 0, capNs := 0, since := 0, posted := [], vinPosted := [], i2cOut := [], i2cBuf := [] },
    mirror := {
      state := 0, cls := 0, vin := 0, pin := 0, limit := 0, tempMax := 0, tempDie := [0, 0, 0, 0, 0], coldPlate := 0,
      flags := 0 },
    tel := [], telOvf := [], hi := HostIf.reset, nt := { armed := [], counts := [] }, held := [], queues := [], accepted := [], pass := 0,
    evq := EvQueue.empty, trq := EvQueue.empty, jrq := EvQueue.empty, tqEnable := 0, ctxs := [], boosts := [], sos := [],
    rsOut := [], rsIn := [], rsWait := [], mem := [], poison := [], hwPoison := [], sound := [], rebuild := [], rowDue := [], models := [], loads := [], tierLast := (0, true), lpUsed := [], saveUsed := [],
    tiles := [], att := [], vec := [], sfu := [], noc := [], mpStore := [], monoCache := [], eddy := [], trade := [], expx := [],
    stageQ := [], stalls := [], vl := { moduleId := 0, valid := false, enable := 0, err := 0 },
    ports := List.replicate 16 (Port.reset true),
    fw := {
      flash := [], fzKey := [0, 0, 0, 0], fzRevoke := 0, fzSvn := [0, 0, 0, 0, 0, 0], fzIdKey := 0, intent := none, logSeq := 0, cfgSeq := 0,
      store := none,
      waiting := [], stgEnd := 0, stgFresh := true, staged := none, active := none, running := none, pendingAct := none,
      sched := none, schedDecided := false, copying := false, boots := 0, log := [], chain := 0, count := 0, attKey := 0,
      jwait := [], shadow := [], loaded := false, act := false, fuses := [] },
    recw := { cause := 0, state := 0, result := 0, intent := 0, offset := 0, length := 0, buf := [], restart := false },
    freeCtr := 0, pending := [] }

end Sys2Proof.Machine
end

