-- ==== Sys2Proof/Machine/Bits.lean ====
section
/-! DEFINITION. Tables by number, little-endian fields (R9) and the cyclic codes that packets, flits and sectors carry. -/
namespace Sys2Proof.Machine

/-! ## Tables -/

/-- The entry under a key. -/
def kvGet {α : Type} (k : Nat) : KV α → Option α
  | [] => none
  | (j, a) :: t => if j = k then some a else kvGet k t

/-- Write an entry, keeping the keys rising. -/
def kvSet {α : Type} (k : Nat) (a : α) : KV α → KV α
  | [] => [(k, a)]
  | (j, b) :: t => if k < j then (k, a) :: (j, b) :: t else if k = j then (k, a) :: t else (j, b) :: kvSet k a t

/-- Remove an entry. -/
def kvDel {α : Type} (k : Nat) (m : KV α) : KV α := m.filter fun e => e.1 != k

/-- The entry under a key, or another value. -/
def kvGetD {α : Type} (k : Nat) (m : KV α) (d : α) : α := (kvGet k m).getD d

/-- Change every entry of a table. -/
def kvMap {α : Type} (f : Nat → α → α) (m : KV α) : KV α := m.map fun e => (e.1, f e.1 e.2)

/-- A natural number put into a rising list without repeats. -/
def insNat (n : Nat) : List Nat → List Nat
  | [] => [n]
  | m :: t => if n < m then n :: m :: t else if n = m then m :: t else m :: insNat n t

/-- Element `i` of a list of numbers, 0 beyond its end. -/
def nth (l : List Nat) (i : Nat) : Nat := l.getD i 0

/-- Replace element `i`. -/
def setNth {α : Type} (l : List α) (i : Nat) (a : α) : List α := l.set i a

/-! ## Fields -/

/-- ⌈a / b⌉. -/
def ceilDiv (a b : Nat) : Nat := (a + b - 1) / b

/-- `a` raised to the next multiple of `b`. -/
def alignUp (a b : Nat) : Nat := ceilDiv a b * b

/-- Bits `lo` to `lo + w - 1` of a number. -/
def bits (n lo w : Nat) : Nat := n / 2 ^ lo % 2 ^ w

/-- Bit `i` of a number. -/
def bitOf (n i : Nat) : Bool := n / 2 ^ i % 2 = 1

/-- A number's bit length. -/
def bitLen (n : Nat) : Nat := if n = 0 then 0 else Nat.log2 n + 1

/-- A boolean as a bit. -/
def b2n (b : Bool) : Nat := if b then 1 else 0

/-- The `k` little-endian bytes of a number (R9). -/
def leBytes : Nat → Nat → List Byte
  | 0, _ => []
  | k + 1, n => BitVec.ofNat 8 n :: leBytes k (n / 256)

/-- The number that little-endian bytes hold (R9). -/
def leNat : List Byte → Nat
  | [] => 0
  | b :: t => b.toNat + 256 * leNat t

/-- `n` bytes from offset `o`, zero beyond the end. -/
def slice (l : List Byte) (o n : Nat) : List Byte :=
  let x := (l.drop o).take n
  x ++ List.replicate (n - x.length) 0

/-- The little-endian number of `n` bytes at offset `o`. -/
def field (l : List Byte) (o n : Nat) : Nat := leNat (slice l o n)

/-- Zero bytes. -/
def zeros (n : Nat) : List Byte := List.replicate n 0

/-- Bytes padded with zeros to `n`. -/
def padTo (n : Nat) (l : List Byte) : List Byte := l ++ zeros (n - l.length)

/-- Two's complement of a number of `w` bits as an integer. -/
def sInt (w n : Nat) : Int := if n % 2 ^ w < 2 ^ (w - 1) then (n % 2 ^ w : Nat) else (n % 2 ^ w : Nat) - (2 ^ w : Nat)

/-- An integer's two's complement in `w` bits. -/
def uInt (w : Nat) (i : Int) : Nat := (i % ((2 ^ w : Nat) : Int)).toNat

/-- Parts of `n` elements of a list; `fuel` bounds the count. -/
def chunks {α : Type} (n : Nat) : Nat → List α → List (List α)
  | 0, _ => []
  | f + 1, l => if l.isEmpty then [] else l.take n :: chunks n f (l.drop n)

/-! ## Cyclic codes -/

/-- One step of a reflected code. -/
def crcBitR (poly : Nat) (c : Nat) : Nat := if c % 2 = 1 then (c / 2) ^^^ poly else c / 2

/-- One step of a code of `w` bits, most significant bit first. -/
def crcBitL (w poly : Nat) (c : Nat) : Nat := if c / 2 ^ (w - 1) % 2 = 1 then (c * 2 % 2 ^ w) ^^^ poly else c * 2 % 2 ^ w

/-- Eight steps. -/
def eight (f : Nat → Nat) (c : Nat) : Nat := f (f (f (f (f (f (f (f c)))))))

/-- CRC-32C (R303: reflected 0x82F63B78, initial and final all ones). -/
def crc32c (l : List Byte) : Nat :=
  (l.foldl (fun c b => eight (crcBitR 0x82F63B78) (c ^^^ b.toNat)) 0xFFFFFFFF) ^^^ 0xFFFFFFFF

/-- CRC-16 with polynomial 0x8BB7, initial value 0 (R183). -/
def crc16 (l : List Byte) : Nat :=
  l.foldl (fun c b => eight (crcBitL 16 0x8BB7) (c ^^^ (b.toNat * 256))) 0

/-- CRC-8 with polynomial 0x07, initial value 0 (R461). -/
def crc8 (l : List Byte) : Nat := l.foldl (fun c b => eight (crcBitL 8 0x07) (c ^^^ b.toNat)) 0

/-! ## Packing (R361) -/

/-- Bit position of a field of width `w` placed at or after `pos` (R361 rules 2 and 3). -/
def fieldAt (pos w : Nat) : Nat := if w > 64 then alignUp pos 64 else if pos % 64 + w > 64 then alignUp pos 64 else pos

/-- Positions and widths of fields in order, and the position behind the last. -/
def layout : Nat → List Nat → List (Nat × Nat) × Nat
  | pos, [] => ([], pos)
  | pos, w :: t =>
    let p := fieldAt pos w
    let r := layout (p + w) t
    ((p, w) :: r.1, r.2)

/-- A field's value: `w` bits at bit `p` of bytes from `base`. -/
def bitField (l : List Byte) (base p w : Nat) : Nat := field l (base + p / 8) ((p % 8 + w + 7) / 8) / 2 ^ (p % 8) % 2 ^ w

/-- Fields read from bytes at `base`, from bit `pos` on. -/
def unpack (l : List Byte) (base pos : Nat) (ws : List Nat) : List Nat := (layout pos ws).1.map fun f => bitField l base f.1 f.2

end Sys2Proof.Machine
end

