-- ==== Sys2Proof/Machine/Num.lean ====
section
/-! DEFINITION. The numeric contract (02_number_formats): exact values, the one rounding, the conversions, the group sum, PF32. -/
namespace Sys2Proof.Machine

/-! ## Exact values -/

/-- An exact value: a finite one is (-1)^neg x m x 2^e. -/
inductive FV where
  | nan
  | inf (neg : Bool)
  | fin (neg : Bool) (m : Nat) (e : Int)
  deriving DecidableEq, Repr, Inhabited

/-- +0. -/
def fvZero : FV := .fin false 0 0

/-- An integer as an exact value. -/
def fvInt (i : Int) : FV := .fin (decide (i < 0)) i.natAbs 0

/-- An integer times 2^e. -/
def fvScaled (i : Int) (e : Int) : FV := .fin (decide (i < 0)) i.natAbs e

/-- Sign of an exact value. -/
def FV.neg? : FV → Bool
  | .nan => false
  | .inf s => s
  | .fin s _ _ => s

def FV.isNan : FV → Bool
  | .nan => true
  | _ => false

def FV.isInf : FV → Bool
  | .inf _ => true
  | _ => false

def FV.isFin : FV → Bool
  | .fin .. => true
  | _ => false

/-- Is it a zero of either sign? -/
def FV.isZero : FV → Bool
  | .fin _ m _ => m == 0
  | _ => false

/-- Negation. -/
def fvNeg : FV → FV
  | .nan => .nan
  | .inf s => .inf (!s)
  | .fin s m e => .fin (!s) m e

/-- Magnitude. -/
def fvAbs : FV → FV
  | .nan => .nan
  | .inf _ => .inf false
  | .fin _ m e => .fin false m e

/-- The signed significand of a finite value at exponent `e0` at most its own. -/
def atExp (s : Bool) (m : Nat) (e e0 : Int) : Int :=
  let k := m * 2 ^ (e - e0).toNat
  if s then -(k : Int) else (k : Int)

/-- Exact addition with the special rules of R50: ∞ + (-∞) is NaN, +0 + -0 is +0, an exact cancellation is +0. -/
def fvAdd : FV → FV → FV
  | .nan, _ => .nan
  | _, .nan => .nan
  | .inf s, .inf t => if s = t then .inf s else .nan
  | .inf s, .fin .. => .inf s
  | .fin .., .inf t => .inf t
  | .fin s m e, .fin t n f =>
    let e0 := min e f
    let k := atExp s m e e0 + atExp t n f e0
    if k = 0 then .fin (s && t && m == 0 && n == 0) 0 e0 else .fin (decide (k < 0)) k.natAbs e0

/-- Exact product; 0 x ∞ is NaN (R48). -/
def fvMul : FV → FV → FV
  | .nan, _ => .nan
  | _, .nan => .nan
  | .inf s, .inf t => .inf (s != t)
  | .inf s, .fin t n _ => if n = 0 then .nan else .inf (s != t)
  | .fin s m _, .inf t => if m = 0 then .nan else .inf (s != t)
  | .fin s m e, .fin t n f => .fin (s != t) (m * n) (e + f)

/-- The quotient with a sticky last bit, exact enough for any one rounding (R37); 0 / 0 and ∞ / ∞ are NaN (R38). -/
def fvDiv : FV → FV → FV
  | .nan, _ => .nan
  | _, .nan => .nan
  | .inf _, .inf _ => .nan
  | .inf s, .fin t _ _ => .inf (s != t)
  | .fin s _ _, .inf t => .fin (s != t) 0 0
  | .fin s m e, .fin t n f =>
    if n = 0 then (if m = 0 then .nan else .inf (s != t))
    else
      let k := bitLen n + 64
      let q := m * 2 ^ k / n
      let r := m * 2 ^ k % n
      .fin (s != t) (2 * q + (if r = 0 then 0 else 1)) (e - f - k - 1)

/-- Compare two finite or infinite values; none when either is NaN. -/
def fvCmp (x y : FV) : Option Ordering :=
  match x, y with
  | .nan, _ => none
  | _, .nan => none
  | .inf s, .inf t => some (if s = t then .eq else if s then .lt else .gt)
  | .inf s, .fin .. => some (if s then .lt else .gt)
  | .fin .., .inf t => some (if t then .gt else .lt)
  | .fin s m e, .fin t n f =>
    let e0 := min e f
    some (compare (atExp s m e e0) (atExp t n f e0))

/-! ## Formats (R28, R29) -/

/-- A floating-point format: width, precision, exponent of the smallest subnormal, largest finite value, whether it has
infinities, and its canonical NaN. -/
structure FloatFmt where
  width : Nat
  prec : Nat
  qmin : Int
  maxM : Nat
  maxE : Int
  hasInf : Bool
  canon : Nat
  deriving DecidableEq, Repr

def ffFp32 : FloatFmt := ⟨32, 24, -149, 2 ^ 24 - 1, 104, true, 0x7FC00000⟩
def ffBf16 : FloatFmt := ⟨16, 8, -133, 255, 120, true, 0x7FC0⟩
def ffE5m2 : FloatFmt := ⟨8, 3, -16, 7, 13, true, 0x7E⟩
def ffE4m3 : FloatFmt := ⟨8, 4, -9, 14, 5, false, 0x7F⟩

/-- Bits of exponent. -/
def FloatFmt.ebits (f : FloatFmt) : Nat := f.width - f.prec

/-- The exact value of a pattern. A finite value keeps its stored exponent: the unbiased exponent of R47 is e + prec - 1. -/
def fvOf (f : FloatFmt) (n : Nat) : FV :=
  let frac := bits n 0 (f.prec - 1)
  let ex := bits n (f.prec - 1) f.ebits
  let s := bitOf n (f.width - 1)
  if ex = 2 ^ f.ebits - 1 ∧ f.hasInf then (if frac = 0 then .inf s else .nan)
  else if ex = 2 ^ f.ebits - 1 ∧ frac = 2 ^ (f.prec - 1) - 1 then .nan
  else if ex = 0 then .fin s frac f.qmin
  else .fin s (2 ^ (f.prec - 1) + frac) (f.qmin + ex - 1)

/-- The pattern of a value that the format holds; ∞ without an encoding becomes the canonical NaN (R55 rule 3). -/
def fvPattern (f : FloatFmt) : FV → Nat
  | .nan => f.canon
  | .inf s => if f.hasInf then b2n s * 2 ^ (f.width - 1) + (2 ^ f.ebits - 1) * 2 ^ (f.prec - 1) else f.canon
  | .fin s m e =>
    let q := max f.qmin (e + bitLen m - f.prec)
    let k := if q ≤ e then m * 2 ^ (e - q).toNat else m / 2 ^ (q - e).toNat
    let body := if k < 2 ^ (f.prec - 1) then k else (q - f.qmin).toNat * 2 ^ (f.prec - 1) + k
    b2n s * 2 ^ (f.width - 1) + body

/-! ## The one rounding (R32 to R36) -/

/-- m x 2^e rounded to a multiple of 2^q, ties to even (R32); the multiple. -/
def roundAt (m : Nat) (e q : Int) : Nat :=
  if q ≤ e then m * 2 ^ (e - q).toNat
  else
    let d := (q - e).toNat
    let k := m / 2 ^ d
    let r := m % 2 ^ d
    if 2 * r > 2 ^ d then k + 1 else if 2 * r = 2 ^ d then k + k % 2 else k

/-- A rounding's outcome: the value, whether a finite value overflowed (R33), whether a tiny result was flushed (R36). -/
structure Rnd where
  v : FV
  ovf : Bool
  flush : Bool
  deriving DecidableEq, Repr

/-- Round once to a format. A finite overflow gives infinity with `ovf`; writeback settles what is stored (R55). A carry into the next binade
moves the exponent up, so that a normal result has the exponent of R47. -/
def roundTo (f : FloatFmt) (flush : Bool) : FV → Rnd
  | .nan => ⟨.nan, false, false⟩
  | .inf s => ⟨.inf s, false, false⟩
  | .fin s m e =>
    if m = 0 then ⟨.fin s 0 f.qmin, false, false⟩
    else
      let q := e + bitLen m - f.prec
      let k := roundAt m e q
      let lo := min q f.maxE
      if k * 2 ^ (q - lo).toNat > f.maxM * 2 ^ (f.maxE - lo).toNat then ⟨.inf s, true, false⟩
      else
        let tinyAt := f.qmin + f.prec - 1
        let l2 := min q tinyAt
        if k * 2 ^ (q - l2).toNat < 2 ^ (tinyAt - l2).toNat then
          (if flush then ⟨.fin s 0 f.qmin, false, true⟩ else ⟨.fin s (roundAt m e f.qmin) f.qmin, false, false⟩)
        else if k = 2 ^ f.prec then ⟨.fin s (2 ^ (f.prec - 1)) (q + 1), false, false⟩
        else ⟨.fin s k q, false, false⟩

/-- The exact value of an FP32 pattern. -/
def fv32 (w : W32) : FV := fvOf ffFp32 w.toNat

/-- The FP32 pattern of a value. -/
def w32 (x : FV) : W32 := BitVec.ofNat 32 (fvPattern ffFp32 x)

/-- Round to FP32 preserving subnormals, as an FP32 pattern: the rounding of the PF32 steps (R44). -/
def round32 (x : FV) : W32 := w32 (roundTo ffFp32 false x).v

/-- Canonical NaN of FP32 (R29). -/
def nan32 : W32 := 0x7FC00000#32
def inf32 (neg : Bool) : W32 := if neg then 0xFF800000#32 else 0x7F800000#32

def isNan32 (w : W32) : Bool := (fv32 w).isNan
def isInf32 (w : W32) : Bool := (fv32 w).isInf

/-- A pattern as a unit writes it: every NaN is the canonical NaN (R30, R56). -/
def canon32 (w : W32) : W32 := if isNan32 w then nan32 else w

/-- Is the pattern a subnormal of FP32? -/
def isSub32 (w : W32) : Bool := bits w.toNat 23 8 == 0 && bits w.toNat 0 23 != 0

/-- An operand as read under NUM_MODE bit 0: a subnormal becomes a zero of its sign (R36). -/
def flushIn (flush : Bool) (w : W32) : W32 × Bool :=
  if flush && isSub32 w then (w &&& 0x80000000#32, true) else (w, false)

/-- Is a finite value subnormal in a format? -/
def isSubFv (f : FloatFmt) : FV → Bool
  | .fin _ m e => m != 0 && e == f.qmin && m < 2 ^ (f.prec - 1)
  | _ => false

/-- An exact operand of a format as read under NUM_MODE bit 0, and whether it was flushed (R36). -/
def readFv (f : FloatFmt) (flush : Bool) (n : Nat) : FV × Bool :=
  match fvOf f n with
  | .fin s m e => if flush && isSubFv f (.fin s m e) then (.fin s 0 e, true) else (.fin s m e, false)
  | x => (x, false)

/-! ## Formats by code (R362) -/

/-- The format of a code; 7 and above: byte. -/
def fmtOf : Nat → Fmt
  | 0 => .bf16 | 1 => .fp32 | 2 => .e4m3 | 3 => .e5m2 | 4 => .vb8 | 5 => .pf32 | 6 => .i32 | _ => .byte

/-- Bytes of an element. -/
def Fmt.size : Fmt → Nat
  | .bf16 => 2 | .fp32 => 4 | .e4m3 => 1 | .e5m2 => 1 | .vb8 => 1 | .pf32 => 8 | .i32 => 4 | .byte => 1

/-- The floating-point format behind a format code, FP32 for those without one. -/
def Fmt.ff : Fmt → FloatFmt
  | .bf16 => ffBf16 | .e4m3 => ffE4m3 | .e5m2 => ffE5m2
  | .fp32 | .vb8 | .pf32 | .i32 | .byte => ffFp32

/-- Is it one of the two FP8 formats? -/
def Fmt.isFp8 : Fmt → Bool
  | .e4m3 | .e5m2 => true
  | .bf16 | .fp32 | .vb8 | .pf32 | .i32 | .byte => false

/-- Is it a floating-point format of R28 (not VB8, PF32, integer or byte)? -/
def Fmt.isFloat : Fmt → Bool
  | .bf16 | .fp32 | .e4m3 | .e5m2 => true
  | .vb8 | .pf32 | .i32 | .byte => false

/-! ## Order (R31, R100) -/

/-- The total order of R31 as an integer: -0 below +0, NaN above +∞. -/
def ordKey (w : W32) : Int :=
  if isNan32 w then 2 ^ 33
  else if bitOf w.toNat 31 then -(bits w.toNat 0 31 : Int) - 1 else (bits w.toNat 0 31 : Int)

/-- Maximum of two patterns (R31): any NaN makes it NaN. -/
def max32 (a b : W32) : W32 :=
  if isNan32 a || isNan32 b then nan32 else if ordKey a < ordKey b then b else a

/-- Minimum of two patterns (R31). -/
def min32 (a b : W32) : W32 :=
  if isNan32 a || isNan32 b then nan32 else if ordKey b < ordKey a then b else a

/-! ## The group sum (R46 to R49) -/

/-- One product of a group: the exact value and its product exponent (R47). -/
def groupTerm (f g : FloatFmt) (a b : FV) : FV × Int :=
  match a, b with
  | .fin s m e, .fin t n h => (.fin (s != t) (m * n) (e + h), (e + f.prec - 1) + (h + g.prec - 1))
  | x, y => (fvMul x y, 0)

/-- Is a factor pair 0 x ∞, an invalid operation? -/
def zeroInf (a b : FV) : Bool := (a.isZero && b.isInf) || (a.isInf && b.isZero)

/-- What a group sum gives: the FP32 value, the flags it sets on its entry, and, for a NaN, whether it came in as an input. -/
structure GroupSum where
  v : W32
  fl : BitVec 4
  nin : Bool
  deriving DecidableEq, Repr

/-- The truncated integer sum in a window whose lowest weight is 2^lsb (R48). -/
def windowSum (lsb : Int) : List FV → Int
  | [] => 0
  | .fin s m e :: t =>
    let k : Nat := if lsb ≤ e then m * 2 ^ (e - lsb).toNat else m / 2 ^ (lsb - e).toNat
    (if s then -(k : Int) else (k : Int)) + windowSum lsb t
  | _ :: t => windowSum lsb t

/-- The largest product exponent of the nonzero products. -/
def groupExp : List (FV × Int) → Option Int
  | [] => none
  | (x, e) :: t => if x.isZero then groupExp t else
      match groupExp t with
      | none => some e
      | some f => some (max e f)

/-- The group sum of R48 over the operand pairs of one group; `f`, `g` are the operand formats, operands already flushed. -/
def groupSum (f g : FloatFmt) (flush : Bool) (ops : List (FV × FV)) : GroupSum :=
  let ps := ops.map fun o => groupTerm f g o.1 o.2
  let vs := ps.map Prod.fst
  if ops.any (fun o => o.1.isNan || o.2.isNan) then ⟨nan32, 4#4 ||| (if ops.any (fun o => o.1.isInf || o.2.isInf) then 2#4 else 0#4), true⟩
  else if vs.contains (.inf false) && vs.contains (.inf true) then ⟨nan32, 6#4, false⟩
  else if ops.any (fun o => zeroInf o.1 o.2) then ⟨nan32, 6#4, false⟩
  else if vs.contains (.inf false) then ⟨inf32 false, 2#4, false⟩
  else if vs.contains (.inf true) then ⟨inf32 true, 2#4, false⟩
  else
    match groupExp ps with
    | none => ⟨0#32, 0#4, false⟩
    | some gexp =>
      let lsb := gexp - 46
      let r := roundTo ffFp32 flush (fvScaled (windowSum lsb vs) lsb)
      ⟨w32 r.v, (if r.ovf then 1#4 else 0#4) ||| (if r.flush then 8#4 else 0#4), false⟩

/-- Enter a group sum into its accumulator entry (R50, R54). -/
def accAdd (flush : Bool) (a : Entry) (s : GroupSum) : Entry :=
  let x := fvAdd (fv32 a.v) (fv32 s.v)
  let r := roundTo ffFp32 flush x
  let bad := !(isNan32 a.v) && !(isNan32 s.v) && x.isNan
  { v := w32 r.v,
    fl := a.fl ||| s.fl ||| (if r.ovf then 1#4 else 0#4) ||| (if r.flush then 8#4 else 0#4) ||| (if bad then 4#4 else 0#4),
    nin := if isNan32 a.v then a.nin else s.nin }

/-! ## Vector arithmetic on entries (R92) -/

/-- Finish an arithmetic instruction: operands (for the OR of flags and INFIN), whether any was flushed, the exact result. -/
def arith (flush : Bool) (ops : List Entry) (flushed : Bool) (x : FV) : Entry :=
  let r := roundTo ffFp32 flush x
  let o := ops.foldl (fun f e => f ||| e.fl) 0#4
  let infin := ops.any (fun e => isInf32 e.v)
  let nanIn := ops.any (fun e => isNan32 e.v)
  { v := w32 r.v,
    fl := o ||| (if r.ovf then 1#4 else 0#4) ||| (if infin then 2#4 else 0#4) ||| (if x.isNan then 4#4 else 0#4)
      ||| (if r.flush || flushed then 8#4 else 0#4),
    nin := x.isNan && nanIn && ops.any (fun e => isNan32 e.v && e.nin) }

/-- An operand's exact value as read, with whether it was flushed. -/
def opnd (flush : Bool) (e : Entry) : FV × Bool := let r := flushIn flush e.v; (fv32 r.1, r.2)

def eAdd (flush : Bool) (a b : Entry) : Entry :=
  let x := opnd flush a; let y := opnd flush b
  arith flush [a, b] (x.2 || y.2) (fvAdd x.1 y.1)

def eSub (flush : Bool) (a b : Entry) : Entry :=
  let x := opnd flush a; let y := opnd flush b
  arith flush [a, b] (x.2 || y.2) (fvAdd x.1 (fvNeg y.1))

def eMul (flush : Bool) (a b : Entry) : Entry :=
  let x := opnd flush a; let y := opnd flush b
  arith flush [a, b] (x.2 || y.2) (fvMul x.1 y.1)

/-- a x b + c with one rounding (R92). -/
def eFma (flush : Bool) (a b c : Entry) : Entry :=
  let x := opnd flush a; let y := opnd flush b; let z := opnd flush c
  arith flush [a, b, c] (x.2 || y.2 || z.2) (fvAdd (fvMul x.1 y.1) z.1)

/-- Finish an instruction that picks a pattern: min, max, |A|, -A. -/
def pick (ops : List Entry) (flushed : Bool) (w : W32) : Entry :=
  let o := ops.foldl (fun f e => f ||| e.fl) 0#4
  let n := isNan32 w
  { v := if n then nan32 else w,
    fl := o ||| (if ops.any (fun e => isInf32 e.v) then 2#4 else 0#4) ||| (if n then 4#4 else 0#4) ||| (if flushed then 8#4 else 0#4),
    nin := n && ops.any (fun e => isNan32 e.v && e.nin) }

def eMin (flush : Bool) (a b : Entry) : Entry :=
  let x := flushIn flush a.v; let y := flushIn flush b.v
  pick [a, b] (x.2 || y.2) (min32 x.1 y.1)

def eMax (flush : Bool) (a b : Entry) : Entry :=
  let x := flushIn flush a.v; let y := flushIn flush b.v
  pick [a, b] (x.2 || y.2) (max32 x.1 y.1)

def eAbs (flush : Bool) (a : Entry) : Entry :=
  let x := flushIn flush a.v
  pick [a] x.2 (x.1 &&& 0x7FFFFFFF#32)

def eNeg (flush : Bool) (a : Entry) : Entry :=
  let x := flushIn flush a.v
  pick [a] x.2 (x.1 ^^^ 0x80000000#32)

/-- The condition codes of VCMP and CMP (R96, R113): 0 EQ, 1 NE, 2 LT, 3 LE, 4 GT, 5 GE, 6 unordered. -/
def condHolds (cond : Nat) (o : Option Ordering) : Bool :=
  match cond, o with
  | 0, some .eq => true
  | 1, some .lt => true
  | 1, some .gt => true
  | 1, none => true
  | 2, some .lt => true
  | 3, some .lt => true
  | 3, some .eq => true
  | 4, some .gt => true
  | 5, some .gt => true
  | 5, some .eq => true
  | 6, none => true
  | _, _ => false

/-! ## PF32 (R42 to R44, R99) -/

/-- A PF32 value with the flags of the operation that formed it. -/
structure PF where
  hi : W32
  lo : W32
  fl : BitVec 4
  nin : Bool
  deriving DecidableEq, Repr

/-- (+0, +0), the identity of pfsum. -/
def pfZero : PF := ⟨0#32, 0#32, 0#4, false⟩

/-- An FP32 entry as a PF32 value (x, +0). -/
def pfOf (a : Entry) : PF := ⟨a.v, 0#32, a.fl, a.nin⟩

/-- The flags of a hi formed from operands: OVF, INFIN and INV beside the operands' own (R92, R43). -/
def hiFlags (o : BitVec 4) (infin : Bool) (r : Rnd) : BitVec 4 :=
  o ||| (if r.ovf then 1#4 else 0#4) ||| (if infin then 2#4 else 0#4) ||| (if r.v.isNan then 4#4 else 0#4)

/-- The exact-sum and exact-product steps on an exact value: (hi, lo) with lo only for a finite hi (R43). -/
def pfStep (o : BitVec 4) (infin nin : Bool) (x : FV) : PF :=
  let r := roundTo ffFp32 false x
  let lo := if r.v.isFin then round32 (fvAdd x (fvNeg r.v)) else 0#32
  ⟨w32 r.v, lo, hiFlags o infin r, r.v.isNan && nin⟩

/-- VTWOSUM (R43). -/
def twoSum (a b : Entry) : PF :=
  pfStep (a.fl ||| b.fl) (isInf32 a.v || isInf32 b.v) ((isNan32 a.v && a.nin) || (isNan32 b.v && b.nin))
    (fvAdd (fv32 a.v) (fv32 b.v))

/-- VTWOPROD (R43). -/
def twoProd (a b : Entry) : PF :=
  pfStep (a.fl ||| b.fl) (isInf32 a.v || isInf32 b.v) ((isNan32 a.v && a.nin) || (isNan32 b.v && b.nin))
    (fvMul (fv32 a.v) (fv32 b.v))

/-- A PF32 value's hi as an entry. -/
def PF.entHi (p : PF) : Entry := ⟨p.hi, p.fl, p.nin⟩
def PF.entLo (p : PF) : Entry := ⟨p.lo, p.fl, false⟩

/-- pf_add (R99). -/
def pfAdd (x y : PF) : PF :=
  let s := twoSum ⟨x.hi, x.fl, x.nin⟩ ⟨y.hi, y.fl, y.nin⟩
  if !(fv32 s.hi).isFin then { s with lo := 0#32 }
  else
    let e1 := round32 (fvAdd (fv32 x.lo) (fv32 y.lo))
    let e2 := round32 (fvAdd (fv32 s.lo) (fv32 e1))
    twoSum ⟨s.hi, s.fl, false⟩ ⟨e2, 0#4, false⟩

/-- pf_mul (R99). -/
def pfMul (x y : PF) : PF :=
  let p := twoProd ⟨x.hi, x.fl, x.nin⟩ ⟨y.hi, y.fl, y.nin⟩
  if !(fv32 p.hi).isFin then { p with lo := 0#32 }
  else
    let e1 := round32 (fvAdd (fvMul (fv32 x.hi) (fv32 y.lo)) (fv32 p.lo))
    let e2 := round32 (fvAdd (fvMul (fv32 x.lo) (fv32 y.hi)) (fv32 e1))
    twoSum ⟨p.hi, p.fl, false⟩ ⟨e2, 0#4, false⟩

/-- The PF32 value with both signs turned. -/
def pfNeg (x : PF) : PF := { x with hi := x.hi ^^^ 0x80000000#32, lo := x.lo ^^^ 0x80000000#32 }

/-- pf_sub (R99). -/
def pfSub (x y : PF) : PF := pfAdd x (pfNeg y)

/-- The exact sum hi + lo (R42); a special hi alone. -/
def pfExact (hi lo : W32) : FV :=
  match fv32 hi with
  | .fin s m e => fvAdd (.fin s m e) (fv32 lo)
  | x => x

/-! ## VB8 (R39, R40) -/

/-- The VB8 element of an exact value at scale exponent E: none is the saturation marker -128. -/
def vb8Of (x : FV) (e : Int) : Option Int :=
  match x with
  | .nan => none
  | .inf _ => none
  | .fin s m f =>
    let k := roundAt m f e
    if k ≤ 127 then some (if s then -(k : Int) else (k : Int)) else none

/-- The byte of a VB8 element. -/
def vb8Byte : Option Int → Byte
  | some q => BitVec.ofInt 8 q
  | none => 0x80#8

/-- The element of a byte. -/
def vb8Read (b : Byte) : Option Int := if b = 0x80#8 then none else some b.toInt

end Sys2Proof.Machine
end

