-- ==== Sys2Proof/Machine/Flags.lean ====
section
/-! DEFINITION. Entry flags, writeback and the numeric counters (02_number_formats R54 to R60). -/
namespace Sys2Proof.Machine

/-! One declaration after another, so that the check's memory is not shared among many threads. -/
set_option Elab.async false

/-- The four entry flags (R54). -/
def flOVF : BitVec 4 := 1#4
def flINFIN : BitVec 4 := 2#4
def flINV : BitVec 4 := 4#4
def flFLUSH : BitVec 4 := 8#4

/-- Is a flag set? -/
def hasFl (f b : BitVec 4) : Bool := f &&& b != 0#4

/-- The initial entry +0 with flags clear (R54). -/
def Entry.zero : Entry := ⟨0#32, 0#4, false⟩

/-- NUM_MODE bits (R35): bit 0 flush, bit 1 infinity. -/
def modeFlush (mode : Nat) : Bool := bitOf mode 0
def modeInf (mode : Nat) : Bool := bitOf mode 1

/-- What a written element counts (R58) and offers (R59). -/
structure Wb where
  pat : Nat
  sat : Bool
  inv : Bool
  flush : Bool
  kind : Nat
  deriving DecidableEq, Repr, Inhabited

/-- The largest finite pattern of a format with a sign (R29). -/
def largest (f : FloatFmt) (neg : Bool) : Nat := fvPattern f (.fin neg f.maxM f.maxE)

/-- What a saturation writes in each overflow mode (R55 rules 2 and 4). -/
def satPattern (f : FloatFmt) (mode : Nat) (neg : Bool) : Nat :=
  if modeInf mode && f.hasInf then fvPattern f (.inf neg) else largest f neg

/-- Writeback of an exact value with its entry's flags (R55): rules 1 to 5 in order. `nin`: a NaN that came in as an input. -/
def writeback (f : FloatFmt) (mode : Nat) (x : FV) (fl : BitVec 4) (nin : Bool) : Wb :=
  let flushed := hasFl fl flFLUSH
  match x with
  | .nan => ⟨f.canon, false, true, flushed, if nin then 1 else 0⟩
  | .inf s =>
    if hasFl fl flOVF && !hasFl fl flINFIN then ⟨satPattern f mode s, true, false, flushed, 0⟩
    else ⟨fvPattern f (.inf s), false, !f.hasInf, flushed, 0⟩
  | .fin s m e =>
    let r := roundTo f (modeFlush mode) (.fin s m e)
    if r.ovf then ⟨satPattern f mode s, true, false, flushed, 0⟩
    else ⟨fvPattern f r.v, false, false, flushed || r.flush, 0⟩

/-- Writeback of an entry to a format without a scale (R37, R55). -/
def wbEntry (f : FloatFmt) (mode : Nat) (e : Entry) : Wb := writeback f mode (fv32 e.v) e.fl e.nin

/-- Writeback of an entry to FP8 with a scale: one rounding of the exact quotient (R37, R38). -/
def wbScaled (f : FloatFmt) (mode : Nat) (e : Entry) (scale : FV) : Wb :=
  let x := fv32 e.v
  let q := fvDiv x scale
  let infin := scale.isInf || (x.isFin && q.isInf)
  writeback f mode q (e.fl ||| (if infin then flINFIN else 0#4)) ((x.isNan && e.nin) || scale.isNan)

/-- No counts. -/
def NumStat.zero : NumStat := { sat := 0, flush := 0, inv := 0, cap := none }

/-- A 48-bit counter that stays at its maximum (R58). -/
def stick48 (n : Nat) : Nat := min n (2 ^ 48 - 1)

/-- The canonical order of captures (R59). -/
def Capture.before (a b : Capture) : Bool :=
  let k (c : Capture) : List Nat := [c.tileM, c.tileN, c.kgroup, c.row, c.col]
  decide (k a < k b)

/-- The earlier of two candidates (R59). -/
def capMin : Option Capture → Option Capture → Option Capture
  | none, b => b
  | a, none => a
  | some a, some b => some (if b.before a then b else a)

/-- Add the counts of another unit (R58, R59). -/
def NumStat.add (a b : NumStat) : NumStat :=
  { sat := stick48 (a.sat + b.sat), flush := stick48 (a.flush + b.flush), inv := stick48 (a.inv + b.inv), cap := capMin a.cap b.cap }

/-- Count flushed operand loads (R58). -/
def NumStat.addFlush (a : NumStat) (n : Nat) : NumStat := { a with flush := stick48 (a.flush + n) }

/-- Count one written element and offer its capture candidate (R58, R59). -/
def NumStat.count (a : NumStat) (w : Wb) (c : Capture) : NumStat :=
  { sat := stick48 (a.sat + b2n w.sat), flush := stick48 (a.flush + b2n w.flush), inv := stick48 (a.inv + b2n w.inv),
    cap := if w.inv then capMin a.cap (some c) else a.cap }

/-- Count one written element whose NaN has offered its candidate already, where it arose (R58, R59). -/
def NumStat.countOnly (a : NumStat) (w : Wb) : NumStat :=
  { sat := stick48 (a.sat + b2n w.sat), flush := stick48 (a.flush + b2n w.flush), inv := stick48 (a.inv + b2n w.inv), cap := a.cap }

/-- The 40-byte numeric status block of operation `op` (R57). -/
def NumStat.block (n : NumStat) (op : Nat) : List Byte :=
  let mx (k : Nat) : Nat := if k = 2 ^ 48 - 1 then 1 else 0
  let cv : Nat := if n.cap.isSome then 1 else 0
  let c := n.cap.getD ⟨0, 0, 0, 0, 0, 0⟩
  let flags := mx n.sat + 2 * mx n.flush + 4 * mx n.inv + 8 * cv + 16 * (if c.kind = 1 then 1 else 0)
  leBytes 6 n.sat ++ leBytes 6 n.flush ++ leBytes 6 n.inv ++ leBytes 1 flags ++ zeros 1
    ++ (if n.cap.isSome then leBytes 4 op ++ leBytes 4 c.tileM ++ leBytes 4 c.tileN ++ leBytes 4 c.kgroup ++ leBytes 2 c.row
          ++ leBytes 2 c.col else zeros 20)

/-- The tile status bits SAT, INV, FLUSH of a unit's counts (R55). -/
def NumStat.tileStatus (n : NumStat) : Nat :=
  (if n.sat > 0 then 1 else 0) + (if n.inv > 0 then 2 else 0) + (if n.flush > 0 then 4 else 0)

/-- The 8-byte vector status block (R117). -/
def varBlock (clamp : Nat) : List Byte :=
  leBytes 6 (stick48 clamp) ++ leBytes 1 (if stick48 clamp = 2 ^ 48 - 1 then 1 else 0) ++ zeros 1

end Sys2Proof.Machine
end

