-- ==== Sys2Proof/Machine/Ops.lean ====
section
/-! DEFINITION. The named operations over memory, queues and registers that the commands share. -/
namespace Sys2Proof.Machine

/-! ## Memory as cells -/

/-- What an address that the list does not name reads as: RAM after power-on is zero here (log 7). -/
def memDefault : Byte := 0#8

/-- Read one byte of a memory list. -/
def cellGet : List Host.Cell → Nat → Byte
  | [], _ => memDefault
  | (b, v) :: t, a => if b = a then v else cellGet t a

/-- Write one byte, keeping addresses rising and no entry at its default. -/
def cellSet : List Host.Cell → Nat → Byte → List Host.Cell
  | [], a, v => if v = memDefault then [] else [(a, v)]
  | (b, w) :: t, a, v =>
    if a < b then (if v = memDefault then (b, w) :: t else (a, v) :: (b, w) :: t)
    else if a = b then (if v = memDefault then t else (a, v) :: t)
    else (b, w) :: cellSet t a v

/-- Are all addresses above `lo`, rising, with no entry at its default? -/
def cellsAbove : Option Nat → List Host.Cell → Bool
  | _, [] => true
  | lo, (a, v) :: t => (match lo with | none => true | some l => decide (l < a)) && v != memDefault && cellsAbove (some a) t

/-- The canonical form of memory: addresses strictly rising, no entry equal to what an unlisted address reads as. -/
def Memory.wf (m : List Host.Cell) : Bool := cellsAbove none m

/-- Read `n` bytes. -/
def cellsRead (m : List Host.Cell) : Nat → Nat → List Byte
  | _, 0 => []
  | a, n + 1 => cellGet m a :: cellsRead m (a + 1) n

/-- Write bytes at rising addresses. -/
def cellsWrite : List Host.Cell → Nat → List Byte → List Host.Cell
  | m, _, [] => m
  | m, a, b :: t => cellsWrite (cellSet m a b) (a + 1) t

/-! ## The physical map (R169 to R174) -/

/-- The regions of R169. -/
inductive Region where
  | mgmt | inter | hot | local (die : Nat) | lp | host | core (c : Nat) | cq | cfg | none
  deriving DecidableEq, Repr

/-- Installed HBM3E in GiB (R1). -/
def Order.hbm : Order → Nat
  | .o288x0512x08 | .o288x1024x16 => 288
  | .o384x0512x16 | .o384x1024x16 => 384

/-- Usable LPDDR5X in GiB (R1). -/
def Order.lpGiB : Order → Nat
  | .o288x0512x08 | .o384x0512x16 => 496
  | .o288x1024x16 | .o384x1024x16 => 992

/-- ID_ORDER (R464). -/
def Order.code : Order → Nat
  | .o288x0512x08 => 0 | .o288x1024x16 => 1 | .o384x0512x16 => 2 | .o384x1024x16 => 3

/-- MEM_LOCAL_FRAMES in force (R170). -/
def State.localFrames (s : State) : Nat := nth s.cfgCur 0
/-- MC_HOT_SLOTS in force (R199). -/
def State.hotSlots (s : State) : Nat := nth s.cfgCur 1
/-- SAVE_POOL_HBM and SAVE_POOL_LP in force, GiB (R340). -/
def State.savePoolHbm (s : State) : Nat := nth s.cfgCur 2
def State.savePoolLp (s : State) : Nat := nth s.cfgCur 3

/-- I of R170: frames that are interleaved. -/
def State.interFrames (s : State) : Nat := s.ident.order.hbm - 4 * s.localFrames

def gib : Nat := 2 ^ 30
def lpBase : Nat := 0x0100_0000_0000
def hostBase : Nat := 0x0800_0000_0000
def coreBase : Nat := 0x0E00_0000_0000
def cfgBase : Nat := 0x0F00_0000_0000
def cqWindow : Nat := 0x0F00_0100_0000

/-- The region of a physical address (R169); the command queue window apart from the rest of configuration space. -/
def State.region (s : State) (a : Nat) : Region :=
  if a < 8 * gib then .mgmt
  else if a < (s.interFrames - s.hotSlots) * gib then .inter
  else if a < s.interFrames * gib then .hot
  else if a < s.ident.order.hbm * gib then .local ((a - s.interFrames * gib) / (s.localFrames * gib))
  else if a < lpBase then .none
  else if a < lpBase + s.ident.order.lpGiB * gib then .lp
  else if a < hostBase then .none
  else if a < hostBase + s.hi.winSize * gib then .host
  else if a < coreBase then .none
  else if a < coreBase + 192 * 0x40_0000 then .core ((a - coreBase) / 0x40_0000)
  else if a < cfgBase then .none
  else if cqWindow ≤ a ∧ a < cqWindow + 2 ^ 24 then .cq
  else if a < cfgBase + 2 ^ 32 then .cfg
  else .none

/-- Is the region HBM3E? -/
def Region.isHbm : Region → Bool
  | .mgmt | .inter | .hot | .local _ => true
  | .lp | .host | .core _ | .cq | .cfg | .none => false

/-- hbm_locate: stack and byte offset in it (R171). -/
def State.hbmLocate (s : State) (a : Nat) : Nat × Nat :=
  let ib := s.interFrames * gib
  if a < ib then
    let b := a / 4096
    ((b ^^^ (b / 8) ^^^ (b / 64)) % 8, a / 2 ^ 15 * 4096 + a % 4096)
  else
    let c := (a - ib) / (s.localFrames * gib)
    let o := (a - ib) % (s.localFrames * gib)
    (2 * c + ((o / 2 ^ 12) ^^^ (o / 2 ^ 13)) % 2, ib / 8 + (o / 2 ^ 13 * 4096 + o % 4096))

/-- lp_locate: channel, data address and code address in it (R173). -/
def lpLocate (a : Nat) : Nat × Nat × Nat :=
  let o := a - lpBase
  let sct := o / 64
  let g := sct / 31
  let j := sct % 31
  let base := g / 16 * 2048
  (g % 16, base + j * 64 + o % 64, base + 1984 + 2 * j)

/-- The code stored for a sector of HBM3E or LPDDR5X (R183), and for a poisoned one (R184). -/
def sectorCode (pa : Nat) (bytes : List Byte) (poisoned : Bool) : Nat :=
  let n := pa / 64
  let c := crc16 bytes ^^^ (bits n 0 16 ^^^ bits n 16 16 ^^^ bits n 32 10)
  if poisoned then c ^^^ 0x5A5A else c

/-! ## Telemetry counters (R325, R418 to R420) -/

/-- Raise counter `idx` of a unit; at its maximum it sticks and sets its overflow bit. -/
def State.telAdd (s : State) (unit idx n : Nat) : State :=
  let k := unit * 0x10000 + idx
  let v := kvGetD k s.tel 0 + n
  if v < 2 ^ 64 - 1 then { s with tel := kvSet k v s.tel }
  else { s with tel := kvSet k (2 ^ 64 - 1) s.tel, telOvf := kvSet unit (kvGetD unit s.telOvf 0 ||| 2 ^ idx) s.telOvf }

/-- The telemetry unit of the store behind an address: HBM controller of its stack, LPDDR5X controller of its channel. -/
def State.memUnit (s : State) (pa : Nat) : Option Nat :=
  if (s.region pa).isHbm then some (0x0110 + (s.hbmLocate pa).1)
  else if s.region pa = .lp then some (0x0120 + (lpLocate pa).1 / 4)
  else none

/-! ## Free values -/

/-- Take a fresh free value (log 2). -/
def State.fresh (s : State) : W64 × State := (Config.freeWord s.freeCtr, { s with freeCtr := s.freeCtr + 1 })

/-- `n` fresh free bytes. -/
def freshBytes : Nat → State → List Byte × State
  | 0, s => ([], s)
  | n + 1, s =>
    let r := s.fresh
    let t := freshBytes n r.2
    (r.1.setWidth 8 :: t.1, t.2)

/-! ## The link to the host die (R380 to R383, R389, R390) -/

/-- Parts of at most 224 bytes (R381). -/
def txParts (l : List Byte) : List (List Byte) := chunks 224 (l.length + 1) l

/-- Addresses of successive parts. -/
def placeParts : Nat → List (List Byte) → List (Nat × List Byte)
  | _, [] => []
  | a, p :: t => (a, p) :: placeParts (a + p.length) t

/-- Write an entry of a queue's ring of 4,096 (R330, R331): EN_SEQ sticks, an unread entry overwritten counts as lost. -/
def EvQueue.push (q : EvQueue) (time code ctx : Nat) (data : List Byte) : EvQueue :=
  if q.write ≥ 2 ^ 64 - 1 then { q with lost := min (q.lost + 1) (2 ^ 32 - 1) }
  else
    let e : QEntry := { seq := q.write, time := time, code := code, ctx := ctx, data := padTo 44 (data.take 44) }
    let es := q.entries ++ [e]
    if es.length > 4096 then
      { entries := es.drop 1, write := q.write + 1, read := q.read,
        lost := match es with
          | [] => q.lost
          | o :: _ => if o.seq ≥ q.read then min (q.lost + 1) (2 ^ 32 - 1) else q.lost }
    else { q with entries := es, write := q.write + 1 }

/-- The source number that stands for 0xFFFF, the event queue (R389). -/
def srcEvents : Nat := 1024

/-- NT_SOURCE as it is sent. -/
def srcCode (n : Nat) : Nat := if n = srcEvents then 0xFFFF else n

/-- Last retired sequence number of a context's queue (R328). -/
def State.lastRetired (s : State) (c : Nat) : Nat := ((kvGet c s.queues).map QueueRec.lastRetired).getD 0

/-- A 16-byte transaction header (R381). -/
def txHead (kind len tag addr : Nat) : List Byte :=
  leBytes 1 kind ++ leBytes 1 len ++ leBytes 2 tag ++ zeros 2 ++ leBytes 6 addr ++ zeros 4

/-- The header and data of a transaction (R381): kind and status, data bytes / 8, read tag, target address. A write that is no whole number of
8-byte words rounds HT_LEN up (log 14). -/
def HostTx.wire : HostTx → List Byte
  | .write a l => txHead 0 (ceilDiv l.length 8) 0 a ++ l
  | .read a n t => txHead 1 (ceilDiv n 8) t a
  | .completion t st l => txHead (2 + 16 * st) (ceilDiv l.length 8) t 0 ++ l
  | .notify l => txHead 3 2 0 0 ++ l

/-- The 16 data bytes of a NOTIFY (R389). -/
def notifyBytes (kind source retired count : Nat) : List Byte :=
  leBytes 2 kind ++ leBytes 2 source ++ leBytes 4 retired ++ leBytes 2 count ++ zeros 6

/-- Send a NOTIFY (R389): on the trained link, behind a replay in progress, or nowhere while the link is lost (log 14). -/
def State.notifySend (s : State) (kind source count : Nat) : State :=
  let tx : HostTx := .notify (notifyBytes kind (srcCode source) (if kind = 0 then s.lastRetired source else 0) count)
  if s.hi.linkUp then { s with hi := { s.hi with out := s.hi.out ++ [tx.wire] } }
  else if s.hi.train.isSome && !s.hi.lost then { s with hi := { s.hi with replay := s.hi.replay ++ [tx] } }
  else s

/-- A cause at a source (R390). -/
def State.ntCause (s : State) (source : Nat) : State :=
  if !s.hi.ntEnable then s
  else if s.nt.armed.contains source then
    ({ s with nt := { s.nt with armed := s.nt.armed.filter (· != source) } } : State).notifySend
      (if source = srcEvents then 1 else 0) source 1
  else { s with nt := { s.nt with counts := kvSet source (min (kvGetD source s.nt.counts 0 + 1) 0xFFFF) s.nt.counts } }

/-- No context (R330). -/
def noCtx : Nat := 0xFFFF

/-- Post an event (R330, R417) and give its cause to source 0xFFFF (R389). -/
def State.post (s : State) (code ctx : Nat) (data : List Byte) : State :=
  ({ s with evq := s.evq.push s.refCount code ctx data } : State).ntCause srcEvents

/-- A CP trace point, if enabled (R466). -/
def State.trace (s : State) (point ctx : Nat) (data : List Byte) : State :=
  if s.tqEnable.getLsbD point then
    { s with trq := s.trq.push s.refCount point ctx (padTo 8 (data.take 8) ++ leBytes 1 1) }
  else s

/-- The next chain value (R448). -/
def chainNext (chain : BitVec 128) (payload : List Byte) (code : Nat) : BitVec 128 :=
  (Config.shake256 (leBytes 16 chain.toNat ++ payload ++ leBytes 2 code)).setWidth 128

/-- A change journal entry: payload at bytes 16-43; a persistent kind moves the chain. Before the queue opens at step 8 of the start the entry waits
(R448; log 128). -/
def State.journal (s : State) (code : Nat) (persistent : Bool) (ctx : Nat) (payload : List Byte) : State :=
  let p := padTo 28 (payload.take 28)
  let c := if persistent then chainNext s.fw.chain p code else s.fw.chain
  let d := (if persistent then leBytes 16 c.toNat else zeros 16) ++ p
  let f := { s.fw with chain := c, count := s.fw.count + b2n persistent }
  if s.hi.bootStage = 4 then { s with jrq := s.jrq.push s.refCount code ctx d, fw := f }
  else { s with fw := { f with jwait := f.jwait ++ [(code, ctx, d)] } }

/-- Where the flash holds the identity certificate (R426). -/
def identArea : Nat := 0x0E00_1000

/-- HI_ERR bits (R386). -/
def State.hiErr (s : State) (bit : Nat) : State := { s with hi := { s.hi with err := s.hi.err ||| BitVec.ofNat 6 (2 ^ bit) } }

/-- Has the link been lost (R380)? -/
def State.linkLost (s : State) : Bool := !s.hi.linkUp && s.hi.lost

/-- Bytes of host memory that the module has written or a completion has brought, at rising addresses (log 6). -/
def viewWrite : KV Byte → Nat → List Byte → KV Byte
  | v, _, [] => v
  | v, a, b :: t => viewWrite (kvSet a b v) (a + 1) t

/-- A write to the host die: sent, held for replay (host memory has it only when it is sent), or discarded with the event posted once while the link is lost (R380). -/
def State.hostWrite (s : State) (o : Nat) (l : List Byte) : State :=
  let txs := (placeParts (s.hi.winBase + o) (txParts l)).map fun p => HostTx.write p.1 p.2
  if s.hi.linkUp then { s with hi := { s.hi with out := s.hi.out ++ txs.map HostTx.wire, view := viewWrite s.hi.view (s.hi.winBase + o) l } }
  else if s.hi.train.isSome && !s.hi.lost then { s with hi := { s.hi with replay := s.hi.replay ++ txs } }
  else if s.hi.downPosted then s
  else ({ s with hi := { s.hi with downPosted := true } } : State).post 0x0A02 noCtx (leBytes 1 1)

/-- A byte of host memory at a host-die address as the module last saw it (log 6). -/
def State.hostByte (s : State) (a : Nat) : Byte :=
  match kvGet a s.hi.view with
  | some b => b
  | none => Config.hostByte s.refCount a

/-- The lowest read tag not outstanding, none with 4,096 reads outstanding (R381). -/
def freeTag (m : KV (Nat × Nat × Nat)) : Option Nat := (List.range 4096).find? fun t => (kvGet t m).isNone

/-- Issue one read request, held for replay while the link retrains (R380, R381); without a free tag it is issued later. -/
def State.hostRead1 (s : State) (a n tries : Nat) : State :=
  match freeTag s.hi.reads with
  | none => s
  | some t =>
    let hi := { s.hi with reads := kvSet t (a, n, tries) s.hi.reads }
    { s with hi := if s.hi.linkUp then { hi with out := hi.out ++ [(HostTx.read a n t).wire] } else { hi with replay := hi.replay ++ [.read a n t] } }

/-- The parts that a read of a host-window range is made of: host-die address and bytes (R381, R383). -/
def State.hostParts (s : State) (o n : Nat) : List (Nat × Nat) :=
  (placeParts (s.hi.winBase + o) (txParts (zeros n))).map fun p => (p.1, p.2.length)

/-! ## Stall timers (R165, R256, R289) -/

/-- The key of a ring's or queue's stall timer. -/
def stallKey (vc c tag : Nat) : Nat := vc * 2 ^ 42 + c * 2 ^ 32 + tag

/-- A unit, a message or a credit has arrived: the stall timer starts again (log 127). -/
def State.progress (s : State) (vc c tag : Nat) : State := { s with stalls := kvSet (stallKey vc c tag) (s.refCount, 0) s.stalls }

/-- A stall timer expires (R165, R256, R289): the milliseconds without progress, and the timer for the next limit; none before the limit has passed again,
or with limit 0. An operation's wait counts from its beginning. -/
def State.stallDue (s : State) (vc c tag limit began : Nat) : Option (Nat × State) :=
  let w := kvGetD (stallKey vc c tag) s.stalls (0, 0)
  let since := max w.1 began
  let n := if w.1 < began then 0 else w.2
  if limit = 0 ∨ s.refCount < since + (n + 1) * limit * 1000000 then none
  else some ((s.refCount - since) / 1000000, { s with stalls := kvSet (stallKey vc c tag) (since, n + 1) s.stalls })

/-! ## Physical reads and writes -/

/-- Is the sector of an address poisoned? -/
def State.poisoned (s : State) (pa : Nat) : Bool := s.poison.contains (pa / 64)

/-- Mark a sector poisoned (R184). -/
def State.setPoison (s : State) (sector : Nat) : State :=
  { s with poison := insNat sector s.poison, hwPoison := if s.poison.contains sector then s.hwPoison else s.hwPoison.filter (· != sector),
           sound := s.sound.filter (· != sector) }

/-- A sector's poison arose from a detected error on this module (R296). -/
def State.markHw (s : State) (sector : Nat) : State := { s with hwPoison := insNat sector s.hwPoison }

/-- Is an address's sector poisoned by a detected error on this module? -/
def State.hwPoisoned (s : State) (pa : Nat) : Bool := s.poisoned pa && s.hwPoison.contains (pa / 64)

/-- One byte as a reader finds it. -/
def State.byteAt (s : State) (pa : Nat) : Byte :=
  if s.region pa = .host then s.hostByte (s.hi.winBase + (pa - hostBase)) else cellGet s.mem pa

/-- `n` bytes from a physical address. -/
def State.physRead (s : State) (pa n : Nat) : List Byte := (List.range n).map fun i => s.byteAt (pa + i)

/-- Sectors that a range touches. -/
def sectorsOf (pa n : Nat) : List Nat := (List.range ((pa + n + 63) / 64 - pa / 64)).map (· + pa / 64)

/-- The first poisoned sector that a range touches, as its physical address; host memory over a lost link counts (R380). -/
def State.firstPoison (s : State) (pa n : Nat) : Option Nat :=
  ((sectorsOf pa n).find? fun k => s.poison.contains k || (s.linkLost && s.region (64 * k) = .host)).map (· * 64)

/-- Mark every sector of a range poisoned (R89, R187). -/
def State.poisonRange (s : State) (pa n : Nat) : State := (sectorsOf pa n).foldl State.setPoison s

/-- Write part of one sector (R188): a whole sector clears poison, a partial write of a poisoned one is discarded. -/
def State.writeSector (s : State) (pa : Nat) (l : List Byte) : State :=
  if l.length = 64 then { s with mem := cellsWrite s.mem pa l, poison := s.poison.filter (· != pa / 64) }
  else if s.poisoned pa then s
  else { s with mem := cellsWrite s.mem pa l }

/-- Write bytes to module memory sector by sector; `fuel` bounds the sectors. -/
def State.writeMem : Nat → State → Nat → List Byte → State
  | 0, s, _, _ => s
  | f + 1, s, pa, l =>
    if l.isEmpty then s
    else
      let k := 64 - pa % 64
      State.writeMem f (s.writeSector pa (l.take k)) (pa + k) (l.drop k)

/-- Write bytes at a physical address: host memory by transactions (R383), module memory by sectors. -/
def State.physWrite (s : State) (pa : Nat) (l : List Byte) : State :=
  if l.isEmpty then s
  else if s.region pa = .host then
    ({ s with poison := s.poison.filter fun k => !decide (pa ≤ 64 * k ∧ 64 * k + 64 ≤ pa + l.length) } : State).hostWrite (pa - hostBase) l
  else State.writeMem (l.length + 1) s pa l

/-! ## Translation (R176 to R181) -/

/-- Page size of a mapping. -/
def Mapping.size (m : Mapping) : Nat := if m.big then 2 ^ 30 else 2 ^ 21

/-- The mapping that holds a virtual address. -/
def findMap (ms : List Mapping) (va : Nat) : Option Mapping := ms.find? fun m => decide (m.va ≤ va ∧ va < m.va + m.size)

/-- Why an access faults (R181, R417): kind 0 unmapped, 1 read-only, 2 partition; space 0 virtual, 1 scratchpad, 2 accumulator. -/
structure MFault where
  va : Nat
  kind : Nat
  space : Nat
  deriving DecidableEq, Repr, Inhabited

/-- Translate one address. -/
def translate (ms : List Mapping) (va : Nat) (write : Bool) : Except MFault Nat :=
  match findMap ms va with
  | none => .error ⟨va, 0, 0⟩
  | some m => if write && !m.write then .error ⟨va, 1, 0⟩ else .ok (m.pa + (va - m.va))

/-- A range as physical spans, cut at 2 MiB; the first address that does not translate otherwise. -/
def spans (ms : List Mapping) (write : Bool) : Nat → Nat → Nat → Except MFault (List (Nat × Nat))
  | 0, _, _ => .ok []
  | f + 1, va, n =>
    if n = 0 then .ok []
    else
      match translate ms va write with
      | .error e => .error e
      | .ok pa =>
        let k := min n (2 ^ 21 - va % 2 ^ 21)
        match spans ms write f (va + k) (n - k) with
        | .error e => .error e
        | .ok t => .ok ((pa, k) :: t)

/-- The spans of a range with enough fuel. -/
def vspans (ms : List Mapping) (write : Bool) (va n : Nat) : Except MFault (List (Nat × Nat)) :=
  spans ms write (n / 2 ^ 21 + 2) va n

/-- The core and partition index of a resident position. -/
def Position.resident? (q : Position) : Option (Nat × Nat) :=
  match q.place with
  | .resident core part _ => some (core, part)
  | .saved => none
  | .waiting .. => none
  | .restoring .. => none
  | .saving .. => none

/-- Scratchpad bytes and accumulator entries of a partition (R64). -/
def partSp (part : Nat) : Nat := 2 ^ 21 / 2 ^ (min part 2)
def partEnt (part : Nat) : Nat := 65536 / 2 ^ (min part 2)

/-- Physical addresses of a partition's scratchpad, accumulator values and flags (R174, R175). -/
def spAddr (core part idx : Nat) : Nat := coreBase + core * 0x40_0000 + idx * partSp part
def accAddr (core part idx : Nat) : Nat := coreBase + core * 0x40_0000 + 0x20_0000 + idx * partEnt part * 4
def accFlagAddr (core part idx : Nat) : Nat := coreBase + core * 0x40_0000 + 0x24_0000 + idx * partEnt part / 2

/-- The first byte of a physical span that a context may not reach through a core window (R175): all but its own partition there. -/
def windowStop (x : Ctx) (pa n : Nat) : Option Nat :=
  if pa < coreBase ∨ coreBase + 192 * 0x40_0000 ≤ pa then none
  else
    let core := (pa - coreBase) / 0x40_0000
    let own := x.positions.filterMap fun q => q.resident?.bind fun k => if k.1 = core then some k.2 else none
    let parts := own.flatMap fun i => [(spAddr core x.part i, partSp x.part), (accAddr core x.part i, 4 * partEnt x.part),
      (accFlagAddr core x.part i, partEnt x.part / 2)]
    match parts.find? fun r => decide (r.1 ≤ pa ∧ pa < r.1 + r.2) with
    | none => some 0
    | some r => if pa + n ≤ r.1 + r.2 then none else some (r.1 + r.2 - pa)

/-- The kind that marks an access that is not refused but waits: for a saved position (R338). It is no fault kind of R181 and leaves the
machine by no event. -/
def kindWaits : Nat := 0xFF

/-- The position that a core window names while the context is not resident on that core: the one whose initial placement is there (R338; log
117). -/
def windowPos (x : Ctx) (core : Nat) : Option Position := x.positions.find? fun q => q.home == core

/-- Is a context resident on a core? -/
def Ctx.onCore (x : Ctx) (core : Nat) : Bool := x.positions.any fun q => q.resident?.any fun r => r.1 == core

/-- The part of a window that an offset lies in (R174): where it begins, a partition's share of it, and how far into its share the offset is. -/
def windowPart (part o : Nat) : Option (Nat × Nat × Nat) :=
  if o < 0x20_0000 then some (0, partSp part, o % partSp part)
  else if o < 0x24_0000 then some (0x20_0000, 4 * partEnt part, (o - 0x20_0000) % (4 * partEnt part))
  else if o < 0x24_8000 then some (0x24_0000, partEnt part / 2, (o - 0x24_0000) % (partEnt part / 2))
  else none

/-- A span that the context may not reach where it stands, taken through the placement table (R338): to the position that the window names, where
that is resident; it waits while that is not. Otherwise it is refused, from byte `k` of the span on. -/
def windowMoved (x : Ctx) (pa n k : Nat) : Except (Nat × Nat) Nat :=
  let core := (pa - coreBase) / 0x40_0000
  if x.onCore core then .error (k, 2)
  else
    match windowPos x core, windowPart x.part ((pa - coreBase) % 0x40_0000) with
    | some q, some w =>
      (match q.resident? with
       | none => .error (k, kindWaits)
       | some r =>
         if w.2.2 + n ≤ w.2.1 then .ok (coreBase + r.1 * 0x40_0000 + w.1 + r.2 * w.2.1 + w.2.2) else .error (w.2.1 - w.2.2, 2))
    | _, _ => .error (k, 2)

/-- Where a span of a context's access stands, by R175 and R338. -/
def windowSpan (x : Ctx) (pa n : Nat) : Except (Nat × Nat) Nat :=
  match windowStop x pa n with
  | none => .ok pa
  | some k => windowMoved x pa n k

/-- Spans that begin at `va`, by the checks of R175 and the placement table of R338; the first virtual address that is refused or waits. -/
def windowMap (x : Ctx) : Nat → List (Nat × Nat) → Except MFault (List (Nat × Nat))
  | _, [] => .ok []
  | va, (pa, n) :: t =>
    match windowSpan x pa n with
    | .error e => .error ⟨va + e.1, e.2, 0⟩
    | .ok a =>
      match windowMap x (va + n) t with
      | .error e => .error e
      | .ok r => .ok ((a, n) :: r)

/-- A context's range as physical spans that it may reach (R175 to R181, R338). -/
def Ctx.reach (x : Ctx) (write : Bool) (va n : Nat) : Except MFault (List (Nat × Nat)) :=
  match vspans x.maps write va n with
  | .error e => .error e
  | .ok ps => windowMap x va ps

/-- The same for a context by its ID. -/
def State.reach (s : State) (c : Nat) (write : Bool) (va n : Nat) : Except MFault (List (Nat × Nat)) :=
  match kvGet c s.ctxs with
  | none => if n = 0 then .ok [] else .error ⟨va, 0, 0⟩
  | some x => x.reach write va n

/-- The physical spans of a context's virtual ranges, as far as they translate. -/
def State.physSpans (s : State) (c : Nat) (l : List (Nat × Nat)) : List (Nat × Nat) :=
  l.flatMap fun r => match s.reach c false r.1 r.2 with | .ok ps => ps | .error _ => []

/-- Does a reader of these spans wait for the host's completions (R383)? -/
def State.hostDue (s : State) (ps : List (Nat × Nat)) : Bool :=
  s.hi.want.any fun w => ps.any fun p => decide (w.1 < p.1 + p.2 ∧ p.1 < w.1 + w.2)

/-- The mappings of a context. -/
def State.mapsOf (s : State) (c : Nat) : List Mapping := ((kvGet c s.ctxs).map Ctx.maps).getD []

/-- Does a range translate whole? -/
def State.vok (s : State) (c : Nat) (write : Bool) (va n : Nat) : Bool :=
  match vspans (s.mapsOf c) write va n with
  | .ok _ => true
  | .error _ => false

/-- Bytes of a context's virtual range, with the first poisoned physical address met (R187). -/
def State.vread (s : State) (c va n : Nat) : Except MFault (List Byte × Option Nat) :=
  match s.reach c false va n with
  | .error e => .error e
  | .ok l => .ok (l.flatMap fun p => s.physRead p.1 p.2, l.findSome? fun p => s.firstPoison p.1 p.2)

/-- Write spans in order. -/
def State.writeSpans (s : State) : List (Nat × Nat) → List Byte → State
  | [], _ => s
  | (pa, n) :: t, l => State.writeSpans (s.physWrite pa (l.take n)) t (l.drop n)

/-- Dirty bits of the hot-set slots that a physical write reaches (R201): slot by frame number. -/
def State.dirtySlot (s : State) (pa : Nat) : State :=
  if s.region pa = .hot then
    { s with models := s.models.map fun m =>
        if m.2.slots.contains (pa / gib) then (m.1, { m.2 with dirty := insNat (pa / gib) m.2.dirty }) else m }
  else s

/-- Write bytes to a context's virtual range (R181, R201). -/
def State.vwrite (s : State) (c va : Nat) (l : List Byte) : Except MFault State :=
  match s.reach c true va l.length with
  | .error e => .error e
  | .ok ps => .ok ((ps.foldl (fun s p => s.dirtySlot p.1) s).writeSpans ps l)

/-- Writes that together cover all 64 bytes of a sector clear its poison (R188): physical ranges of one work unit's writes. -/
def State.clearCovered (s : State) (ps : List (Nat × Nat)) : State :=
  if s.poison.isEmpty then s
  else
    { s with poison := s.poison.filter fun k =>
        !((List.range 64).all fun b => ps.any fun p => decide (p.1 ≤ 64 * k + b ∧ 64 * k + b < p.1 + p.2)) }

/-- The same for the virtual ranges that a work unit is about to write. -/
def State.coverClear (s : State) (c : Nat) (l : List (Nat × Nat)) : State :=
  if s.poison.isEmpty then s
  else s.clearCovered (l.flatMap fun r => match s.reach c true r.1 r.2 with | .ok ps => ps | .error _ => [])

/-- Has a hardware fault that could not be recovered met the context's step (R296)? -/
def State.envir (s : State) (c : Nat) : Bool := match kvGet c s.ctxs with | some x => x.mark.envir | none => false

/-- Poison a context's virtual range where it translates (R89); poison that a step makes after a hardware fault met it counts as that fault's
(R296; log 113). -/
def State.vpoison (s : State) (c va n : Nat) : State :=
  match s.reach c true va n with
  | .error _ => s
  | .ok ps =>
    let s := ps.foldl (fun s p => (s.dirtySlot p.1).poisonRange p.1 p.2) s
    if s.envir c then ps.foldl (fun s p => (sectorsOf p.1 p.2).foldl State.markHw s) s else s

/-- Fill a virtual range with free values: an output the spec calls undefined (R366). -/
def State.vscramble (s : State) (c va n : Nat) : State :=
  let r := freshBytes n s
  match r.2.vwrite c va r.1 with
  | .error _ => s
  | .ok t => t

/-! ## Replies (R328, R329, R358, R372) -/

/-- Is the module running: ready, not halted, at no calm point, no reset ordered (R386, R415, R439, R452)? -/
def State.running (s : State) : Bool := s.hi.bootStage = 4 && !s.halted && s.calm.isNone && !s.resetDue

/-- Has the run of the activation step retired: no run in a context of the ring (R439 step 2)? -/
def State.calmDue (s : State) (tag : Nat) : Bool :=
  (s.trade.filter fun g => g.1 % 2 ^ 32 == tag).all fun g => match kvGet (g.1 / 2 ^ 32) s.ctxs with
    | some x => x.run.isNone
    | none => true

/-- Does a calm point follow now, so that acceptance pauses (R439 step 3)? -/
def State.calmNear (s : State) : Bool :=
  s.fw.schedDecided && (match s.fw.sched with | some x => s.calmDue x.1 | none => false)

/-- Serial arithmetic: a is later than b (R327). -/
def seqLater (a b : Nat) : Bool := let d := (a + 2 ^ 32 - b) % 2 ^ 32; decide (1 ≤ d ∧ d < 2 ^ 31)

/-- Take up the sequence numbers after `last` that are already retired. -/
def absorb : Nat → Nat → List Nat → Nat × List Nat
  | 0, last, r => (last, r)
  | f + 1, last, r =>
    let nx := (last + 1) % 2 ^ 32
    if r.contains nx then absorb f nx (r.filter (· != nx)) else (last, r)

/-- A packet's sequence number retires (R328). -/
def QueueRec.retire (q : QueueRec) (seq : Nat) : QueueRec :=
  let r := absorb (q.retired.length + 1) q.lastRetired (seq :: q.retired)
  { q with lastRetired := r.1, retired := r.2, bell := true }

/-- Address of a slot of a reply ring. -/
def QueueRec.slotAddr (q : QueueRec) (i : Nat) : Nat := q.rqBase + 64 * (i % q.rqSlots)

/-- Write the 64-byte slots of an item from a slot on. -/
def State.writeSlots (s : State) (q : QueueRec) : Nat → List (List Byte) → State
  | _, [] => s
  | i, b :: t => State.writeSlots (s.physWrite (q.slotAddr i) b) q (i + 1) t

/-- The IDLE item's slot (R328). -/
def idleItem (last : Nat) : List Byte := leBytes 2 0 ++ leBytes 1 1 ++ leBytes 1 0 ++ leBytes 4 last ++ zeros 56

/-- The bytes of a reply item behind its head word (R358). -/
def replyBody (slots : Nat) (status : Status) (tag : W64) (time : Nat) (results : List Byte) : List Byte :=
  padTo (64 * slots - 8) ((leBytes 2 status.code ++ zeros 6 ++ leBytes 8 tag.toNat ++ leBytes 8 time
    ++ results).take (64 * slots - 8))

/-- The head word of a reply item (R328). -/
def headWord (op slots seq : Nat) : List Byte := leBytes 2 op ++ leBytes 1 slots ++ leBytes 1 0 ++ leBytes 4 seq

/-- Remove a packet from those accepted and not retired. -/
def State.unaccept (s : State) (h : PktHead) : State :=
  { s with accepted := s.accepted.filter fun a => !(a.head.queue == h.queue && a.head.seq == h.seq) }

/-- When a packet was accepted. -/
def State.acceptedAt (s : State) (h : PktHead) : Nat :=
  ((s.accepted.find? fun a => a.head.queue == h.queue && a.head.seq == h.seq).map Accepted.since).getD s.refCount

/-- REPLY_WRITE (R329): the new IDLE item, the item's bytes, its head word; the packet retires, a cause if it asked for one
(R389), trace point 1 (R466). A ring in the host window waits for a lost link (R380); a queue that is gone
gets no reply (R334), nor does any packet in a halt (R415). -/
def State.replyWrite (s : State) (h : PktHead) (op slots : Nat) (status : Status) (results : List Byte) : State :=
  match kvGet h.queue s.queues with
  | none => s.unaccept h
  | some q =>
    if s.halted then s
    else if s.region q.rqBase = .host && s.linkLost then
      { s with held := s.held ++ [{ head := h, opcode := op, since := s.acceptedAt h, slots := slots, status := status,
                                    results := results }] }
    else
      let q1 := q.retire h.seq
      let time := s.refCount - s.acceptedAt h
      let body := replyBody slots status h.tag time results
      let s := s.physWrite (q.slotAddr (q.idle + slots)) (idleItem q1.lastRetired)
      let s := s.physWrite (q.slotAddr q.idle + 8) (body.take 56)
      let s := s.writeSlots q (q.idle + 1) (chunks 64 slots (body.drop 56))
      let s := s.physWrite (q.slotAddr q.idle) (headWord op slots h.seq)
      let s := { s with queues := kvSet h.queue { q1 with idle := (q.idle + slots) % q.rqSlots } s.queues }
      let s := s.unaccept h
      let s := s.trace 1 h.queue (leBytes 4 h.seq ++ leBytes 2 status.code)
      if h.notify then s.ntCause h.queue else s

/-- Reply slots reserved for a packet (R356). -/
def pktRoom (h : PktHead) : Nat := max 1 (min h.reply 8)

/-- Free slots between the newest item and RQ_HEAD, less those that packets in progress have reserved (R329, R356). -/
def State.freeSlots (s : State) (c : Nat) (q : QueueRec) : Nat :=
  q.rqSlots - (q.idle + q.rqSlots - q.rqHead) % q.rqSlots
    - ((s.accepted.filter fun a => a.head.queue == c).map fun a => pktRoom a.head).sum

/-- May a packet begin: the module runs, its queue exists, its reply room and the IDLE slot are free (R329), its fences are past
(R373)? -/
def State.mayBegin (s : State) (h : PktHead) : Bool :=
  match kvGet h.queue s.queues with
  | none => false
  | some q =>
    s.running && !s.calmNear && decide (pktRoom h + 1 ≤ s.freeSlots h.queue q)
      && s.accepted.all (fun a => !(a.head.queue == h.queue) || (!h.fence && !a.head.fence))
      && !(s.held.any fun r => r.head.queue == h.queue && (h.fence || r.head.fence))

/-- Refuse: a status, no results, no other effect. -/
def refuse (st : Status) (s : State) : Status × List Byte × State := (st, [], s)

/-- The first failing check of a list, in order. -/
def firstFail : List (Bool × Status) → Option Status
  | [] => none
  | (bad, st) :: t => if bad then some st else firstFail t

/-- Run a body behind checks made in order (R355). -/
def guarded (checks : List (Bool × Status)) (s : State) (body : State → Status × List Byte × State) :
    Status × List Byte × State :=
  match firstFail checks with
  | some st => refuse st s
  | none => body s

end Sys2Proof.Machine
end

