-- ==== Sys2Proof/Machine/Sched.lean ====
section
/-! DEFINITION. Partitions, placement and scheduling decisions, saving and restoring positions, lull counters, module halt
(14_contexts_and_preemption, 11_job_mapping, 18_error_detection). -/
namespace Sys2Proof.Machine

/-! ## Contexts -/

/-- Update a context that exists. -/
def State.ctxDo (s : State) (c : Nat) (f : Ctx → Ctx) : State :=
  match kvGet c s.ctxs with
  | none => s
  | some x => { s with ctxs := kvSet c (f x) s.ctxs }

/-- Errors detected at an island, whether recovered or not: `TM_DETECT` (R416, R419). -/
def State.detect (s : State) (unit n : Nat) : State := s.telAdd unit 7 n

/-- An error recovered in a context's step: `RC_RECOVERED`, which saturates (R302, R416). -/
def State.recovered (s : State) (c : Nat) : State :=
  s.ctxDo c fun x => { x with mark := { x.mark with recovered := min (x.mark.recovered + 1) (2 ^ 32 - 1) } }

/-- An error detected at a unit whose recovery repeats the work, with the counter it raises (R412). -/
def State.recompute (s : State) (c unit idx : Nat) : State := ((s.detect unit 1).telAdd unit idx 1).recovered c

/-- A hardware fault that could not be recovered met a context's step: what it causes is environmental (R296). -/
def State.unrecovered (s : State) (c : Nat) : State := s.ctxDo c fun x => { x with mark := { x.mark with envir := true } }

/-- A position of a context. -/
def State.pos? (s : State) (c p : Nat) : Option Position := (kvGet c s.ctxs).bind fun x => x.positions[p]?

/-- Update a position that exists. -/
def State.posDo (s : State) (c p : Nat) (f : Position → Position) : State :=
  s.ctxDo c fun x =>
    match x.positions[p]? with
    | none => x
    | some q => { x with positions := x.positions.set p (f q) }

/-- The key of a position's engine records. -/
def ckey (c p : Nat) : Nat := c * 1024 + p

/-- Does a position need a partition it does not have: saved, with no partition chosen? -/
def Position.isSaved (q : Position) : Bool :=
  match q.place with
  | .saved => true
  | .resident .. => false
  | .waiting .. => false
  | .restoring .. => false
  | .saving .. => false

/-- The partition a position occupies or has been given; `waiting` ones wait for it to become free. -/
def Position.taken? (q : Position) : Option (Nat × Nat) :=
  match q.place with
  | .saved => none
  | .waiting core part => some (core, part)
  | .restoring core part _ => some (core, part)
  | .resident core part _ => some (core, part)
  | .saving core part _ => some (core, part)

/-- Is a position still on its core: resident, or being saved, up to step 5 of R345? -/
def Position.onCore (q : Position) : Bool :=
  match q.place with
  | .resident .. | .saving .. => true
  | .saved | .waiting .. | .restoring .. => false

/-- Does the context count as saved for the engines of the hub die: is every position saved (R344), the last save complete (R345 step 5)? -/
def Ctx.countsSaved (x : Ctx) : Bool := x.positions.all fun q => !q.onCore

/-- States of R341. -/
inductive CtxState where
  | idle | runnable | suspended
  deriving DecidableEq, Repr

/-- IDLE, RUNNABLE or SUSPENDED (R341). -/
def State.ctxState (s : State) (c : Nat) : CtxState :=
  match kvGet c s.ctxs with
  | none => .idle
  | some x =>
    if x.suspended then .suspended
    else if x.run.isSome || x.admitting.isSome || s.accepted.any (fun a => a.head.queue == c) then .runnable
    else .idle

/-! ## Partitions (R64, R337) -/

/-- Partition sizes in quarters of a core. -/
def partQuarters : Nat → Nat
  | 0 => 4
  | 1 => 2
  | _ => 1

/-- Partitions of a size on one core. -/
def partCount (part : Nat) : Nat := 4 / partQuarters part

/-- Do two partitions of one core overlap (R337)? -/
def overlaps (p i q j : Nat) : Bool :=
  decide (i * partQuarters p < (j + 1) * partQuarters q) && decide (j * partQuarters q < (i + 1) * partQuarters p)

/-- Bytes of a save image (R339). -/
def imageBytes (part : Nat) : Nat := partSp part + partEnt part * 4 + partEnt part / 2 + 16384

/-- An occupied or promised partition. -/
structure Occ where
  core : Nat
  part : Nat
  idx : Nat
  ctx : Nat
  pos : Nat
  q : Position
  deriving DecidableEq, Repr

/-- Positions of a list with their numbers. -/
def enumFrom {α : Type} : Nat → List α → List (Nat × α)
  | _, [] => []
  | n, a :: t => (n, a) :: enumFrom (n + 1) t

/-- Every partition that some position holds or has been promised. -/
def State.occs (s : State) : List Occ :=
  s.ctxs.flatMap fun cx => (enumFrom 0 cx.2.positions).filterMap fun pq =>
    pq.2.taken?.map fun t => ⟨t.1, cx.2.part, t.2, cx.1, pq.1, pq.2⟩

/-- The direction of a core's NoC channels (R18). -/
def State.nocDir (s : State) (core : Nat) : NocDir := kvGetD core s.noc .normal

/-- May a core's positions load from outside it and store to it (R18): while both channels carry a save's image, nothing comes in, and while they carry
a restore's, nothing goes out? -/
def State.mayLoad (s : State) (core : Nat) : Bool := decide (s.nocDir core ≠ .outbound)
def State.mayStore (s : State) (core : Nat) : Bool := decide (s.nocDir core ≠ .inbound)

/-- Has a core drained, so that its channels may turn: no SFU request that any position of it was granted is still running (R18, R104, R346)? -/
def State.drained (s : State) (core : Nat) : Bool := (kvGetD core s.sfu { ptr := 0, reqs := [], granted := [] }).granted.isEmpty

/-- Turn a core's channels. -/
def State.turn (s : State) (core : Nat) (d : NocDir) : State := { s with noc := if d = .normal then kvDel core s.noc else kvSet core d s.noc }

/-- Turn a core's channels to what its positions need (R18, R345, R348): outbound while an image leaves, inbound while one comes in. -/
def State.turnBack (s : State) (core : Nat) : State :=
  let on := s.occs.filter fun o => o.core == core
  s.turn core (if on.any fun o => (match o.q.place with | .saving _ _ ph => ph == 2 | _ => false) then .outbound
    else if on.any fun o => (match o.q.place with | .restoring _ _ b => b | _ => false) then .inbound else .normal)

/-- Those that overlap a partition. -/
def overlapping (os : List Occ) (core part idx : Nat) : List Occ :=
  os.filter fun o => o.core == core && overlaps o.part o.idx part idx

/-- Effective class of a position (R352). -/
def posClass (x : Ctx) (q : Position) : Nat := q.boost.getD x.cls

/-- The cores of a placement in the order of R285: ranked preferred dies, then the others when not exact. -/
def coreOrder (dieRank : List Nat) (dies : Nat) (exact : Bool) : List Nat :=
  let all := dies = 0
  let pref := dieRank.filter fun d => all || bitOf dies d
  let rest := if exact then [] else [0, 1, 2, 3].filter fun d => !pref.contains d
  (pref ++ rest).flatMap fun d => (List.range 48).map (· + 48 * d)

/-- The core order of an admitted plan. -/
def Ctx.order (x : Ctx) : List Nat :=
  match x.plan with
  | none => []
  | some p => coreOrder p.dieRank p.dies p.exact

/-- Cores on which a context already holds or has been promised a partition. -/
def Ctx.cores (x : Ctx) : List Nat := x.positions.filterMap fun q => q.taken?.map Prod.fst

/-- The first free partition for a context: cores in order, lowest index (R285, R337). -/
def freePart (os : List Occ) (x : Ctx) : Option (Nat × Nat) :=
  (x.order.filter fun k => !x.cores.contains k).findSome? fun k =>
    ((List.range (partCount x.part)).find? fun i => (overlapping os k x.part i).isEmpty).map fun i => (k, i)

/-- May a resident position be a victim for class `w` (R342): idle context, or a lower class? -/
def State.victimOk (s : State) (w : Nat) (c : Nat) (o : Occ) : Bool :=
  o.q.resident?.isSome && !(o.ctx == c) &&
    match kvGet o.ctx s.ctxs with
    | none => false
    | some y => s.ctxState o.ctx = .idle || decide (posClass y o.q < w)

/-- A victim's rank, smaller first (R342). -/
def State.victimKey (s : State) (o : Occ) : List Nat :=
  match kvGet o.ctx s.ctxs with
  | none => []
  | some y =>
    [if s.ctxState o.ctx = .idle then 0 else 1, if s.ctxState o.ctx = .idle then 0 else posClass y o.q, 1024 - o.ctx, 1024 - o.pos]

/-- Insert by key. -/
def insKey {α : Type} (key : α → List Nat) (a : α) : List α → List α
  | [] => [a]
  | b :: t => if key a < key b then a :: b :: t else b :: insKey key a t

/-- Sort by key, equal keys in their order. -/
def sortKey {α : Type} (key : α → List Nat) (l : List α) : List α := l.foldl (fun r a => insKey key a r) []

/-- The partition to take by victims: that of the first victim in order whose overlapping occupants may all be victims. -/
def takePart (os : List Occ) (x : Ctx) (ok : Occ → Bool) (key : Occ → List Nat) : Option (Nat × Nat × List Occ) :=
  (sortKey key (os.filter ok)).findSome? fun v =>
    if !x.order.contains v.core || x.cores.contains v.core then none
    else
      (List.range (partCount x.part)).findSome? fun i =>
        let ov := overlapping os v.core x.part i
        if overlaps v.part v.idx x.part i && ov.all ok then some (v.core, i, ov) else none

/-- Order the save of a position (R345): at once if resident, after the restore if one is in progress (R350). -/
def State.orderSave (s : State) (c p : Nat) : State :=
  s.posDo c p fun q =>
    match q.place with
    | .resident core part _ => { q with place := .saving core part 0 }
    | .restoring core part o => { q with place := .restoring core part o, saveDue := true }
    | .waiting .. => { q with place := .saved, quantum := none }
    | .saved => q
    | .saving .. => { q with restoreDue := false }

/-- Give a position a free partition: resident at once with nothing to restore, otherwise its restore begins. -/
def State.give (s : State) (c p core part : Nat) : State :=
  s.posDo c p fun q =>
    { q with place := if q.image then .restoring core part false else .resident core part s.refCount, quantum := none }

/-- Place one saved position (R342): a free partition, else victims; none when it must wait. Answers the victims taken. -/
def State.place1 (s : State) (c p w : Nat) (ok : Occ → Bool) (key : Occ → List Nat) : State × Nat × Bool :=
  match kvGet c s.ctxs with
  | none => (s, 0, false)
  | some x =>
    let os := s.occs
    match freePart os x with
    | some kp => (s.give c p kp.1 kp.2, 0, true)
    | none =>
      match takePart os x (fun o => s.victimOk w c o || ok o) key with
      | some t =>
        let s := t.2.2.foldl (fun s o => s.orderSave o.ctx o.pos) s
        (s.posDo c p fun q => { q with place := .waiting t.1 t.2.1, quantum := none }, t.2.2.length, true)
      | none => (s.posDo c p fun q => { q with quantum := some (q.quantum.getD s.refCount) }, 0, false)

/-- Place the saved positions of a runnable context in ascending order. The restore of one that is being saved waits for the save (R350). -/
def State.placeAll (s : State) (c : Nat) : List Nat → Nat × Nat → State × Nat × Nat
  | [], n => (s, n)
  | p :: t, n =>
    match s.pos? c p, kvGet c s.ctxs with
    | some q, some x =>
      if q.isSaved then
        let r := s.place1 c p (posClass x q) (fun _ => false) s.victimKey
        State.placeAll r.1 c t (n.1 + b2n r.2.2, n.2 + r.2.1)
      else
        let due := match q.place with | .saving .. => true | .saved | .waiting .. | .restoring .. | .resident .. => false
        State.placeAll (if due then s.posDo c p fun q => { q with restoreDue := true } else s) c t n
    | _, _ => State.placeAll s c t n

/-- Contexts in the order in which a decision serves them: descending class, ascending identifier (R341). -/
def State.served (s : State) : List Nat :=
  (sortKey (fun cx => [3 - (cx : Nat × Ctx).2.cls, cx.1]) s.ctxs).map Prod.fst

/-- SCHEDULING_DECISION (R341, R342) in which `n` positions have been placed with victims taken already; trace point 2; none at a calm point
(R439) or in a halt (R415). -/
def State.decideFrom (s : State) (n : Nat × Nat) : State :=
  if s.calm.isSome || s.halted then s
  else
  let r := s.served.foldl
    (fun (a : State × Nat × Nat) c =>
      if a.1.ctxState c = .runnable then
        a.1.placeAll c (List.range (((kvGet c a.1.ctxs).map fun x => x.positions.length).getD 0)) a.2
      else a) (s, n)
  r.1.trace 2 noCtx (leBytes 2 r.2.1 ++ leBytes 2 r.2.2)

/-- A decision at an event of R341. -/
def State.schedule (s : State) : State := s.decideFrom (0, 0)

/-- Give the positions that wait for a partition the ones that have become free (R345 step 5, R350). -/
def State.settle (s : State) : State :=
  if s.calm.isSome then s
  else
  s.occs.foldl
    (fun s o =>
      match o.q.place with
      | .waiting core part =>
        if (overlapping (s.occs.filter fun z => !(z.ctx == o.ctx && z.pos == o.pos)) core o.part part).isEmpty then
          s.give o.ctx o.pos core part
        else s
      | .saved => s
      | .restoring .. => s
      | .resident .. => s
      | .saving .. => s) s

/-! ## Save areas (R339, R340) -/

/-- The HBM save pool's share of a die: base and size (R172). -/
def State.poolShare (s : State) (die : Nat) : Nat × Nat :=
  let share := s.savePoolHbm / 4
  ((s.interFrames + (die + 1) * s.localFrames - share) * gib, share * gib)

/-- The LPDDR5X save pool (R340): pool number 4. -/
def State.poolLp (s : State) : Nat × Nat :=
  (lpBase + (s.ident.order.lpGiB - s.savePoolLp) * gib, s.savePoolLp * gib)

/-- First fit: the lowest address of a gap of `n` bytes between used areas. -/
def firstFit (base size n : Nat) (used : List (Nat × Nat)) : Option Nat :=
  let cands := base :: used.map fun u => u.1 + u.2
  let ok := cands.filter fun a => decide (base ≤ a ∧ a + n ≤ base + size) &&
    used.all fun u => decide (u.1 + u.2 ≤ a ∨ a + n ≤ u.1)
  ok.foldl (fun r a => match r with | none => some a | some b => some (min a b)) none

/-- One position's area from the first source that can hold it: the home die, the other dies, LPDDR5X (R340). -/
def State.reserveArea (s : State) (home n : Nat) : Option (Nat × Nat) :=
  let used (pool : Nat) := (s.saveUsed.filter fun u => u.1 == pool).map Prod.snd
  let dies := (home / 48) :: ([0, 1, 2, 3].filter fun d => d != home / 48)
  match dies.findSome? fun d => (firstFit (s.poolShare d).1 (s.poolShare d).2 n (used d)).map fun a => (d, a) with
  | some r => some r
  | none => (firstFit s.poolLp.1 s.poolLp.2 n (used 4)).map fun a => (4, a)

/-- A position at admission (R338, R339): saved with no image. -/
def newPosition (home area : Nat) (spilled : Bool) : Position :=
  { place := .saved, home := home, area := area, spilled := spilled, image := false, imgSeq := 0, quantum := none,
    byQuantum := false, saveDue := false, restoreDue := false, boost := none, lulls := List.replicate 12 0, rems := List.replicate 12 0, ovf := 0 }

/-- Reserve the areas of all positions, or none (R340). -/
def State.reserveAreas (s : State) (part : Nat) : List Nat → List Position → Option (List Position × State)
  | [], acc => some (acc, s)
  | h :: t, acc =>
    match s.reserveArea h (imageBytes part) with
    | none => none
    | some (pool, a) =>
      State.reserveAreas { s with saveUsed := s.saveUsed ++ [(pool, a, imageBytes part)] } part t
        (acc ++ [newPosition h a (pool == 4)])

/-- Cores of the initial placement (R285, R339): a partition counts as free unless a resident position of a context of the same or a
higher class that is not idle holds it. -/
def State.admitCores (s : State) (c : Nat) (x : Ctx) (order : List Nat) (n : Nat) : Option (List Nat) :=
  let os := s.occs.filter fun o => o.q.resident?.isSome && !(o.ctx == c) &&
    (match kvGet o.ctx s.ctxs with
     | none => false
     | some y => decide (x.cls ≤ y.cls) && !decide (s.ctxState o.ctx = .idle))
  let l := (order.filter fun k => (List.range (partCount x.part)).any fun i => (overlapping os k x.part i).isEmpty).take n
  if l.length = n then some l else none

/-! ## The image (R347, R348) -/

/-- The flags of 64 lanes of a register, two lanes a byte. -/
def packNib : List (BitVec 4) → List Byte
  | a :: b :: t => (b ++ a) :: packNib t
  | [a] => [a.setWidth 8]
  | [] => []

/-- The register file as bytes: register r at 288 r, 64 values, 32 bytes of flags; then the predicates (R347). -/
def VecRegs.bytes (v : VecRegs) : List Byte :=
  ((List.range 32).flatMap fun r =>
    let es := (List.range 64).map fun l => kvGetD (l * 32 + r) v.regs Entry.zero
    (es.flatMap fun e => leBytes 4 e.v.toNat) ++ packNib (es.map Entry.fl))
  ++ (List.range 8).flatMap fun i => leBytes 8 ((v.preds.getD i 0).toNat)

/-- The flag of lane `l` in a register's 32 flag bytes. -/
def nibAt (l : List Byte) (i : Nat) : BitVec 4 :=
  let b := l.getD (i / 2) 0#8
  if i % 2 = 0 then b.setWidth 4 else (b >>> 4).setWidth 4

/-- The register file that an image holds. The image has no place for the origin of a NaN, on which the captures of R59 depend and which
R6 keeps across a pre-emption: it stays in the state under the position's key, `old` (R91; log 16). -/
def vecOfBytes (old : VecRegs) (l : List Byte) : VecRegs :=
  { regs := (List.range 64).flatMap fun ln => (List.range 32).map fun r =>
      (ln * 32 + r, { v := BitVec.ofNat 32 (field l (288 * r + 4 * ln) 4), fl := nibAt (slice l (288 * r + 256) 32) ln,
                         nin := (kvGetD (ln * 32 + r) old.regs Entry.zero).nin }),
    preds := (List.range 8).map fun i => BitVec.ofNat 64 (field l (0x2400 + 8 * i) 8) }

/-- A record of `n` bytes from 4-byte numbers (R347; packing: log 16). -/
def recBytes (n : Nat) (v : List Nat) : List Byte := padTo n ((v.flatMap (leBytes 4)).take n)

/-- A number of such a record. -/
def recAt (l : List Byte) (o i : Nat) : Nat := field l (o + 4 * i) 4

/-- The operations of a context that are in progress, by index. -/
def State.inProgress (s : State) (c : Nat) : List (Nat × OpRun) :=
  match (kvGet c s.ctxs).bind Ctx.run with
  | some r => (enumFrom 0 r.ops).filter fun o => o.2.st = .begun
  | none => []

/-- The stream records of position 0 (R347): instruction, iteration and issue state of each stream of a VECTOR operation; in the first the withdrawn
wait of a SYNC operation, with its remaining timeout (log 16). -/
def streamRecords (sync : Nat → Bool) (ops : List (Nat × OpRun)) : List Byte :=
  let vs := ops.findSome? fun o => match o.2.prog with
    | .vec v => some (o.1, v.streams)
    | .none | .mat _ | .att _ | .exp _ | .upd _ | .wait _ | .signal .. => none
  let wait := ((ops.filter fun o => sync o.1).findSome? fun o => match o.2.prog with
    | .wait n => some [o.1 + 1, n]
    | .signal _ n => some [o.1 + 1, n]
    | .none | .mat _ | .att _ | .vec _ | .exp _ | .upd _ => none).getD [0, 0]
  (List.range 4).flatMap fun k =>
    let v := match vs with
      | some w => (match w.2[k]? with | some t => [1, w.1, t.word, t.iter, b2n t.waitSfu] | none => [0, 0, 0, 0, 0])
      | none => [0, 0, 0, 0, 0]
    recBytes 64 (v ++ (if k = 0 then wait else []))

/-- The work records (R347): the position's tile, its attention unit, the update units that it holds (log 16). -/
def workRecords (tile : Option TileWork) (att : Option AttWork) (held : List (Nat × Nat)) : List Byte :=
  let t := match tile with
    | some w => recBytes 64 ([1, w.op, (w.unit.map (· + 1)).getD 0, w.chunk, w.group, w.attempt, b2n w.poisoned, w.claimed.length] ++ w.claimed.take 8)
    | none => zeros 64
  let a := match att with
    | some w => recBytes 64 [2, w.op, w.unit, w.blk, w.qb, w.attempt, b2n w.loaded, b2n w.hit, b2n w.poisoned, b2n w.fin]
    | none => zeros 64
  padTo 512 ((t ++ a ++ held.flatMap fun h => recBytes 64 [3, h.1, h.2]).take 512)

/-- The status records (R60, R347): of each operation in progress its numeric counts and its count of empty rows, clamps or chunks (log 16). -/
def statusRecords (ops : List (Nat × OpRun)) : List Byte :=
  padTo 512 ((ops.flatMap fun o =>
    let k := match o.2.prog with
      | .att a => a.empty
      | .vec v => v.varClamp
      | .exp e => e.chunks.length
      | .none | .mat _ | .upd _ | .wait _ | .signal .. => 0
    padTo 64 (leBytes 4 o.1 ++ leBytes 4 k ++ leBytes 8 o.2.num.sat ++ leBytes 8 o.2.num.flush ++ leBytes 8 o.2.num.inv)).take 512)

/-- The tile-mover state and the SFU's records (R347): chunks staged, the next one and the group; which streams' and whose attention step's requests
are not granted (log 16). -/
def moverRecords (tile : Option TileWork) (att : Option AttWork) (ops : List (Nat × OpRun)) : List Byte :=
  (match tile with
   | some w => recBytes 1024 [w.staged.length, w.chunk, w.group]
   | none => zeros 1024)
  ++ recBytes 256 ([b2n (match att with | some w => w.sfu.isSome | none => false)] ++ ops.flatMap fun o => match o.2.prog with
      | .vec v => v.streams.map fun t => t.sfuDone.length
      | .none | .mat _ | .att _ | .exp _ | .upd _ | .wait _ | .signal .. => [])

/-- A position's records at 0x2440 to 0x2E3F of its architectural block (R347). -/
def State.archRecords (s : State) (c p : Nat) : List Byte :=
  let ops := s.inProgress c
  let held := ops.flatMap fun o => match o.2.prog with
    | .upd u => (match kvGet p u.held with | some k => [(o.1, k)] | none => [])
    | .none | .mat _ | .att _ | .vec _ | .exp _ | .wait _ | .signal .. => []
  let tile := kvGet (ckey c p) s.tiles
  let att := kvGet (ckey c p) s.att
  let sync (i : Nat) : Bool := ((((kvGet c s.ctxs).bind Ctx.plan).bind fun pl => pl.ops[i]?).map PlanOp.kind) == some 8
  (if p = 0 then streamRecords sync ops else zeros 256) ++ workRecords tile att held ++ statusRecords ops
    ++ moverRecords tile att (if p = 0 then ops else [])

/-- Resume from a position's records (R348 step 5): the streams of a VECTOR operation at their recorded instructions and iterations, the tile and the
attention unit at their recorded places. What the records of log 16 do not hold has stayed in the state. -/
def State.resume (s : State) (c p : Nat) (l : List Byte) : State :=
  let s := { s with
    tiles := kvMap (fun k w => if k = ckey c p ∧ recAt l 256 0 = 1 then
        { w with chunk := recAt l 256 3, group := recAt l 256 4, attempt := recAt l 256 5 } else w) s.tiles
    att := kvMap (fun k w => if k = ckey c p ∧ recAt l 320 0 = 2 then
        { w with blk := recAt l 320 3, qb := recAt l 320 4, attempt := recAt l 320 5 } else w) s.att }
  if p ≠ 0 then s
  else
    s.ctxDo c fun x => { x with run := x.run.map fun r => { r with ops := (enumFrom 0 r.ops).map fun o =>
      match o.2.prog with
      | .vec v =>
        if recAt l 0 0 = 1 ∧ recAt l 0 1 = o.1 then
          { o.2 with prog := .vec { v with streams := (enumFrom 0 v.streams).map fun t =>
              if t.1 < 4 then { t.2 with word := recAt l (64 * t.1) 2, iter := recAt l (64 * t.1) 3 } else t.2 } }
        else o.2
      | .wait _ | .signal .. | .none | .mat _ | .att _ | .exp _ | .upd _ => o.2 } }

/-- The 64-byte image header: context, position, partition size, class, sequence number (R347; packing: log 16; class: log 118). -/
def imageHeader (c p part cls seq : Nat) : List Byte :=
  padTo 64 (leBytes 2 c ++ leBytes 2 p ++ leBytes 4 part ++ leBytes 4 cls ++ zeros 4 ++ leBytes 8 seq)

/-- Offsets of an image's parts for a partition size. -/
def imgVals (part : Nat) : Nat := partSp part
def imgFlags (part : Nat) : Nat := partSp part + partEnt part * 4
def imgArch (part : Nat) : Nat := imgFlags part + partEnt part / 2

/-- Copy module memory byte for byte where it is listed: `n` bytes from `src` to `dst`, poison marks sector by sector (R187). -/
def State.moveMem (s : State) (src dst n : Nat) : State :=
  let inSrc := s.mem.filter fun c => decide (src ≤ c.1 ∧ c.1 < src + n)
  let cleared := s.mem.filter fun c => !decide (dst ≤ c.1 ∧ c.1 < dst + n)
  let m := inSrc.foldl (fun m c => cellSet m (c.1 - src + dst) c.2) cleared
  let marks := (s.poison.filter fun k => decide (src ≤ k * 64 ∧ k * 64 < src + n)).map fun k => (k * 64 - src + dst) / 64
  let rest := s.poison.filter fun k => !decide (dst ≤ k * 64 ∧ k * 64 < dst + n)
  let hw := (s.hwPoison.filter fun k => decide (src ≤ k * 64 ∧ k * 64 < src + n)).map fun k => (k * 64 - src + dst) / 64
  { s with mem := m, poison := marks.foldl (fun r k => insNat k r) rest,
           hwPoison := hw.foldl (fun r k => insNat k r) (s.hwPoison.filter fun k => !decide (dst ≤ k * 64 ∧ k * 64 < dst + n)) }

/-- Write a position's image to its save area (R345 step 3, R347). -/
def State.writeImage (s : State) (c p core idx : Nat) (x : Ctx) (q : Position) : State :=
  let part := x.part
  let a := q.area
  let s := s.moveMem (spAddr core part idx) a (partSp part)
  let s := s.moveMem (accAddr core part idx) (a + imgVals part) (partEnt part * 4)
  let s := s.moveMem (accFlagAddr core part idx) (a + imgFlags part) (partEnt part / 2)
  let regs := match kvGet (ckey c p) s.vec with
    | some v => v.bytes
    | none => zeros 0x2440
  let s := s.physWrite (a + imgArch part) regs
  let s := s.physWrite (a + imgArch part + 0x2440) (s.archRecords c p)
  let s := s.physWrite (a + imgArch part + 0x2E40) (zeros 4480)
  s.physWrite (a + imgArch part + 0x3FC0) (imageHeader c p part s.ident.cls (q.imgSeq + 1))

/-- Read a position's image back (R348 step 3). -/
def State.readImage (s : State) (c p core idx : Nat) (x : Ctx) (q : Position) : State :=
  let part := x.part
  let a := q.area
  let s := s.moveMem a (spAddr core part idx) (partSp part)
  let s := s.moveMem (a + imgVals part) (accAddr core part idx) (partEnt part * 4)
  let s := s.moveMem (a + imgFlags part) (accFlagAddr core part idx) (partEnt part / 2)
  let s := match kvGet (ckey c p) s.vec with
    | some v => { s with vec := kvSet (ckey c p) (vecOfBytes v (s.physRead (a + imgArch part) 0x2440)) s.vec }
    | none => s
  s.resume c p (s.physRead (a + imgArch part + 0x2440) 0xA00)

/-- Does an image's header name the context, the position and the class (R348)? -/
def State.headerOk (s : State) (c p part : Nat) (q : Position) : Bool :=
  let h := s.physRead (q.area + imgArch part + 0x3FC0) 64
  field h 0 2 == c && field h 2 2 == p && field h 8 4 == s.ident.cls

/-! ## Lull counters (R292 to R295) -/

/-- Add to a lull counter; it sticks and sets its overflow bit (R294). -/
def Position.lullAdd (q : Position) (i n : Nat) : Position :=
  let v := nth q.lulls i + n
  if v < 2 ^ 64 - 1 then { q with lulls := q.lulls.set i v }
  else { q with lulls := q.lulls.set i (2 ^ 64 - 1), ovf := q.ovf ||| BitVec.ofNat 12 (2 ^ i) }

/-- Add a share of a tick in 65,536ths, carried in the counter's remainder (R292). -/
def Position.lullShare (q : Position) (i share : Nat) : Position :=
  let r := nth q.rems i + share
  ({ q with rems := q.rems.set i (r % 65536) } : Position).lullAdd i (r / 65536)

/-- The clock step of a core island: the common step, or its thermal step below it (R453, R456). -/
def State.coreStep (s : State) (core : Nat) : Nat := min s.power.step (kvGetD core s.power.thermSteps 125)

/-- The 104-byte record of a position's counters (R295). -/
def lullRecord (lulls : List Nat) (ovf : Nat) : List Byte := ((List.range 12).flatMap fun i => leBytes 8 (nth lulls i)) ++ leBytes 8 ovf

/-- A context's counters summed over its positions (R295). -/
def Ctx.lullSum (x : Ctx) : List Byte :=
  lullRecord ((List.range 12).map fun i => min ((x.positions.map fun q => nth q.lulls i).sum) (2 ^ 64 - 1))
    (x.positions.foldl (fun m q => m ||| q.ovf.toNat) 0)

/-! ## Commands at their commit point -/

/-- The packet is accepted (R327, R374): trace point 0, and a decision (R341). -/
def State.accept (s : State) (h : PktHead) (op : Nat) : State :=
  (({ s with accepted := s.accepted ++ [{ head := h, opcode := op, since := s.refCount }] } : State).trace 0 h.queue
    (leBytes 4 h.seq ++ leBytes 2 op)).schedule

/-- A decision where the queue's admitted context has become idle with a packet's retirement (R341). -/
def State.retired (s : State) (c : Nat) : State :=
  match kvGet c s.ctxs with
  | none => s
  | some x => if x.plan.isSome && s.ctxState c = .idle then s.schedule else s

/-! ## Module halt (R415) -/

/-- MODULE_HALT: no further work, unsaved state and unwritten replies lost, the event posted. -/
def State.halt (s : State) (cause : Nat) : State :=
  if s.halted then s
  else
    let s := s.post 0x0702 noCtx (leBytes 1 cause)
    { s with halted := true, accepted := [], held := [], tiles := [], att := [], vec := [], sfu := [], noc := [],
             ctxs := s.ctxs.map fun cx => (cx.1, { cx.2 with run := none, admitting := none }) }

/-- The cause of the halt that a failed CP check leads to (R415, R417). -/
def CpCheck.cause : Sys2Proof.CpCheck → Option Nat
  | .pass => none
  | .memory => some 1
  | .packet => some 2

/-- Count the failed tries of a message at one receiver (R414, R420). -/
def State.msgTries (s : State) (unit idx n : Nat) : State := if n = 0 then s else (s.detect unit n).telAdd unit idx n

/-- A message of the management network to or from a die's controller (R414): its failed tries raise MN_RETRY where they fail, and eight at one
receiver put the module into halt (R415). -/
def State.mgmt (s : State) (unit : Nat) (m : MsgTries) (f : State → State) : State :=
  let s := ((s.msgTries unit 10 m.die).msgTries 0x0140 8 m.hub).msgTries 0x0142 10 m.cp
  if m.die ≥ 8 ∨ m.hub ≥ 8 ∨ m.cp ≥ 8 then s.halt 0 else f s

/-- A command at its commit point (R374): withheld while it may not begin (log 15), a halt where the CP's memory or the accepted packet fails its
check (R415), refused where its reply needs more slots
than declared (R356), otherwise accepted and run. -/
def State.commit (s : State) (h : PktHead) (op slots : Nat) (body : State → State) : State :=
  if !s.mayBegin h then s
  else if let some cause := CpCheck.cause h.cp then s.halt cause
  else if slots > pktRoom h then ((s.accept h op).replyWrite h op (pktRoom h) .replyRoom []).retired h.queue
  else (body (s.accept h op)).retired h.queue

/-- A command that reads through a die's management port (R14, R424): its message first (R414). -/
def State.mgmtCommand (s : State) (h : PktHead) (op slots unit : Nat) (body : State → Status × List Byte × State) :
    Host.Outcome State Fault Refusal :=
  .next (s.commit h op slots fun t => t.mgmt unit h.msg fun t =>
    let r := body t
    r.2.2.replyWrite h op slots r.1 r.2.1)

/-- A command that ends at its commit point: its outcome is a status, its results and the state behind them. -/
def State.command (s : State) (h : PktHead) (op slots : Nat) (body : State → Status × List Byte × State) :
    Host.Outcome State Fault Refusal :=
  .next (s.commit h op slots fun t =>
    let r := body t
    r.2.2.replyWrite h op slots r.1 r.2.1)

end Sys2Proof.Machine
end

