-- ==== Sys2Proof/Machine/Operands.lean ====
section
/-! DEFINITION. Operand forms: tensor elements by descriptor (R362, R470), scales (R38), 2:4 runs (R84), occupancy-mapped tensors
(R206 to R209), and the byte ranges an operation declares (R367). -/
namespace Sys2Proof.Machine

/-- Why a unit of work ends its operation: a faulting access (R181) or an invalid OMT block (R209). -/
inductive OpErr where
  | fault (f : MFault)
  | omt (row col : Nat)
  deriving DecidableEq, Repr

/-- A read: a value with the first poisoned physical address met (R187), or the error that ends the operation. -/
abbrev Rd (α : Type) := Except OpErr (α × Option Nat)

/-- The first of two poison addresses in order of reading. -/
def pFirst (a b : Option Nat) : Option Nat := if a.isSome then a else b

/-- Read bytes of a context's virtual range. -/
def State.rdBytes (s : State) (c va n : Nat) : Rd (List Byte) :=
  match s.vread c va n with
  | .ok r => .ok r
  | .error f => .error (.fault f)

/-- Read a little-endian number. -/
def State.rdNat (s : State) (c va n : Nat) : Rd Nat :=
  match s.rdBytes c va n with
  | .ok r => .ok (leNat r.1, r.2)
  | .error e => .error e

/-! ## Shapes -/

/-- The extents that the rank gives. -/
def TDesc.shape (d : TDesc) : List Nat := d.dims.take d.rank

/-- Extent of dimension `i`. -/
def TDesc.dim (d : TDesc) (i : Nat) : Nat := (d.dims[i]?).getD 1

/-- Number of elements. -/
def TDesc.elems (d : TDesc) : Nat := d.shape.foldl (· * ·) 1

/-- Last extent. -/
def TDesc.lastDim (d : TDesc) : Nat := d.dim (d.rank - 1)

/-- The format. -/
def TDesc.format (d : TDesc) : Fmt := fmtOf d.fmt

/-- Indices of a row-major logical element. -/
def unflatten : List Nat → Nat → List Nat
  | [], _ => []
  | _ :: t, e =>
    let k := t.foldl (· * ·) 1
    e / k :: unflatten t (e % k)

/-- Byte offset of indices: strides for all but the last, which is contiguous (R362). -/
def dot : List Nat → List Nat → Nat → Nat
  | [], _, _ => 0
  | [i], _, sz => i * sz
  | i :: is, s :: ss, sz => i * s + dot is ss sz
  | _ :: is, [], sz => dot is [] sz

/-- Address of an element. -/
def TDesc.at (d : TDesc) (idx : List Nat) : Nat := d.addr + dot idx d.strides d.format.size

/-- Address of a row-major logical element. -/
def TDesc.atFlat (d : TDesc) (e : Nat) : Nat := d.at (unflatten d.shape e)

/-! ## Scales (R38) -/

/-- Bytes of one scale. -/
def TDesc.scaleSize (d : TDesc) : Nat := if d.scaleKind % 2 = 1 then 4 else 2

/-- Index of an element's scale: per tensor, per row over every dimension but the last, per column. -/
def TDesc.scaleIdx (d : TDesc) (row col : Nat) : Nat :=
  if d.scaleKind = 3 ∨ d.scaleKind = 4 then row else if d.scaleKind = 5 ∨ d.scaleKind = 6 then col else 0

/-- Has the descriptor a scale? -/
def TDesc.scaled (d : TDesc) : Bool := decide (1 ≤ d.scaleKind ∧ d.scaleKind ≤ 6)

/-- The exact value of a scale's bytes (a BF16 one widened exactly). A subnormal scale is used as it stands in flush mode too: R36 speaks of
operands and R38 of zero, infinity and NaN scales only (log 116). -/
def scaleFv (kind n : Nat) : FV := if kind % 2 = 1 then fvOf ffFp32 n else fvOf ffBf16 n

/-- The scale of an element by row and column; with a scale history `SH_SCALE` (R280), 1
where the tensor has none. -/
def State.rdScale (s : State) (c : Nat) (d : TDesc) (row col : Nat) : Rd FV :=
  if d.shist != 0 then
    match s.rdNat c (d.shist + 68) 4 with
    | .ok r => .ok (fvOf ffFp32 r.1, r.2)
    | .error e => .error e
  else if d.scaled then
    match s.rdNat c (d.scale + d.scaleIdx row col * d.scaleSize) d.scaleSize with
    | .ok r => .ok (scaleFv d.scaleKind r.1, r.2)
    | .error e => .error e
  else .ok (.fin false 1 0, none)

/-! ## Scale history (R280 to R282) -/

/-- The largest finite value F of an FP8 format as 7 x 2^k. -/
def shTop (fmt : Nat) : Int := if fmt = 2 then 6 else 13

/-- The scale for a maximum H and headroom: 1 for +0 and specials, else 2^e with the least e in range that holds F x 2^e ≥ H x 2^μ. -/
def shScaleFor (fmt : Nat) (h : W32) (margin : Nat) : W32 :=
  match fv32 h with
  | .fin _ m e =>
    if m = 0 then 0x3F800000#32
    else
      let ok (i : Nat) : Bool := fvCmp (.fin false 7 (shTop fmt + (i : Int) - 126)) (.fin false m (e + margin)) != some .lt
      w32 (fvPow2E (((List.range 254).find? ok).getD 253))
  | _ => 0x3F800000#32
where
  /-- 2^(i - 126). -/
  fvPow2E (i : Nat) : FV := .fin false 1 ((i : Int) - 126)

/-- The valid entries of a record: the `SH_VALID` before `SH_NEXT`. -/
def shEntries (r : List Byte) : List W32 :=
  (List.range (min (field r 64 1) 16)).map fun k => BitVec.ofNat 32 (field r (4 * ((field r 65 1 + 31 - k) % 16)) 4)

/-- The scale that the history alone gives; none where the source must be measured (R281). -/
def shHistory (fmt : Nat) (r : List Byte) : Option W32 :=
  if field r 66 1 = 0 ∧ field r 64 1 ≠ 0 then some (shScaleFor fmt ((shEntries r).foldl max32 0#32) (field r 67 1)) else none

/-- The record after a write whose source had this amax (R282). -/
def shRecorded (r : List Byte) (a : W32) : List Byte :=
  let n := field r 65 1 % 16
  let r := r.take 72 ++ leBytes 4 a.toNat ++ r.drop 76
  if (fv32 a).isFin then
    let r := r.take (4 * n) ++ leBytes 4 a.toNat ++ r.drop (4 * n + 4)
    r.take 64 ++ leBytes 1 (min 16 (field r 64 1 + 1)) ++ leBytes 1 ((n + 1) % 16) ++ r.drop 66
  else r

/-- The magnitude of a pattern. -/
def abs32 (w : W32) : W32 := if isNan32 w then nan32 else w &&& 0x7FFFFFFF#32

/-! ## Occupancy maps (R206 to R209) -/

/-- Blocks across a tensor. -/
def TDesc.omtCols (d : TDesc) : Nat := ceilDiv (d.dim 1) 32
def TDesc.omtRows (d : TDesc) : Nat := ceilDiv (d.dim 0) 32

/-- Set bits below bit `k` of a map. -/
def popBelow (m : Nat) : Nat → Nat
  | 0 => 0
  | k + 1 => popBelow m k + b2n (bitOf m k)

/-- The sub-blocks of a block that hold an element of the shape: a reader ignores the map bits of the others (R208). -/
def TDesc.omtLive (d : TDesc) (br bc : Nat) : Nat :=
  ((List.range 16).map fun k => if 32 * br + 8 * (k / 4) < d.dim 0 ∧ 32 * bc + 8 * (k % 4) < d.dim 1 then 2 ^ k else 0).sum

/-- The map as a reader takes it and the offset of a block, checked (R208, R209; that the check counts the same bits: log 20). -/
def State.omtBlock (s : State) (c : Nat) (d : TDesc) (br bc : Nat) : Rd (Nat × Nat) :=
  let b := br * d.omtCols + bc
  match s.rdNat c (d.omtMap + 2 * b) 2, s.rdNat c (d.omtOfs + 4 * b) 4 with
  | .ok m, .ok o =>
    let live := m.1 &&& d.omtLive br bc
    if o.1 + popBelow live 16 > d.omtCap then .error (.omt br bc) else .ok ((live, o.1), pFirst m.2 o.2)
  | .error e, _ => .error e
  | .ok _, .error e => .error e

/-- The stored bits of an OMT element; an empty sub-block reads +0 (R206, R207). -/
def State.omtElem (s : State) (c : Nat) (d : TDesc) (i j : Nat) : Rd Nat :=
  match s.omtBlock c d (i / 32) (j / 32) with
  | .error e => .error e
  | .ok ((m, o), p) =>
    let bit := 4 * (i % 32 / 8) + j % 32 / 8
    if bitOf m bit then
      let sz := d.format.size
      match s.rdNat c (d.omtData + (o + popBelow m bit) * 64 * sz + (i % 8 * 8 + j % 8) * sz) sz with
      | .ok r => .ok (r.1, pFirst p r.2)
      | .error e => .error e
    else .ok (0, p)

/-! ## 2:4 runs (R84) -/

/-- Where a 2:4 operand's position byte of a run and its value `v` of that run stand, for a row of A or a column of B: both planes are
row-major over the descriptor's dimensions with K halved or quartered, the value plane with the stride of dimension 0, the position plane
packed (R362; log 20). -/
def TDesc.runAt (d : TDesc) (isA : Bool) (line run : Nat) : Nat × (Nat → Nat) :=
  let sz := d.format.size
  if isA then (d.omtMap + line * ceilDiv (d.dim 1) 4 + run, fun v => d.addr + line * nth d.strides 0 + (2 * run + v) * sz)
  else (d.omtMap + run * d.dim 1 + line, fun v => d.addr + (2 * run + v) * nth d.strides 0 + line * sz)

/-- The stored bits of K index `k` on a line of a 2:4 operand: a later equal position stands (R84). -/
def State.sparseElem (s : State) (c : Nat) (d : TDesc) (isA : Bool) (line k : Nat) : Rd Nat :=
  let at_ := d.runAt isA line (k / 4)
  match s.rdNat c at_.1 1 with
  | .error e => .error e
  | .ok (b, p) =>
    let p0 := b % 4
    let p1 := b / 4 % 4
    let slot := if p1 = k % 4 then some 1 else if p0 = k % 4 then some 0 else none
    match slot with
    | none => .ok (0, p)
    | some v =>
      match s.rdNat c (at_.2 v) d.format.size with
      | .ok x => .ok (x.1, pFirst p x.2)
      | .error e => .error e

/-! ## Elements -/

/-- The stored bits of a dense or OMT element of a rank 2 tensor. -/
def State.rdElem2 (s : State) (c : Nat) (d : TDesc) (i j : Nat) : Rd Nat :=
  if d.layout = 1 then s.omtElem c d i j else s.rdNat c (d.at [i, j]) d.format.size

/-- The stored bits of a dense element by indices. -/
def State.rdElem (s : State) (c : Nat) (d : TDesc) (idx : List Nat) : Rd Nat := s.rdNat c (d.at idx) d.format.size

/-- Write the stored bits of a dense element by indices. -/
def State.wrElem (s : State) (c : Nat) (d : TDesc) (idx : List Nat) (n : Nat) : Except OpErr State :=
  match s.vwrite c (d.at idx) (leBytes d.format.size n) with
  | .ok t => .ok t
  | .error f => .error (.fault f)

/-- Write bytes of a context, with the operation's error type. -/
def State.wrBytes (s : State) (c va : Nat) (l : List Byte) : Except OpErr State :=
  match s.vwrite c va l with
  | .ok t => .ok t
  | .error f => .error (.fault f)

/-- Run a list of reads in order, stopping at the first error. -/
def rdAll {α β : Type} (f : α → Rd β) : List α → Rd (List β)
  | [] => .ok ([], none)
  | a :: t =>
    match f a with
    | .error e => .error e
    | .ok (x, p) =>
      match rdAll f t with
      | .error e => .error e
      | .ok (xs, q) => .ok (x :: xs, pFirst p q)

/-- Run writes in order, stopping at the first error. -/
def wrAll {α : Type} (f : State → α → Except OpErr State) : State → List α → Except OpErr State
  | s, [] => .ok s
  | s, a :: t =>
    match f s a with
    | .error e => .error e
    | .ok s => wrAll f s t

/-! ## Declared ranges (R367) -/

/-- Bytes a dense tensor spans, from its first to its last element. -/
def TDesc.span (d : TDesc) : Nat :=
  let n := d.rank
  ((List.range (n - 1)).map fun i => (d.dim i - 1) * nth d.strides i).sum + d.lastDim * d.format.size

/-- The planes of a 2:4 operand whose K is its last dimension (A) or its first (B): values and positions (R84, R362). -/
def TDesc.runPlanes (d : TDesc) (isA : Bool) : List (Nat × Nat) :=
  let sz := d.format.size
  if isA then [(d.addr, (d.dim 0 - 1) * nth d.strides 0 + 2 * ceilDiv (d.dim 1) 4 * sz), (d.omtMap, d.dim 0 * ceilDiv (d.dim 1) 4)]
  else [(d.addr, (2 * ceilDiv (d.dim 0) 4 - 1) * nth d.strides 0 + d.dim 1 * sz), (d.omtMap, ceilDiv (d.dim 0) 4 * d.dim 1)]

/-- The virtual ranges of a tensor: its values, or the planes of OMT and 2:4 (`isA`: K is the last dimension), and its scales. -/
def TDesc.rangesAs (d : TDesc) (isA : Bool) : List (Nat × Nat) :=
  let blocks := d.omtRows * d.omtCols
  let body :=
    if d.layout = 1 then [(d.omtMap, 2 * blocks), (d.omtOfs, 4 * blocks), (d.omtData, 64 * d.format.size * d.omtCap)]
    else if d.layout = 2 then d.runPlanes isA
    else [(d.addr, d.span)]
  let n := if d.scaleKind ≤ 2 then 1 else if d.scaleKind ≤ 4 then d.elems / d.lastDim else d.lastDim
  body ++ (if d.scaled then [(d.scale, n * d.scaleSize)] else []) ++ (if d.shist != 0 then [(d.shist, 128)] else [])

/-- The ranges of a tensor that is no B operand. -/
def TDesc.ranges (d : TDesc) : List (Nat × Nat) := d.rangesAs true

/-- Do two ranges share a byte? -/
def meet (a b : Nat × Nat) : Bool := decide (a.1 < b.1 + b.2) && decide (b.1 < a.1 + a.2)

/-- Do two lists of ranges share a byte? -/
def meetAny (a b : List (Nat × Nat)) : Bool := a.any fun x => b.any (meet x)

end Sys2Proof.Machine
end

