-- ==== Sys2Proof/Machine/Runs.lean ====
section
/-! DEFINITION. Runs of an admitted plan (15_command_protocol R365 to R368): when an operation may begin, its record, stops. -/
namespace Sys2Proof.Machine

/-! ## What an operation reaches (R367) -/

/-- A named tensor descriptor of the plan. -/
def Plan.ten (p : Plan) (ofs : Nat) : Option TDesc := if ofs = 0 then none else kvGet ofs p.tensors

/-- Ranges of the tensors with these offsets. -/
def Plan.rangesOf (p : Plan) (l : List Nat) : List (Nat × Nat) :=
  l.flatMap fun o => match p.ten o with | some d => d.ranges | none => []

/-- A tensor's descriptor by its index in the descriptor table (R96); the table's offsets rise. -/
def Plan.tenIdx (p : Plan) (i : Nat) : Option TDesc := (p.tensors[i]?).map Prod.snd

/-- Fields of a vector instruction word (R95). -/
def wordOp (w : W64) : Nat := bits w.toNat 0 8
def wordStream (w : W64) : Nat := bits w.toNat 8 2
def wordSpace (w : W64) : Nat := bits w.toNat 38 1
def wordImm (w : W64) : Nat := bits w.toNat 39 25

/-- Descriptor offsets of the tensors that a VECTOR operation stores to (`store`) or loads from. -/
def vecTensors (p : Plan) (f : VecF) (store : Bool) : List Nat :=
  f.words.filterMap fun w =>
    if (wordOp w = (if store then 0x29 else 0x28)) ∧ wordSpace w = 1 then (p.tensors[wordImm w % 2 ^ 20]?).map Prod.fst else none

/-- The window ring's header (R139); its planes are known only once it is read. -/
def ringRange (va : Nat) : List (Nat × Nat) := if va = 0 then [] else [(va, 64)]

/-- Buckets of the reduction that an update names (R260). -/
def Plan.buckets (p : Plan) (i : Nat) : Nat :=
  match p.ops[i]? with
  | some (.tradeReduce _ n _) => n
  | _ => 0

/-- Descriptor offsets of the tensors an operation reads, but the B operand of a MATMUL, which its groups reach (R219). -/
def opInputs (p : Plan) : PlanOp → List Nat
  | .matmul f => [f.aDesc, f.grpCntDesc] ++ (if f.cInit = 1 then [f.cDesc] else [])
  | .attention f => [f.qDesc, f.kDesc, f.vDesc, f.doDesc, f.docDesc, f.treeDesc, f.pathDesc] ++ (if f.op = 1 then [f.oDesc, f.lseDesc] else [])
  | .expert f => [f.scoreDesc, f.predDesc, f.emaskDesc]
      ++ (if f.op = 0 then [] else [f.recDesc, f.selDesc, f.cntDesc, f.xDesc, f.wDesc, f.retDesc])
      ++ (if f.op = 2 then [f.yDesc, f.yovfDesc] else [])
  | .omtPack a _ _ => [a]
  | .omtUnpack a _ _ => [a]
  | .vector f => vecTensors p f false
  | .stage f => if f.op = 0 then [f.srcDesc] else []
  | .transfer .. | .sync _ | .tradeReduce .. | .tradeGather .. | .optUpdate _ | .stepMark .. | .lullSnap _ | .traceMark .. => []

/-- Descriptor offsets of the tensors an operation writes. -/
def opOutputs (p : Plan) : PlanOp → List Nat
  | .matmul f => [f.outDesc, f.rowstatDesc, f.tstatDesc]
  | .attention f => (if f.op = 1 then [] else [f.oDesc, f.lseDesc]) ++ [f.dqDesc, f.dkDesc, f.dvDesc, f.dqpDesc]
  | .expert f => if f.op = 0 then [f.recDesc, f.selDesc, f.cntDesc] else if f.op = 1 then [f.bufDesc, f.ovfDesc] else [f.outDesc, f.retDesc]
  | .omtPack _ b _ => [b]
  | .omtUnpack _ b _ => [b]
  | .vector f => vecTensors p f true
  | .transfer .. | .sync _ | .stage _ | .tradeReduce .. | .tradeGather .. | .optUpdate _ | .stepMark .. | .lullSnap _ | .traceMark .. => []

/-- Ranges an operation reads. -/
def opReads (p : Plan) (o : PlanOp) : List (Nat × Nat) :=
  p.rangesOf (opInputs p o) ++ match o with
    | .matmul f => (List.range (max 1 f.grpCount)).flatMap fun g => (match p.ten f.bDesc with | some d => d.rangesAs false | none => []).map
        fun (r : Nat × Nat) => (r.1 + g * f.grpBBytes, r.2)
    | .attention f => ringRange f.ringDesc
    | .transfer l n => [(l, 64 * n)]
    | .tradeReduce t n _ => [(t, 64 * n)]
    | .tradeGather t n _ => [(t, 64 * n)]
    | .optUpdate f => [(f.groups, 4096), (f.lscale, 64), (f.state, 64 * p.buckets f.reduce)]
    | .stepMark _ es => es.map fun e => (e.2.1, e.2.2)
    | .expert _ | .omtPack .. | .omtUnpack .. | .vector _ | .sync _ | .stage _ | .lullSnap _ | .traceMark .. => []

/-- Ranges an operation writes. -/
def opWrites (p : Plan) (o : PlanOp) : List (Nat × Nat) :=
  p.rangesOf (opOutputs p o) ++ match o with
    | .attention f => ringRange f.ringDesc
    | .sync f => if f.result = 0 then [] else [(f.result, 8)]
    | .stage f => if f.result = 0 then [] else [(f.result, 8)]
    | .optUpdate f => [(f.lscale, 64)]
    | .stepMark r _ => [(r, 384)]
    | .lullSnap a => [(a, 104)]
    | .matmul _ | .expert _ | .omtPack .. | .omtUnpack .. | .vector _ | .transfer .. | .tradeReduce .. | .tradeGather .. | .traceMark .. => []

/-- The order keys of R367: one Trade ring per context, an Eddy or exchange group by tag, a stage queue by tag, a window ring, and
the claim objects of R314. Tier tokens stand in the lists that memory holds: `State.sharesToken`. -/
inductive OpKey where
  | trade
  | eddy (ring : Nat)
  | expx (tag : Nat)
  | stage (tag : Nat)
  | ring (va : Nat)
  | claim (so : Nat)
  deriving DecidableEq, Repr

/-- Keys of an operation. -/
def opKeys : PlanOp → List OpKey
  | .matmul f => (f.rangeSo.take (if f.rangeCount = 0 then 4 else f.rangeCount)).map OpKey.claim
  | .attention f => (if f.ringDesc = 0 then [] else [.ring f.ringDesc]) ++ (if f.kvSrc = 1 then [.eddy 0] else [])
  | .expert f => if f.group = 0 then [] else [.expx f.group]
  | .omtPack .. => []
  | .omtUnpack .. => []
  | .vector _ => []
  | .transfer .. => []
  | .sync f => [.claim f.so]
  | .stage f => [.stage f.tag]
  | .tradeReduce .. => [.trade]
  | .tradeGather .. => [.trade]
  | .optUpdate _ => [.trade]
  | .stepMark .. => []
  | .lullSnap _ => []
  | .traceMark .. => []

/-- Do all later operations wait for it: a SYNC or STAGE operation, whose place in plan order a stream keeps (R316), LULL_SNAP, which stands at its
place between the operations (R295), and one whose buffers its descriptor does not declare, the Trade ring's and the update (log 17)? -/
def PlanOp.orders : PlanOp → Bool
  | .sync _ => true
  | .stage _ => true
  | .tradeReduce .. => true
  | .tradeGather .. => true
  | .optUpdate _ => true
  | .lullSnap _ => true
  | .matmul _ | .attention _ | .expert _ | .omtPack .. | .omtUnpack .. | .vector _ | .transfer .. | .stepMark .. | .traceMark .. => false

/-- Does it wait for every earlier operation but transfers: a release of R316, a reduction (R27), LULL_SNAP (R295)? STEP_MARK waits for
transfers too (R302). -/
def PlanOp.drains : PlanOp → Bool
  | .sync f => [0, 3, 5, 6, 9, 12].contains f.op
  | .stage f => f.op != 1
  | .stepMark .. => true
  | .lullSnap _ => true
  | .traceMark .. => true
  | .tradeReduce .. => true
  | .tradeGather .. => true
  | .optUpdate _ => true
  | .matmul _ | .attention _ | .expert _ | .omtPack .. | .omtUnpack .. | .vector _ | .transfer .. => false

/-- Is it a TRANSFER? -/
def PlanOp.isTransfer : PlanOp → Bool
  | .transfer .. => true
  | .matmul _ | .attention _ | .expert _ | .omtPack .. | .omtUnpack .. | .vector _ | .sync _ | .stage _ | .tradeReduce ..
  | .tradeGather .. | .optUpdate _ | .stepMark .. | .lullSnap _ | .traceMark .. => false

/-- Is it STEP_MARK, which waits for every earlier operation (R302)? -/
def PlanOp.isMark : PlanOp → Bool
  | .stepMark .. => true
  | .matmul _ | .attention _ | .expert _ | .omtPack .. | .omtUnpack .. | .vector _ | .transfer .. | .sync _ | .stage _ | .tradeReduce ..
  | .tradeGather .. | .optUpdate _ | .lullSnap _ | .traceMark .. => false

/-- Does operation `b` depend on the earlier operation `a` by declared ranges or a shared ring, group, queue or object (R367,
R314)? -/
def dependsCore (p : Plan) (a b : PlanOp) : Bool :=
  meetAny (opWrites p a) (opReads p b ++ opWrites p b) || meetAny (opReads p a) (opWrites p b)
  || (opKeys a).any (fun k => (opKeys b).contains k)

/-- Must operation `b` wait for the earlier operation `a` (R367, R316, R302)? -/
def dependsOn (p : Plan) (a b : PlanOp) : Bool := dependsCore p a b || a.orders || (b.drains && (!a.isTransfer || b.isMark))

/-! ## Operations in progress -/

/-- A context's plan, run and an operation of it. -/
def State.opOf (s : State) (c i : Nat) : Option (Ctx × Plan × Run × PlanOp × OpRun) :=
  match kvGet c s.ctxs with
  | none => none
  | some x =>
    match x.plan, x.run with
    | some p, some r =>
      match p.ops[i]?, r.ops[i]? with
      | some o, some q => some (x, p, r, o, q)
      | _, _ => none
    | _, _ => none

/-- Update a run's operation. -/
def State.opDo (s : State) (c i : Nat) (f : OpRun → OpRun) : State :=
  s.ctxDo c fun x =>
    { x with run := x.run.map fun r =>
        match r.ops[i]? with
        | none => r
        | some o => { r with ops := r.ops.set i (f o) } }

/-- Set what an operation in progress keeps. -/
def State.progSet (s : State) (c i : Nat) (p : Prog) : State := s.opDo c i fun o => { o with prog := p }

/-! ## What the tables in memory name (R193, R235) -/

/-- Widths of a bucket's fields (R235). -/
def bucketWidths : List Nat := [6, 8, 28, 64, 64, 64, 64, 64, 3]

/-- A bucket table entry: group, owner, elements, grad, out, resid, scale, param, format. -/
def bucketAt (l : List Byte) (i : Nat) : List Nat := unpack l (64 * i) 0 bucketWidths

/-- The buckets of a table as memory holds them; none where it does not translate. -/
def State.bucketTable (s : State) (c table n : Nat) : Option (List (List Nat)) :=
  match s.vread c table (64 * n) with
  | .error _ => none
  | .ok r => some ((List.range n).map (bucketAt r.1))

/-- Bytes of an element of `BK_PARAM` (R235). -/
def paramSize (fmt : Nat) : Nat := match fmt with | 0 => 2 | 1 => 4 | _ => 1

/-- The buffers of a bucket: gradient, reduced sum, residual planes, scale record, working parameters (R235). -/
def bucketRanges (b : List Nat) : List (Nat × Nat) :=
  let n := nth b 2
  [(nth b 3, 4 * n), (nth b 4, 4 * n)] ++ (if nth b 5 = 0 then [] else [(nth b 5, 8 * n)]) ++ [(nth b 6, 64)]
    ++ (if nth b 7 = 0 then [] else [(nth b 7, paramSize (nth b 8) * n)])

/-- A transfer descriptor's bytes (R193). -/
def xferOf (l : List Byte) (seq op : Nat) : Xfer :=
  { hbm := field l 0 8, token := field l 8 4, offset := field l 16 8, bytes := field l 24 8, updraft := field l 32 1 == 1,
    last := bitOf (field l 33 1) 0, gateSo := field l 34 2, gateN := field l 36 4, doneSo := field l 40 2, doneN := field l 42 4,
    seq := seq, started := false, gated := field l 34 2 == 0xFFFF, waiting := false, done := 0, op := op, poisoned := false }

/-- The transfers of an operation as memory holds its list (R193). -/
def State.transfersOf (s : State) (c : Nat) (o : PlanOp) : List Xfer :=
  match o with
  | .transfer l n => (match s.vread c l (64 * n) with
    | .error _ => []
    | .ok r => (List.range n).map fun i => xferOf (slice r.1 (64 * i) 64) i 0)
  | .matmul _ | .attention _ | .expert _ | .omtPack .. | .omtUnpack .. | .vector _ | .sync _ | .stage _ | .tradeReduce ..
  | .tradeGather .. | .optUpdate _ | .stepMark .. | .lullSnap _ | .traceMark .. => []

/-- The buckets of an operation's table as memory holds them (R235). -/
def State.bucketsOf (s : State) (c : Nat) (p : Plan) (o : PlanOp) : List (List Nat) :=
  let tab (o : PlanOp) : List (List Nat) := match o with
    | .tradeReduce t n _ => (s.bucketTable c t n).getD []
    | .tradeGather t n _ => (s.bucketTable c t n).getD []
    | .matmul _ | .attention _ | .expert _ | .omtPack .. | .omtUnpack .. | .vector _ | .transfer .. | .sync _ | .stage _ | .optUpdate _
    | .stepMark .. | .lullSnap _ | .traceMark .. => []
  match o with
  | .optUpdate f => (match p.ops[f.reduce]? with | some r => tab r | none => [])
  | .matmul _ | .attention _ | .expert _ | .omtPack .. | .omtUnpack .. | .vector _ | .transfer .. | .sync _ | .stage _ | .tradeReduce ..
  | .tradeGather .. | .stepMark .. | .lullSnap _ | .traceMark .. => tab o

/-- The block side of a group table entry (R258). -/
def pgBlock (g : List Byte) : Nat := field g 2 2

/-- What a bucket state entry names, for a bucket of `n` elements whose group has blocks of side `b`: masters, moments, block slots, scale
history (R261, R273). -/
def planeRanges (n b : Nat) (bs : List Byte) : List (Nat × Nat) :=
  let part (o k : Nat) : List (Nat × Nat) := if field bs o 8 = 0 then [] else [(field bs o 8, k)]
  part 0 (8 * n) ++ part 8 (4 * n) ++ part 16 (4 * n)
    ++ part 24 (ceilDiv (field bs 32 4) (max 1 b) * ceilDiv (field bs 36 4) (max 1 b) * (24 * b * b + 64)) ++ part 40 128

/-- The planes of the buckets that this member owns in an update, with their working copies and reduced sums, as memory holds the tables (R258,
R261). -/
def State.planesOf (s : State) (c : Nat) (p : Plan) (o : PlanOp) : List (Nat × Nat) :=
  match o with
  | .optUpdate f =>
    let rank := (s.trade.find? fun g => g.1 / 2 ^ 32 == c).map fun g => g.2.f.rank
    (enumFrom 0 (s.bucketsOf c p o)).flatMap fun b =>
      if rank ≠ some (nth b.2 1) then []
      else
        match s.vread c (f.state + 64 * b.1) 64, s.vread c (f.groups + 64 * nth b.2 0) 64 with
        | .ok bs, .ok g => planeRanges (nth b.2 2) (pgBlock g.1) bs.1
        | _, _ => []
  | .matmul _ | .attention _ | .expert _ | .omtPack .. | .omtUnpack .. | .vector _ | .transfer .. | .sync _ | .stage _ | .tradeReduce ..
  | .tradeGather .. | .stepMark .. | .lullSnap _ | .traceMark .. => []

/-- The bucket table of the reduction that an update names (R260). -/
def updTableRange (p : Plan) (o : PlanOp) : List (Nat × Nat) :=
  match o with
  | .optUpdate f => (match p.ops[f.reduce]? with | some (.tradeReduce t n _) => [(t, 64 * n)] | _ => [])
  | .matmul _ | .attention _ | .expert _ | .omtPack .. | .omtUnpack .. | .vector _ | .transfer .. | .sync _ | .stage _ | .tradeReduce ..
  | .tradeGather .. | .stepMark .. | .lullSnap _ | .traceMark .. => []

/-- Every buffer that an operation reaches: by its fields, its transfer list and its tables. -/
def State.buffersOf (s : State) (c : Nat) (p : Plan) (o : PlanOp) : List (Nat × Nat) :=
  opReads p o ++ opWrites p o ++ ((s.transfersOf c o).map fun t => (t.hbm, t.bytes)) ++ (s.bucketsOf c p o).flatMap bucketRanges
    ++ updTableRange p o ++ s.planesOf c p o

/-- Every buffer that an operation writes, where its fields or the tables they name declare it. -/
def State.writesOf (s : State) (c : Nat) (p : Plan) (o : PlanOp) : List (Nat × Nat) :=
  opWrites p o ++ (((s.transfersOf c o).filter Xfer.updraft).map fun t => (t.hbm, t.bytes)) ++ (s.bucketsOf c p o).flatMap bucketRanges
    ++ s.planesOf c p o

/-- What a reduction, a gather or an update writes of a bucket: the sum, the residual planes and the scale record; the working parameters (R236,
R244, R254, R266). -/
def bucketOuts (o : PlanOp) (b : List Nat) : List (Nat × Nat) :=
  let param := if nth b 7 = 0 then [] else [(nth b 7, paramSize (nth b 8) * nth b 2)]
  match o with
  | .tradeReduce .. => [(nth b 4, 4 * nth b 2)] ++ (if nth b 5 = 0 then [] else [(nth b 5, 8 * nth b 2)]) ++ [(nth b 6, 64)]
  | .matmul _ | .attention _ | .expert _ | .omtPack .. | .omtUnpack .. | .vector _ | .transfer .. | .sync _ | .stage _ | .tradeGather ..
  | .optUpdate _ | .stepMark .. | .lullSnap _ | .traceMark .. => param

/-- The outputs of an operation as its fields, its transfer list and its tables give them (R296, R366). -/
def State.outputsOf (s : State) (c : Nat) (p : Plan) (o : PlanOp) : List (Nat × Nat) :=
  opWrites p o ++ (((s.transfersOf c o).filter Xfer.updraft).map fun t => (t.hbm, t.bytes)) ++ (s.bucketsOf c p o).flatMap (bucketOuts o)
    ++ s.planesOf c p o

/-- Do the bytes that a transfer moves, or the buffers of a bucket table, tie the later operation `b` to `a` (R367)? -/
def State.dependsMoved (s : State) (c : Nat) (p : Plan) (a b : PlanOp) : Bool :=
  (a.isTransfer || b.isTransfer) &&
    (meetAny (s.writesOf c p a) (s.buffersOf c p b) || meetAny (s.buffersOf c p a) (s.writesOf c p b))

/-- The objects that an operation claims work from (R314). -/
def PlanOp.claims : PlanOp → List Nat
  | .matmul f => f.rangeSo.take (if f.rangeCount = 0 then 4 else f.rangeCount)
  | .optUpdate f => [f.claimSo]
  | .attention _ | .expert _ | .omtPack .. | .omtUnpack .. | .vector _ | .transfer .. | .sync _ | .stage _ | .tradeReduce .. | .tradeGather ..
  | .stepMark .. | .lullSnap _ | .traceMark .. => []

/-- Does a transfer of the earlier operation `a` name an object that `b` claims from, as its gate or its done object (R193, R314)? -/
def State.namesClaim (s : State) (c : Nat) (a b : PlanOp) : Bool :=
  a.isTransfer && (s.transfersOf c a).any fun t => b.claims.contains t.gateSo || b.claims.contains t.doneSo

/-- Do two TRANSFER operations name one tier token (R367)? -/
def State.sharesToken (s : State) (c : Nat) (a b : PlanOp) : Bool :=
  (s.transfersOf c a).any fun t => (s.transfersOf c b).any fun u => t.token == u.token

/-- Is position 0 resident (R471)? -/
def Ctx.pos0 (x : Ctx) : Bool :=
  match x.positions with
  | [] => false
  | q :: _ => q.resident?.isSome

/-- Is a position resident that can issue the operation: position 0 for SYNC (R471) and for a VECTOR operation's streams, otherwise any, since a
context runs on whichever positions are resident (R344)? -/
def Ctx.issues (x : Ctx) (o : PlanOp) : Bool :=
  match o with
  | .sync _ | .vector _ => x.pos0
  | .matmul _ | .attention _ | .expert _ | .omtPack .. | .omtUnpack .. | .transfer .. | .stage _ | .tradeReduce .. | .tradeGather ..
  | .optUpdate _ | .stepMark .. | .lullSnap _ | .traceMark .. => x.positions.any fun q => q.resident?.isSome

/-- Are the models that an operation reads resident (R201)? -/
def State.modelsReady (s : State) (c : Nat) (p : Plan) (o : PlanOp) : Bool :=
  p.models.all fun m =>
    match kvGet m.1 s.models with
    | none => true
    | some e => e.state == 2 || e.state == 3 || !meetAny (s.buffersOf c p o) [(m.2.2, ceilDiv e.bytes gib * gib)]

/-- Does one of these ranges lie in the window of a saved position, so that an access waits for its restore (R338)? -/
def State.spansWait (s : State) (c : Nat) (l : List (Nat × Nat)) : Bool :=
  l.any fun r => match s.reach c false r.1 r.2 with | .error f => f.kind == kindWaits | .ok _ => false

/-- Do the copies of an ended gather that this member has still to send keep a later operation waiting: one of the ring, or one that writes working
parameters (R254, R255; log 122)? -/
def State.gatherTail (s : State) (c : Nat) (p : Plan) (o : PlanOp) : Bool :=
  match s.trade.find? fun g => g.1 / 2 ^ 32 == c with
  | none => false
  | some g => g.2.sending && g.2.form.state == 1 &&
      (o.kind == 0x000A || o.kind == 0x000B || o.kind == 0x000C
        || meetAny (g.2.buckets.map fun b => (b.param, paramSize b.pfmt * b.elems)) (s.writesOf c p o))

/-- The ranges that an operation reads as it begins; the rest it reads in later commands. -/
def opHeads (p : Plan) (o : PlanOp) : List (Nat × Nat) :=
  match o with
  | .matmul f => p.rangesOf [f.grpCntDesc]
  | .attention f => if f.op < 2 then ringRange f.ringDesc ++ p.rangesOf [f.docDesc] else opReads p o
  | .expert f => if f.op = 0 then [] else opReads p o
  | .vector _ => []
  | .omtPack .. | .omtUnpack .. | .transfer .. | .sync _ | .stage _ | .tradeReduce .. | .tradeGather .. | .optUpdate _ | .stepMark .. | .lullSnap _
  | .traceMark .. => opReads p o

/-- May operation `i` begin: it has not begun, the run has not stopped before it, the context may issue, a position that can issue it is resident,
its buffers lie in no saved position's window, what it reads of host memory first is there (R383), and everything it depends on has completed (R314, R338, R344, R366, R367)? -/
def State.mayIssue (s : State) (c i : Nat) : Bool :=
  match s.opOf c i with
  | none => false
  | some (x, p, r, o, q) =>
    s.running && q.st = .pending && s.modelsReady c p o && !(s.rebuild.any fun b => b.1 == c) && !s.spansWait c (s.buffersOf c p o) && !s.hostDue (s.physSpans c (opHeads p o))
      && !s.gatherTail c p o && !x.noIssue && x.issues o && !x.suspended
      && (match r.stop with | none => true | some k => decide (i < k))
      && ((enumFrom 0 (List.zip p.ops r.ops)).all fun e =>
            !decide (e.1 < i) || e.2.2.st = .ended || !(dependsOn p e.2.1 o || s.sharesToken c e.2.1 o || s.dependsMoved c p e.2.1 o || s.namesClaim c e.2.1 o))

/-- An operation begins; trace point 6 (R466). -/
def State.opBegin (s : State) (c i : Nat) (prog : Prog) : State :=
  (s.opDo c i fun o => { o with st := .begun, began := s.refCount, prog := prog }).trace 6 c (leBytes 4 i)

/-- The statuses past which a run continues (R366). -/
def Status.continues (st : Status) : Bool :=
  match st with
  | .ok | .dupTile | .poison | .gradOverflow | .stepSkew | .stepLimit | .scaleExhausted | .tradeSkew | .tradeLink | .updateParam
  | .verifyTree | .verifyPath | .ringPosition | .ringOwner => true
  | _ => false

/-- Does a vector operation carry a variance step, and with it the vector status block (R117)? -/
def VecF.hasVar (f : VecF) : Bool := f.words.any fun w => wordOp w = 0x50

/-- Is it a backward operation? -/
def AttF.back (f : AttF) : Bool := f.op == 1

/-- Query blocks of 32 rows (R125). -/
def AttF.bq (f : AttF) : Nat := ceilDiv f.qLen 32

/-- Work units (R125). -/
def AttF.units (f : AttF) : Nat := if f.back then f.qHeads * f.dqParts else f.qHeads * f.bq

/-- Does an attention operation contain a forward or verify step, and with it the attention status block (R133)? -/
def AttF.counts (f : AttF) : Bool := f.op = 0 || f.op = 2

/-- The attention status block: `EMPTY_ROWS` and whether it stands at its maximum (R133). -/
def emptyBlock (n : Nat) : List Byte := leBytes 6 (stick48 n) ++ leBytes 1 (if stick48 n = 2 ^ 48 - 1 then 1 else 0) ++ zeros 1

/-- The update status block (R283). -/
def updBlock (refreshed retries fallbacks ls flags : Nat) : List Byte :=
  leBytes 4 refreshed ++ leBytes 4 retries ++ leBytes 4 fallbacks ++ leBytes 1 ls ++ leBytes 1 flags ++ zeros 2

/-- The loss-scale exponent s that a record holds now (R271); 0 where the record cannot be read. -/
def State.lossExp (s : State) (c va : Nat) : Nat :=
  match s.vread c va 64 with
  | .ok (l, none) => field l 4 1
  | .ok (_, some _) => 0
  | .error _ => 0

/-- The status blocks of an operation's kind where its own end did not form them: every such operation carries its block, whatever its
status (R117, R133, R230, R253, R283), a reduction the buckets that it owns and has committed, with what it has counted so far, and zero in fields that nothing gave a value (log 112). -/
def State.kindBlocks (s : State) (c : Nat) (o : PlanOp) (g : Prog) : List Byte :=
  match o with
  | .vector f => if f.hasVar then varBlock (match g with | .vec v => v.varClamp | _ => 0) else []
  | .attention f => if f.counts then emptyBlock (match g with | .att a => a.empty | _ => 0) else []
  | .expert f => if f.op = 0 then zeros 24 else []
  | .tradeReduce .. => zeros 28 ++ leBytes 4 (match g, s.trade.find? fun g => g.1 / 2 ^ 32 == c with
    | .wait _, some t => t.2.owned
    | _, _ => 0)
  | .optUpdate f => match g with
    | .upd u => updBlock u.refreshed u.retries u.fallbacks (s.lossExp c f.lscale) 0
    | _ => updBlock 0 0 0 (s.lossExp c f.lscale) 0
  | .matmul _ | .omtPack .. | .omtUnpack .. | .transfer .. | .sync _ | .stage _ | .tradeGather .. | .stepMark .. | .lullSnap _
  | .traceMark .. => []

/-- An operation's status blocks (R365): numeric, then those of its kind. -/
def OpRun.blocks (q : OpRun) (i : Nat) : List Byte := q.num.block i ++ q.extra

/-- An operation record (R365). -/
def opRecord (i : Nat) (o : PlanOp) (q : OpRun) (time : Nat) : List Byte :=
  let blocks := q.blocks i
  padTo 128 (leBytes 2 q.status.code ++ leBytes 2 o.kind ++ leBytes 2 blocks.length ++ zeros 2 ++ leBytes 8 time ++ blocks)

/-- Write an operation's record into the status area. -/
def State.writeRecord (s : State) (c i : Nat) : State :=
  match s.opOf c i with
  | none => s
  | some (_, _, r, o, q) =>
    match s.vwrite c (r.area + 128 * i) (opRecord i o q (if q.status = .notIssued then 0 else s.refCount - q.began)) with
    | .ok t => t
    | .error _ => s

/-! ## Waits on objects (R312) -/

/-- Can a wait be satisfied by the object's value? -/
def Obj.satisfies (o : Obj) (k : WaitKind) : Bool :=
  match k with
  | .count n => decide (o.value ≥ n)
  | .epoch v => decide (o.value ≥ v)
  | .generation g => o.value != g
  | .lock => o.holder.isNone
  | .credit n => decide (o.value ≥ n)

/-- What granting a wait takes. -/
def Obj.take (o : Obj) (w : Wait) : Obj :=
  match w.kind with
  | .count n => { o with value := o.value - n }
  | .credit n => { o with value := o.value - n }
  | .lock => { o with holder := some (match w.who with | .op c _ => (c, 0) | .gate c _ => (c, 0)), boosted := false }
  | .epoch _ => o
  | .generation _ => o

/-- The waits in the order in which the type serves them (R312): locks by class, the rest by arrival. -/
def Obj.order (o : Obj) (cls : Waiter → Nat) : List Wait :=
  if o.type = 3 then sortKey (fun w => [3 - cls (w : Wait).who]) o.waits else o.waits

/-- Serve one pass of waits: a credit pool never serves past one it cannot satisfy (R312). -/
def Obj.serve (o : Obj) : List Wait → Obj
  | [] => o
  | w :: t =>
    if o.satisfies w.kind then
      Obj.serve ({ o.take w with waits := o.waits.filter (fun x => x.who != w.who), granted := o.granted ++ [w.who] }) t
    else match w.kind with
      | .credit _ => o
      | .count _ => Obj.serve o t
      | .epoch _ => Obj.serve o t
      | .generation _ => Obj.serve o t
      | .lock => Obj.serve o t

/-- The context that waits. -/
def Waiter.ctx : Waiter → Nat
  | .op c _ => c
  | .gate c _ => c

/-- The class of a waiter. -/
def State.waiterClass (s : State) (w : Waiter) : Nat :=
  match w with
  | .op c _ => match kvGet c s.ctxs with
    | some x => match x.positions with | q :: _ => posClass x q | [] => x.cls
    | none => 0
  | .gate c _ => ((kvGet c s.ctxs).map Ctx.cls).getD 0

/-- Store an object, its waits served. -/
def State.soSet (s : State) (so : Nat) (o : Obj) : State :=
  { s with sos := kvSet so (o.serve (o.order s.waiterClass)) s.sos }

/-- The waits that satisfy a condition are withdrawn, and the object serves those that stay: a credit pool's next request may have become
the first (R312). -/
def State.withdraw (s : State) (gone : Waiter → Bool) : State :=
  let cls := s.waiterClass
  { s with sos := kvMap (fun _ o =>
      if o.waits.any fun w => gone w.who then
        let o : Obj := { o with waits := o.waits.filter fun w => !gone w.who }
        o.serve (o.order cls)
      else o) s.sos }

/-- Remove what an operation holds in engines: units of matrix and attention work, waits, SFU requests (R346). -/
def State.abandonOp (s : State) (c i : Nat) : State :=
  let gates (l : List Xfer) (up : Bool) (w : Waiter) : Bool := w == .gate c up && (match l with | t :: _ => t.op == i | [] => false)
  let x := kvGet c s.ctxs
  let s := s.withdraw fun w => w == .op c i
    || (match x with | some x => gates x.down false w || gates x.up true w | none => false)
  let s := s.ctxDo c fun x => { x with down := x.down.filter fun t => t.op != i, up := x.up.filter fun t => t.op != i }
  { s with
    tiles := s.tiles.filter fun t => !(t.1 / 1024 == c && t.2.op == i)
    att := s.att.filter fun t => !(t.1 / 1024 == c && t.2.op == i)
    sos := kvMap (fun _ o => { o with granted := o.granted.filter fun w => w != .op c i }) s.sos
    sfu := kvMap (fun _ f => { f with reqs := f.reqs.filter fun q => !(q.ctx == c && q.op == i),
                                      granted := f.granted.filter fun g => !(g.req.ctx == c && g.req.op == i) }) s.sfu
    rsWait := s.rsWait.filter fun w => !(w.ctx == c && w.op == i)
    eddy := s.eddy.map fun g => (g.1, if g.1 / 2 ^ 32 == c && g.2.op == some i then { g.2 with op := none } else g.2)
    trade := s.trade.map fun g => (g.1, if g.1 / 2 ^ 32 == c && g.2.op == some i then { g.2 with op := none } else g.2)
    expx := s.expx.map fun g => (g.1, if g.1 / 2 ^ 32 == c && g.2.op == some i then { g.2 with op := none } else g.2) }

/-- Outputs that an operation had not committed become undefined (R296, R366). -/
def State.undefine (s : State) (c : Nat) (l : List (Nat × Nat)) : State := l.foldl (fun s r => s.vscramble c r.1 r.2) s

/-- The outputs of an operation that it had not committed become undefined once it ends with an environmental status (R296). -/
def State.outputsLost (s : State) (c i : Nat) : State :=
  match s.opOf c i with
  | some (_, p, _, o, _) => s.undefine c (s.outputsOf c p o)
  | none => s

/-- A transfer ends with an environmental status: the tokens that its Downdrafts were filling are undefined too (R193, R296). -/
def State.tokensLost (s : State) (c i : Nat) : State :=
  match kvGet c s.ctxs with
  | none => s
  | some x => (x.down.filter fun t => t.op == i).foldl (fun s t => match x.tokens[t.token]? with
      | some k => let r := freshBytes t.bytes s; r.2.physWrite (k.home + t.offset) r.1
      | none => s) s

/-- End operation `k` behind a stop: NOT_ISSUED; one that had begun is ended and its outputs are undefined (R366). -/
def State.notIssue (s : State) (c k : Nat) : State :=
  match s.opOf c k with
  | none => s
  | some (_, p, _, o, q) =>
    let s := if q.st = .begun then
        ((s.tokensLost c k).abandonOp c k).undefine c (s.outputsOf c p o)
      else s
    let ext := s.kindBlocks c o (if q.st = .begun then .wait 0 else .none)
    let s := s.opDo c k fun q => { q with st := .ended, status := .notIssued, num := NumStat.zero, extra := ext, prog := .none }
    s.writeRecord c k

/-- RUN_STOP (R366): every later operation's record carries NOT_ISSUED. -/
def State.runStop (s : State) (c i : Nat) : State :=
  match kvGet c s.ctxs with
  | none => s
  | some x =>
    match x.run with
    | none => s
    | some r =>
      let s := s.ctxDo c fun x => { x with run := x.run.map fun r => { r with stop := some (match r.stop with | none => i | some k => min i k) } }
      ((List.range r.ops.length).filter fun k => decide (i < k)).foldl (fun s k => s.notIssue c k) s

/-- The PLAN_RUN results (R365). -/
def Run.results (r : Run) : Status × List Byte :=
  let issued := (r.ops.filter fun o => o.status != .notIssued).length
  match (enumFrom 0 r.ops).find? fun o => o.2.status != .ok with
  | none => (.ok, leBytes 8 r.step ++ leBytes 4 issued ++ leBytes 4 0xFFFFFFFF)
  | some o => (o.2.status, leBytes 8 r.step ++ leBytes 4 issued ++ leBytes 4 o.1)

/-- The run ends when every operation has ended: PLAN_RUN retires (R365, R372), a scheduling decision follows (R341). -/
def State.runEnd (s : State) (c : Nat) : State :=
  match kvGet c s.ctxs with
  | none => s
  | some x =>
    match x.run with
    | none => s
    | some r =>
      if r.ops.all fun o => o.st = .ended then
        let res := r.results
        let left := ((enumFrom 0 r.ops).filter fun o => decide (x.mark.firstOp ≤ o.1)).map fun o => (o.2.status, o.2.blocks o.1)
        let s := s.ctxDo c fun x =>
          { x with run := none, mark := { x.mark with firstOp := 0, statuses := x.mark.statuses ++ left } }
        (s.replyWrite r.head 0x0303 1 res.1 res.2).schedule
      else s

/-- The status under which an operation ends: poison outranks a duplicate (R77, R89). -/
def OpRun.final (o : OpRun) (st : Status) : Status :=
  if st = .ok then (if o.poisoned then .poison else if o.dup then .dupTile else .ok) else st

/-- POISON_CONSUMED's event, once per operation (R187). -/
def State.poisonEvent (s : State) (c i : Nat) (pa : Option (Nat × Nat)) : State :=
  match pa with
  | none => s
  | some a => s.post 0x0203 c (leBytes 4 i ++ zeros 4 ++ leBytes 8 a.2)

/-- An operation ends (R365): status, status blocks (`extra`, or none for those of `State.kindBlocks`), record, trace point 7; a stopping
status stops the run (R366); a decision follows (R341); ST_STEP_SKEW after a ring break is environmental (R296). A record that its area refuses when it is due is a faulting access of the
operation (R175, R181). -/
def State.opEnd (s : State) (c i : Nat) (st : Status) (extra : List Byte) : State :=
  match s.opOf c i with
  | none => s
  | some (x, _, r, o, q) =>
    if q.st = .ended then s
    else
      let bad := match s.reach c true (r.area + 128 * i) 128 with | .ok _ => none | .error f => if f.kind = kindWaits then none else some f
      let s := match bad with
        | none => s
        | some f => s.post 0x0201 c (leBytes 8 f.va ++ leBytes 1 f.kind ++ leBytes 1 f.space ++ zeros 2 ++ leBytes 4 i)
      let fin := if bad.isSome then .memFault else q.final st
      let extra := if extra.isEmpty then s.kindBlocks c o q.prog else extra
      let s := if fin = .stepSkew ∧ x.ringBroke then s.unrecovered c else s
      let s := s.poisonEvent c i q.poisonAt
      let s := s.opDo c i fun q => { q with st := .ended, status := fin, extra := extra, prog := .none }
      let s := s.writeRecord c i
      let s := s.trace 7 c (leBytes 4 i ++ leBytes 2 fin.code)
      let s := if fin.continues then s else s.runStop c i
      (s.runEnd c).schedule

/-- A work unit of an operation ends poisoned (R89, R187). -/
def State.opSpoil (s : State) (c i : Nat) : State := s.opDo c i fun o => { o with poisoned := true }

/-- Poison met by an operation: the first address in canonical order is kept, `key` being the unit's place in it (R187); poison that arose
from a detected error makes the step environmental (R296). -/
def State.opPoison (s : State) (c i key pa : Nat) : State :=
  (if s.hwPoisoned pa then s.unrecovered c else s).opDo c i fun o =>
    { o with poisoned := true, poisonAt := match o.poisonAt with
        | none => some (key, pa)
        | some b => if key < b.1 then some (key, pa) else some b }

/-- Add the counts of a committed unit to its operation. -/
def State.opCount (s : State) (c i : Nat) (n : NumStat) : State := s.opDo c i fun o => { o with num := o.num.add n }

/-- A faulting VECTOR operation commits nothing: memory stands again as before its stores (R181). -/
def State.vecUndo (s : State) (c i : Nat) : State :=
  match s.opOf c i with
  | some (_, _, _, _, q) =>
    match q.prog with
    | .vec v =>
      let s := v.undo.foldl (fun s b => s.physWrite b.1 [b.2.1]) s
      v.undo.foldl (fun s b => if !b.2.2.1 then s else if b.2.2.2 then (s.setPoison (b.1 / 64)).markHw (b.1 / 64) else s.setPoison (b.1 / 64)) s
    | .none | .mat _ | .att _ | .exp _ | .upd _ | .wait _ | .signal .. => s
  | none => s

/-- The operation faults (R181): ST_MEM_FAULT, the event, the context issues no further operation. An access to a saved position is no fault:
the step does nothing, and is tried again (R338). -/
def State.opFault (s : State) (c i : Nat) (e : OpErr) : State :=
  match e with
  | .fault f =>
    if f.kind = kindWaits then s
    else
      let s := s.post 0x0201 c (leBytes 8 f.va ++ leBytes 1 f.kind ++ leBytes 1 f.space ++ zeros 2 ++ leBytes 4 i)
      ((s.vecUndo c i).abandonOp c i).opEnd c i .memFault []
  | .omt br bc =>
    let s := s.post 0x0204 c (leBytes 4 i ++ leBytes 4 br ++ leBytes 4 bc)
    (s.abandonOp c i).opEnd c i .omtRange []

/-- An operation's step on a read: the error ends it. -/
def State.opTry {α : Type} (s : State) (c i : Nat) (r : Except OpErr α) (f : α → State) : State :=
  match r with
  | .ok a => f a
  | .error e => s.opFault c i e

/-- A new run's operation. -/
def OpRun.new : OpRun :=
  { st := .pending, status := .ok, extra := [], began := 0, num := NumStat.zero, poisoned := false, poisonAt := none, dup := false, prog := .none }

/-- Outcome of a command that is not a host command: the next state. -/
def done (s : State) : Host.Outcome State Fault Refusal := .next s

end Sys2Proof.Machine
end

