-- ==== Sys2Proof/Machine/Sync.lean ====
section
/-! DEFINITION. Synchronisation objects: the six types and their operations, waits, timeouts, boosts, remote signals
(13_sync_objects_and_queues, 14_contexts_and_preemption R352 and R353). -/
namespace Sys2Proof.Machine

/-- What an object answers an operation. -/
inductive SoRes where
  | done (v : Nat)
  | wait (k : WaitKind)
  | fail (st : Status)
  deriving DecidableEq, Repr

/-- The largest values of R325. -/
def max32n : Nat := 2 ^ 32 - 1
def max64n : Nat := 2 ^ 64 - 1

/-- `OB_VALUE` (R310). -/
def Obj.obValue (o : Obj) : Nat := if o.type = 3 then (if o.holder.isSome then 1 else 0) else o.value

/-- Is a value within the type's range (R310)? -/
def soValueOk (type param v : Nat) : Bool :=
  match type with
  | 0 => decide (v ≤ max32n)
  | 1 | 2 | 4 => decide (v ≤ max64n)
  | 3 => v == 0
  | 5 => decide (v ≤ param)
  | _ => false

/-- Does a type take an operation code (R312)? READ is every type's. -/
def soTakes (type op : Nat) : Bool :=
  op = 13 || match type with
    | 0 => [0, 1, 2].contains op
    | 1 => [3, 4].contains op
    | 2 => [5, 6].contains op
    | 3 => [7, 8, 9].contains op
    | 4 => op == 10
    | 5 => [11, 12].contains op
    | _ => false

/-- Is an operation's count within its range (R312)? -/
def soCountOk (op n : Nat) : Bool :=
  match op with
  | 0 | 1 | 2 | 11 | 12 => decide (1 ≤ n)
  | 10 => decide (1 ≤ n ∧ n ≤ 65535)
  | _ => true

/-- One arrival at a barrier (R312, R325): refused at the last generation. -/
def Obj.arrive (o : Obj) : Except Status Obj × Obj :=
  if o.arrivals + 1 ≥ o.param then
    (if o.value ≥ max64n then (.error .soOverflow, { o with ovf := true })
     else (.ok { o with arrivals := 0, value := o.value + 1 }, { o with arrivals := 0, value := o.value + 1 }))
  else (.ok { o with arrivals := o.arrivals + 1 }, { o with arrivals := o.arrivals + 1 })

/-- One operation on an object (R312, R313, R325), before any waiter is served: `c` and `pos` are who asks. -/
def Obj.apply (o : Obj) (op n c pos : Nat) : SoRes × Obj :=
  if o.broken then (.fail .poison, o)
  else if !soTakes o.type op || !soCountOk op n then (.fail .soRange, o)
  else
    match op with
    | 0 => if o.value + n > max32n then (.fail .soOverflow, { o with value := max32n, ovf := true }) else (.done 0, { o with value := o.value + n })
    | 1 => if o.value ≥ n then (.done 0, { o with value := o.value - n }) else (.wait (.count n), o)
    | 2 => if o.value ≥ n then (.done o.value, { o with value := o.value - n }) else (.done o.value, o)
    | 3 => (.done 0, { o with value := max o.value n })
    | 4 => if o.value ≥ n then (.done 0, o) else (.wait (.epoch n), o)
    | 5 => match o.arrive with
      | (.ok _, o') => (.done 0, o')
      | (.error st, o') => (.fail st, o')
    | 6 => match o.arrive with
      | (.ok a, o') => if a.value = o.value then (.wait (.generation o.value), o') else (.done 0, o')
      | (.error st, o') => (.fail st, o')
    | 7 => match o.holder with
      | none => (.done 0, { o with holder := some (c, pos), boosted := false })
      | some h => if h.1 = c then (.fail .soHeld, o) else (.wait .lock, o)
    | 8 => match o.holder with
      | none => (.done 1, { o with holder := some (c, pos), boosted := false })
      | some h => if h.1 = c then (.fail .soHeld, o) else (.done 0, o)
    | 9 => match o.holder with
      | none => (.fail .soNotHolder, o)
      | some h => if h.1 = c then (.done 0, { o with holder := none }) else (.fail .soNotHolder, o)
    | 10 => if o.value + n > max64n then (.done o.value, { o with value := max64n, ovf := true }) else (.done o.value, { o with value := o.value + n })
    | 11 => if o.value ≥ n && o.waits.isEmpty then (.done 0, { o with value := o.value - n }) else (.wait (.credit n), o)
    | 12 => if o.value + n > o.param then (.fail .soOverflow, { o with value := o.param, ovf := true }) else (.done 0, { o with value := o.value + n })
    | _ => (.done o.obValue, o)

/-! ## Boosts (R352, R353) -/

/-- Revert the boosted position of a lock's boost. -/
def State.boostEnd (s : State) (so : Nat) : State :=
  match s.boosts.find? fun b => b.so == so with
  | none => s
  | some b => ({ s with boosts := s.boosts.filter fun b => b.so != so } : State).posDo b.holder b.pos fun q => { q with boost := none }

/-- Apply an operation to an object (R315); a RELEASE ends the lock's boost (R353). -/
def State.soApply (s : State) (so op n c pos : Nat) : SoRes × State :=
  match kvGet so s.sos with
  | none => (.fail .soUnknown, s)
  | some o =>
    let r := o.apply op n c pos
    (r.1, (match op, r.1 with | 9, .done _ => s.boostEnd so | _, _ => s).soSet so r.2)

/-- The class of a lock's holder. -/
def State.holderClass (s : State) (h : Nat) : Nat := ((kvGet h s.ctxs).map Ctx.cls).getD 0

/-- The operation of a waiter: a SYNC operation, or the one whose transfer waits at its gate. -/
def State.waiterOp (s : State) (w : Waiter) : Option (Nat × Nat) :=
  match w with
  | .op c i => some (c, i)
  | .gate c up => (kvGet c s.ctxs).bind fun x => (if up then x.up else x.down).head?.map fun t => (c, t.op)

/-- The operation of a waiter ends with an environmental status: it leaves the engines, and what it had not committed is undefined (R296). -/
def State.endWaiter (s : State) (w : Waiter) (st : Status) : State :=
  match s.waiterOp w with
  | some (c, i) => (((s.tokensLost c i).abandonOp c i).outputsLost c i).opEnd c i st []
  | none => s

/-- Fail pending ACQUIREs on a lock with ST_WAIT_HOLDER_PREEMPTED (R353). -/
def State.failWaits (s : State) (so : Nat) (bad : Wait → Bool) : State :=
  match kvGet so s.sos with
  | none => s
  | some o =>
    let gone := o.waits.filter fun w => w.kind = .lock && bad w
    gone.foldl (fun s w => s.endWaiter w.who .waitHolderPreempted)
      ({ s with sos := kvSet so { o with waits := o.waits.filter fun w => !gone.contains w } s.sos } : State)

/-- Fail every pending ACQUIRE on a lock from a class above its holder's (R353). -/
def State.failAbove (s : State) (so h : Nat) : State := s.failWaits so fun w => decide (s.waiterClass w.who > h)

/-- Boost the saved position that holds a lock for the waiter of a pending ACQUIRE, if R352 lets it. -/
def State.boostStart (s : State) (so : Nat) (who : Waiter) : State :=
  match kvGet so s.sos, kvGet who.ctx s.ctxs with
  | some o, some x =>
    match o.holder with
    | none => s
    | some (h, p) =>
      match kvGet h s.ctxs with
      | none => s
      | some y =>
        let saved := match y.positions[p]? with | some q => !q.onCore | none => false
        let w := s.waiterClass who
        if !saved || y.suspended || o.boosted || !decide (y.cls < w) || x.boostUs = 0xFFFF
            || (match x.positions with | q :: _ => q.boost.isSome | [] => false) then s
        else
          let s := { s with sos := kvSet so { o with boosted := true } s.sos,
                            boosts := s.boosts ++ [Boost.mk so h p who.ctx w (if x.boostUs = 0 then 200 else x.boostUs) s.refCount] }
          let s := s.posDo h p fun q => { q with boost := some w }
          let s := s.post 0x0101 h (leBytes 2 so ++ leBytes 2 p ++ leBytes 1 w)
          match s.pos? h p with
          | some q =>
            if q.isSaved then
              let r := s.place1 h p w (fun _ => false) s.victimKey
              r.1.decideFrom (b2n r.2.2, r.2.1)
            else s.schedule
          | none => s
  | _, _ => s

/-- What an ACQUIRE that has just been issued meets at a lock held by a lower class (R352, R353): the failure that a suspended holder, or a saved one
whose boost is spent, gives at once; else a boost, where R352 lets it. -/
def State.boostCheck (s : State) (so : Nat) (who : Waiter) : State :=
  match (kvGet so s.sos).bind fun o => o.holder.map fun h => (o, h) with
  | none => s
  | some (o, h, p) =>
    match kvGet h s.ctxs with
    | none => s
    | some y =>
      let saved := match y.positions[p]? with | some q => !q.onCore | none => false
      let spent := saved && o.boosted && !(s.boosts.any fun b => b.so == so)
      if decide (y.cls < s.waiterClass who) && (y.suspended || spent) then s.failWaits so fun w => w.who == who
      else s.boostStart so who

/-! ## SYNC operations of a plan (R363, R471) -/

/-- Does an operation code return a value: TRYWAIT, TRYACQUIRE, FADD, READ (R312, R317)? -/
def syncReturns (op : Nat) : Bool := op == 2 || op == 8 || op == 10 || op == 13

/-- Write the value that a SYNC operation returns, when it names an address. -/
def State.syncResult (s : State) (c i : Nat) (f : SyncF) (v : Nat) : State :=
  if f.result = 0 ∨ !syncReturns f.op then s.opEnd c i .ok []
  else
    match s.vwrite c f.result (leBytes 8 v) with
    | .ok t => t.opEnd c i .ok []
    | .error e => s.opFault c i (.fault e)

/-- Put a wait on an object, with the timeout left. -/
def State.addWait (s : State) (so : Nat) (w : Wait) : State :=
  match kvGet so s.sos with
  | none => s
  | some o => { s with sos := kvSet so { o with waits := o.waits ++ [w] } s.sos }

/-- An operation meets a BROKEN object: its ST_POISON is environmental (R319). -/
def State.poisonMet (s : State) (c : Nat) (st : Status) : State := if st = .poison then s.unrecovered c else s

/-- A claim fails on its object (R74, R319): the operation ends; where the object is BROKEN the status is environmental, and what the operation has
written is undefined (R296; log 123). -/
def State.claimFailed (s : State) (c i : Nat) (st : Status) : State :=
  let t := (s.poisonMet c st).abandonOp c i
  (if st = .poison then t.outputsLost c i else t).opEnd c i st []

/-- Issue the operation's action on its object, with `left` microseconds of timeout. -/
def State.syncIssue (s : State) (c i : Nat) (f : SyncF) (left : Nat) : State :=
  let r := s.soApply f.so f.op f.n c 0
  match r.1 with
  | .done v => r.2.syncResult c i f v
  | .fail st => (r.2.poisonMet c st).opEnd c i st []
  | .wait k =>
    let s := r.2.addWait f.so { who := .op c i, kind := k, left := left, since := s.refCount }
    let s := s.progSet c i (.wait left)
    if f.op = 7 then s.boostCheck f.so (.op c i) else s

/-- A SYNC operation of one code, issued on position 0 (R471): it begins when it may; one whose wait was withdrawn by a save issues
again with the time it had left (R321). -/
def State.syncRun (s : State) (c i code : Nat) : State :=
  match s.opOf c i with
  | some (x, _, _, .sync f, q) =>
    if f.op != code || f.module != 0xFFFF then s
    else if s.mayIssue c i then (s.opBegin c i (.wait f.tmo)).syncIssue c i f f.tmo
    else if q.st = .begun && x.pos0 && !x.suspended && s.running then
      let pending : Bool := match kvGet f.so s.sos with
        | some o => o.waits.any (fun w => w.who == .op c i) || o.granted.contains (.op c i)
        | none => false
      if pending then s
      else
        match q.prog with
        | .wait left =>
          -- a saved ARRIVEWAIT has arrived: it waits for the generation that followed (R321)
          s.syncIssue c i f left
        | .signal g left =>
          (match kvGet f.so s.sos with
           | some o =>
             if o.broken then (s.unrecovered c).opEnd c i .poison []
             else if o.value != g then s.opEnd c i .ok []
             else s.addWait f.so { who := .op c i, kind := .generation g, left := left, since := s.refCount }
           | none => s)
        | _ => s
    else s
  | _ => s

/-- The microseconds of timeout that a wait has left (R320, R321); 0 where it has no timeout. -/
def Wait.remaining (w : Wait) (now : Nat) : Nat := if w.left = 0 then 0 else max 1 (w.left - (now - w.since) / 1000)

/-- What an operation keeps of its withdrawn wait (R321): the time left, and for an ARRIVEWAIT the generation in which it arrived. -/
def Wait.kept (w : Wait) (now : Nat) : Prog :=
  match w.kind with
  | .generation g => .signal g (w.remaining now)
  | .count _ | .epoch _ | .lock | .credit _ => .wait (w.remaining now)

/-- Withdraw the pending waits of a context's operations (R321): the time left stays with the operation; an ARRIVEWAIT keeps its
generation; the objects serve the waits that stay. -/
def State.withdrawWaits (s : State) (c : Nat) : State :=
  let mine := s.sos.flatMap fun o => o.2.waits
  let s := s.withdraw fun w => match w with | .op d _ => d == c | .gate _ _ => false
  mine.foldl (fun s w => match w.who with
    | .op d i => if d = c then s.progSet c i (w.kept s.refCount) else s
    | .gate _ _ => s) s

def execSyncSignal (c op : Nat) (s : State) : Host.Outcome State Fault Refusal := done (s.syncRun c op 0)
def execSyncWait (c op : Nat) (s : State) : Host.Outcome State Fault Refusal := done (s.syncRun c op 1)
def execSyncRaise (c op : Nat) (s : State) : Host.Outcome State Fault Refusal := done (s.syncRun c op 3)
def execSyncWaitge (c op : Nat) (s : State) : Host.Outcome State Fault Refusal := done (s.syncRun c op 4)
def execSyncArrive (c op : Nat) (s : State) : Host.Outcome State Fault Refusal := done (s.syncRun c op 5)
def execSyncArrivewait (c op : Nat) (s : State) : Host.Outcome State Fault Refusal := done (s.syncRun c op 6)
def execSyncAcquire (c op : Nat) (s : State) : Host.Outcome State Fault Refusal := done (s.syncRun c op 7)
def execSyncRelease (c op : Nat) (s : State) : Host.Outcome State Fault Refusal := done (s.syncRun c op 9)
def execSyncTake (c op : Nat) (s : State) : Host.Outcome State Fault Refusal := done (s.syncRun c op 11)
def execSyncReturn (c op : Nat) (s : State) : Host.Outcome State Fault Refusal := done (s.syncRun c op 12)

/-- WAITER_WAKE (R318): the wake of a granted wait reaches its waiter; a SYNC operation ends, a transfer's gate is acquired. -/
def execWaiterWake (so c : Nat) (s : State) : Host.Outcome State Fault Refusal :=
  done <|
    match kvGet so s.sos with
    | none => s
    | some o =>
      match o.granted.find? fun w => match w with | .op d _ => d == c | .gate d _ => d == c with
      | none => s
      | some w =>
        let s := { s with sos := kvSet so { o with granted := o.granted.erase w } s.sos }
        match w with
        | .op d i => s.opEnd d i .ok []
        | .gate d up =>
          s.ctxDo d fun x =>
            let g (l : List Xfer) : List Xfer := match l with
              | t :: r => { t with gated := true, waiting := false } :: r
              | [] => []
            if up then { x with up := g x.up } else { x with down := g x.down }

/-- SO_WAIT_TIMEOUT (R320): the withdrawal request of an expired timeout, while the waiting context is resident; a wait already
granted stands. -/
def execSoWaitTimeout (so c : Nat) (s : State) : Host.Outcome State Fault Refusal :=
  done <|
    match kvGet so s.sos, kvGet c s.ctxs with
    | some o, some x =>
      if !x.pos0 then s
      else
        match o.waits.find? fun w => (match w.who with | .op d _ => d == c | .gate _ _ => false) && w.left != 0 with
        | none => s
        | some w =>
          let s := s.soSet so { o with waits := o.waits.filter fun v => v.who != w.who }
          match w.who with
          | .op d i => ((s.unrecovered d).outputsLost d i).opEnd d i .waitTimeout []
          | .gate _ _ => s
    | _, _ => s

/-- An object becomes BROKEN: every pending operation on it fails with ST_POISON, which is environmental; a transfer that waited at it as its
gate leaves its queue with its operation (R319, R323). -/
def State.breakObj (s : State) (so : Nat) (o : Obj) : State :=
  let s := { s with sos := kvSet so { o with broken := true, waits := [] } s.sos }
  o.waits.foldl (fun s w => (s.unrecovered w.who.ctx).endWaiter w.who .poison) s

/-- SO_PARITY_ERROR (R319): the object is BROKEN, EV_SO_BROKEN, every pending operation fails with ST_POISON; the die's SO_PARITY
rises (R420). -/
def execSoParityError (so : Nat) (s : State) : Host.Outcome State Fault Refusal :=
  done <|
    match kvGet so s.sos with
    | none => s
    | some o =>
      let s := (s.detect (0x0100 + so / 2 ^ 14) 1).telAdd (0x0100 + so / 2 ^ 14) 9 1
      (s.post 0x0401 noCtx (leBytes 2 so)).breakObj so o

/-- BOOST_BUDGET_EXPIRE (R353): the budget has run out on the reference counter: pending ACQUIREs from a class above the holder's fail, the event, the
position reverts. -/
def execBoostBudgetExpire (so : Nat) (s : State) : Host.Outcome State Fault Refusal :=
  done <|
    match s.boosts.find? fun b => b.so == so with
    | none => s
    | some b =>
      if s.refCount < b.since + 1000 * b.budget then s
      else
      let s := s.post 0x0102 b.holder (leBytes 2 so ++ leBytes 2 b.pos)
      let s := s.failAbove so (s.holderClass b.holder)
      s.boostEnd so

/-! ## Host commands on objects (R310) -/

/-- Does an admitted plan name an object (R310)? -/
def opNames : PlanOp → List Nat
  | .matmul f => f.rangeSo.take (if f.rangeCount = 0 then 4 else f.rangeCount)
  | .sync f => if f.module = 0xFFFF then [f.so] else []
  | .optUpdate f => [f.claimSo]
  | .attention _ | .expert _ | .omtPack .. | .omtUnpack .. | .vector _ | .transfer .. | .stage _ | .tradeReduce .. | .tradeGather ..
  | .stepMark .. | .lullSnap _ | .traceMark .. => []

/-- Some admitted plan names the object, by its fields or in the transfer lists that it names (R193). -/
def State.planNames (s : State) (so : Nat) : Bool :=
  s.ctxs.any fun x => match x.2.plan with
    | some p => p.ops.any fun o => (opNames o).contains so || (s.transfersOf x.1 o).any fun t => t.gateSo == so || t.doneSo == so
    | none => false

/-- A new object (R310). -/
def Obj.fresh (f : SoFields) : Obj :=
  { type := f.type, domain := f.domain, remote := f.remote, param := f.param, value := f.init, arrivals := 0, holder := none,
    ovf := false, broken := false, waits := [], granted := [], boosted := false }

/-- SO_CREATE (R309, R310). -/
def execSoCreate (h : PktHead) (f : SoFields) (s : State) : Host.Outcome State Fault Refusal :=
  s.command h 0x0401 1 fun s =>
    let paramOk := match f.type with
      | 2 => decide (1 ≤ f.param ∧ f.param ≤ 65535)
      | 5 => decide (1 ≤ f.param ∧ f.param ≤ 2 ^ 63)
      | _ => f.param == 0
    guarded [(f.id == 0xFFFF || decide (f.type ≥ 6) || !paramOk || !soValueOk f.type f.param f.init, .soRange),
             ((kvGet f.id s.sos).isSome, .soExists)] s fun s =>
      (.ok, [], { s with sos := kvSet f.id (Obj.fresh f) s.sos })

/-- A command on an object that exists (R310). -/
def State.onObj (s : State) (h : PktHead) (code id : Nat) (body : Obj → State → Status × List Byte × State) :
    Host.Outcome State Fault Refusal :=
  s.command h code 1 fun s =>
    match kvGet id s.sos with
    | none => refuse .soUnknown s
    | some o => body o s

/-- SO_DESTROY (R310). -/
def execSoDestroy (h : PktHead) (id : Nat) (s : State) : Host.Outcome State Fault Refusal :=
  s.onObj h 0x0402 id fun o s =>
    guarded [(!o.waits.isEmpty || o.holder.isSome || s.planNames id, .soBusy)] s fun s =>
      (.ok, [], { s with sos := kvDel id s.sos })

/-- SO_READ (R310). -/
def execSoRead (h : PktHead) (id : Nat) (s : State) : Host.Outcome State Fault Refusal :=
  s.onObj h 0x0403 id fun o s =>
    (.ok, leBytes 1 o.type ++ leBytes 1 (b2n o.ovf + 2 * b2n o.broken) ++ leBytes 2 o.domain
      ++ leBytes 2 (match o.holder with | some x => x.1 | none => 0xFFFF) ++ leBytes 2 (match o.holder with | some x => x.2 | none => 0xFFFF)
      ++ leBytes 4 o.waits.length ++ leBytes 4 (if o.type = 2 then o.arrivals else 0) ++ leBytes 8 o.obValue ++ leBytes 8 o.param, s)

/-- SO_SIGNAL (R310, R312, R359): the codes SIGNAL, TRYWAIT, RAISE, ARRIVE, FADD and RETURN. -/
def execSoSignal (h : PktHead) (id op n : Nat) (s : State) : Host.Outcome State Fault Refusal :=
  s.onObj h 0x0404 id fun o s =>
    guarded [(!([0, 2, 3, 5, 10, 12].contains op), .paramRange),
             (!soTakes o.type op || !soCountOk op n, .soRange)] s fun s =>
      let r := s.soApply id op n 0 0
      match r.1 with
      | .done v => (.ok, if op = 2 ∨ op = 10 then leBytes 8 v else [], r.2)
      | .fail st => (st, [], r.2)
      | .wait _ => (.ok, [], r.2)

/-- SO_RESET (R310, R319): the value, both flags and the arrivals cleared. -/
def execSoReset (h : PktHead) (id value : Nat) (s : State) : Host.Outcome State Fault Refusal :=
  s.onObj h 0x0405 id fun o s =>
    guarded [(!soValueOk o.type o.param value, .soRange), (!o.waits.isEmpty || o.holder.isSome, .soBusy)] s fun s =>
      (.ok, [], s.soSet id { o with value := value, ovf := false, broken := false, arrivals := 0 })

end Sys2Proof.Machine
end

