-- ==== Sys2Proof/Machine/Links.lean ====
section
/-! DEFINITION. Units that protocols hand to ports, the ports that carry them (06_eddy_ring R160 and R164, 17_vauri_links R398 and R405), and the
units of the expert exchange (08_sparsity_and_experts R226 to R228). -/
namespace Sys2Proof.Machine

/-! ## Units and events -/

/-- Hand a unit to a port (R398): its virtual channel (R403), context, binding tag and bytes. -/
def State.sendUnit (s : State) (port vc ctx bind : Nat) (l : List Byte) : State :=
  { s with ports := s.ports.modify port fun p =>
      { p with txq := p.txq ++ [{ vc := vc, ctx := ctx, bind := bind, payload := l, signal := none, landed := none, poison := false }] } }

/-- Hand a block to a port (R187, R402): its bytes, and whether its content is poisoned. -/
def State.sendMarked (s : State) (port vc ctx bind : Nat) (l : List Byte) (bad : Bool) : State :=
  { s with ports := s.ports.modify port fun p =>
      { p with txq := p.txq ++ [{ vc := vc, ctx := ctx, bind := bind, payload := l, signal := none, landed := none, poison := bad }] } }

/-- Kinds of control messages, as the model writes them in the first byte (log 35). -/
def msgForm : Nat := 1
def msgSeal : Nat := 2
def msgSealed : Nat := 3
def msgOpen : Nat := 4
def msgCredit : Nat := 5
def msgResend : Nat := 6
def msgAmax : Nat := 7
def msgVerdict : Nat := 8
def msgRecord : Nat := 9
def msgFinal : Nat := 10
def msgGrant : Nat := 11

/-- A control message: kind, three zero bytes, content; its length is a multiple of 8 (R397). -/
def ctlMsg (kind : Nat) (l : List Byte) : List Byte := let b := leBytes 4 kind ++ l; padTo (alignUp b.length 8) b

/-- The common group payload (R417). -/
def groupData (tag reason port extra : Nat) : List Byte := leBytes 4 tag ++ leBytes 1 reason ++ leBytes 1 port ++ zeros 2 ++ leBytes 8 extra

/-! ## Ports (R160, R164) -/

/-- Does a port still carry traffic: UP, or in a retrain, which keeps its state (R401)? -/
def State.portAlive (s : State) (p : Nat) : Bool := match s.ports[p]? with | some q => q.state == 3 || (q.state == 2 && q.retrain) | none => false

/-- The port that an acknowledgement of what landed on `port` leaves on: its own, or where that has gone down another to the same module
(R404, R405; log 125). -/
def State.ackPort (s : State) (port : Nat) : Option Nat :=
  if s.portAlive port then some port
  else match s.ports[port]? with
    | none => none
    | some p => ((enumFrom 0 s.ports).find? fun q => s.portAlive q.1 && q.2.peerValid && q.2.peerId == p.peerId).map Prod.fst

/-- Queue an acknowledgement of what has landed (R404, R405). -/
def State.landAck (s : State) (port : Nat) (what : Landed) : State :=
  match s.ackPort port with
  | none => s
  | some q =>
    let u : TxUnit := { vc := 0, ctx := noCtx, bind := 0, payload := zeros 8, signal := none, landed := some what, poison := false }
    { s with ports := s.ports.modify q fun p => { p with txq := p.txq ++ [u] } }

/-- The bytes of a context's unit are visible: the first one of the channel that a port has received whole is acknowledged (R405). -/
def State.landed (s : State) (c vc : Nat) : State :=
  match (enumFrom 0 s.ports).find? fun p => p.2.toAck.contains (c, vc) with
  | none => s
  | some p =>
    ({ s with ports := s.ports.modify p.1 fun q => { q with toAck := q.toAck.erase (c, vc) } } : State).landAck p.1 (.unit c)

/-- The port for share `k` of `l`: its own while it is up, otherwise a surviving one in ascending port order (R160, R164). -/
def State.sharePort (s : State) (l : List Nat) (k : Nat) : Option Nat :=
  let own := nth l (k % max l.length 1)
  if s.portAlive own then some own
  else
    let up := (l.filter s.portAlive).mergeSort (· ≤ ·)
    up[k / max l.length 1 % max up.length 1]?

/-- The step of a context's run, 0 without one. -/
def State.runStep (s : State) (c : Nat) : Nat := match (kvGet c s.ctxs).bind Ctx.run with | some r => r.step | none => 0

/-! ## Management frames (R169, R176, R227, R259, R330, R369) -/

/-- Bytes of a context's page tables: the level-1 table, and a level-2 table for each 1 GiB that holds 2 MiB pages (R176). -/
def Ctx.tableBytes (x : Ctx) : Nat :=
  2 ^ 21 + 4096 * ((x.maps.filter fun m => !m.big).map fun m => m.va / gib).eraseDups.length

/-- Bytes of management frames in use: page tables and what admitted plans reserve, count areas, group state records, the three queues. -/
def State.framesUsed (s : State) : Nat :=
  (s.ctxs.map fun x => x.2.tableBytes + x.2.frames).sum + (s.expx.map fun g => 4096 * g.2.f.size).sum + 4096 * s.trade.length + 3 * 4096 * 64

/-- Do the frames 0 to 7 hold `n` bytes more? -/
def State.framesFit (s : State) (n : Nat) : Bool := decide (s.framesUsed + n ≤ 8 * gib)

/-! ## Expert exchange (R226 to R228) -/

/-- Kinds of exchange units, as the model writes them in the first byte (log 35). -/
def unitCount : Nat := 16
def unitRow : Nat := 17
def unitReturn : Nat := 18

/-- Send a unit or message of the exchange toward a member: to the successor, which passes it on. -/
def State.expxSend (s : State) (g : Expx) (vc kind : Nat) (m : ExpxMsg) (l : List Byte) (bad : Bool) : State :=
  match s.sharePort (g.f.portOut.take g.f.ports) m.dst with
  | none => s
  | some p => s.sendMarked p vc m.ctx m.tag (ctlMsg kind (leBytes 4 m.tag ++ leBytes 4 m.op ++ leBytes 2 m.src ++ leBytes 2 m.dst ++ l)) bad

/-- The landed row that holds a physical address, with its group (R228). -/
def State.rowAt (s : State) (c pa : Nat) : Option (Expx × RowAt) :=
  s.expx.findSome? fun g =>
    if g.1 / 2 ^ 32 = c ∧ g.2.form.state = 1 then
      (g.2.landed.find? fun w => w.spans.any fun r => decide (r.1 / 64 ≤ pa / 64 ∧ 64 * (pa / 64) < r.1 + r.2)).map fun w => (g.2, w)
    else none

/-- Ask for a landed row again, of its source or its owner (R228). -/
def State.askRow (s : State) (c : Nat) (g : Expx) (w : RowAt) : State :=
  s.expxSend g 0 msgResend { ctx := c, tag := g.f.tag, op := w.op, src := g.f.rank, dst := w.src }
    (leBytes 4 w.expert ++ leBytes 4 w.ordinal ++ leBytes 4 w.ret) false

end Sys2Proof.Machine
end

