-- ==== Sys2Proof/Machine/Contexts.lean ====
section
/-! DEFINITION. Context commands (14_contexts_and_preemption R332 to R334), seeds (R301), scheduling events, saves and restores
(R343 to R348). -/
namespace Sys2Proof.Machine

/-- Is a number a power of two from 64 to 65,536 (R326, R328)? -/
def slotsOk (n : Nat) : Bool := (List.range 11).any fun k => n == 2 ^ (k + 6)

/-- Does a submission ring obey R387: in the window at or above offset 0x1_0000, aligned, clear of every other ring? -/
def State.cqOk (s : State) (base slots : Nat) : Bool :=
  slotsOk slots && decide (cqWindow + 0x1_0000 ≤ base) && decide (base + 64 * slots ≤ cqWindow + 2 ^ 24) && decide (base % (64 * slots) = 0)
    && s.queues.all fun q => q.1 == 0 || decide (q.2.cqBase + 64 * q.2.cqSlots ≤ base) || decide (base + 64 * slots ≤ q.2.cqBase)

/-- May a reply ring lie in a region: memory a host can map, or the host window (R328)? -/
def Region.ringOk : Region → Bool
  | .inter | .local _ | .lp | .host => true
  | .mgmt | .hot | .core _ | .cq | .cfg | .none => false

/-- Does a reply ring obey R328? -/
def State.rqOk (s : State) (base slots : Nat) : Bool :=
  slotsOk slots && decide (base % 64 = 0) && (s.region base).ringOk && s.region base = s.region (base + 64 * slots - 1)

/-- A new context (R333): class, partition, domain, padding value, boost budget, seed 0 (R301). -/
def Ctx.new (f : CtxFields) (now : Nat) : Ctx :=
  { cls := f.cls, part := f.part, domain := f.domain, pad := f.pad, padNext := f.pad, boostUs := f.boostUs, seed := 0, seedNext := 0,
    suspended := false, noIssue := false, maps := [], plan := none, admitting := none, run := none, positions := [], tokens := [],
    frames := 0, down := [], up := [], xferSeq := 0, ringBroke := false,
    mark := { since := now, firstOp := 0, recovered := 0, envir := false, statuses := [] } }

/-- Queues as they start (R468). -/
def QueueRec.start (cqBase cqSlots rqBase rqSlots : Nat) : QueueRec :=
  { cqBase := cqBase, cqSlots := cqSlots, cqTail := 0, cqSeq := 1, rqBase := rqBase, rqSlots := rqSlots, rqHead := 0, rqErr := false,
    idle := 0, lastRetired := 0, retired := [], bell := false }

/-- CTX_CREATE (R332, R333, R387, R468): the IDLE item at reply slot 0 stands before its reply. -/
def execCtxCreate (h : PktHead) (f : CtxFields) (s : State) : Host.Outcome State Fault Refusal :=
  s.command h 0x0101 1 fun s =>
    guarded [((kvGet f.id s.ctxs).isSome, .ctxExists),
             (f.id == 0 || decide (f.id ≥ 1024) || f.domain == 0 || decide (f.part ≥ 3) || !s.cqOk f.cqBase f.cqSlots
                || !s.rqOk f.rqBase f.rqSlots, .ctxRange)] s fun s =>
      let s := { s with ctxs := kvSet f.id (Ctx.new f s.refCount) s.ctxs,
                        queues := kvSet f.id (QueueRec.start f.cqBase f.cqSlots f.rqBase f.rqSlots) s.queues }
      (.ok, [], s.physWrite f.rqBase (idleItem 0))

/-- A command that names a context (R332): context 0 is outside the field's range (R355). -/
def State.onCtx (s : State) (h : PktHead) (code slots id : Nat) (bad0 : Status) (body : Ctx → State → Status × List Byte × State) :
    Host.Outcome State Fault Refusal :=
  s.command h code slots fun s =>
    if id = 0 then refuse bad0 s
    else
      match kvGet id s.ctxs with
      | none => refuse .ctxUnknown s
      | some x => body x s

/-- Drop a use reference of a context (R201): the release stamp is taken when the last reference or pin goes (R202). -/
def State.dropRefs (s : State) (c : Nat) : State :=
  { s with models := s.models.map fun m =>
      let refs := m.2.refs.filter fun r => r.1 != c
      (m.1, if m.2.refs.length != refs.length && refs.isEmpty && m.2.pins == 0 then { m.2 with refs := refs, stamp := s.refCount, used := true }
            else { m.2 with refs := refs }) }

/-- Write the image of a position that is being saved (R345 step 3). -/
def State.saveImage (s : State) (c p core part : Nat) (x : Ctx) (q : Position) : State :=
  (s.writeImage c p core part x q).posDo c p fun q => { q with place := .saving core part 2, imgSeq := q.imgSeq + 1 }

/-- The position is saved (R345 step 5): trace point 3. -/
def State.markSaved (s : State) (c p core : Nat) : State :=
  ((s.posDo c p fun q => { q with place := .saved, image := true, byQuantum := false, restoreDue := false }).trace 3 c (leBytes 2 p ++ leBytes 2 core)).turnBack core

/-- A save in progress completes (R334 step 1). -/
def State.finishSave (s : State) (c p : Nat) : State :=
  match s.pos? c p, kvGet c s.ctxs with
  | some q, some x =>
    match q.place with
    | .saving core part ph => (if ph = 2 then s else s.saveImage c p core part x q).markSaved c p core
    | .saved => s
    | .waiting .. => s
    | .restoring .. => s
    | .resident .. => s
  | _, _ => s

/-- Take a context's positions off their cores (R334 step 1): saves in progress complete, and the cores' channels turn back. -/
def State.dropPlaces (s : State) (c : Nat) (x : Ctx) : State :=
  let s := (List.range x.positions.length).foldl (fun s p => s.finishSave c p) s
  let s := (List.range x.positions.length).foldl (fun s p => s.posDo c p fun q => { q with place := .saved }) s
  x.cores.foldl State.turnBack s

/-- The sector is rewritten as poisoned (R185 step 4): the event, the counter, and what comes of it is environmental (R296). -/
def State.poisonSector (s : State) (c u sector : Nat) : State :=
  let sound := if s.poison.contains sector then s.sound else insNat sector s.sound
  (((({ s.setPoison sector with sound := sound } : State).markHw sector).unrecovered c).telAdd u 10 1).post 0x0202 noCtx
    (leBytes 8 (sector * 64) ++ leBytes 1 (if s.region (sector * 64) = .lp then 1 else 0))

/-- The sectors of expert rows that will not come again stay bad (R185 step 4, R228). -/
def State.dropRows (s : State) (c : Nat) : State :=
  (s.rowDue.filter fun b => b.1 == c).foldl (fun s b => s.poisonSector c ((s.memUnit (b.2 * 64)).getD 0) b.2)
    { s with rowDue := s.rowDue.filter fun b => b.1 != c }

/-- The sectors that wait for a rebuild of a context's tensors stay bad: no plan is left to rebuild them (R185 step 4). -/
def State.dropRebuilds (s : State) (c : Nat) : State :=
  (s.rebuild.filter fun b => b.1 == c).foldl (fun s b => s.poisonSector c ((s.memUnit (b.2 * 64)).getD 0) b.2)
    { s with rebuild := s.rebuild.filter fun b => b.1 != c }

/-- The end of an admission (R359, R201, R192, R339): placement, save areas, tier-2 area, model references, micro-programs, engine
records. -/
def State.releasePlan (s : State) (c : Nat) : State :=
  match kvGet c s.ctxs with
  | none => s
  | some x =>
    let areas := x.positions.map Position.area
    let homes := x.tokens.map Token.home
    let s := (((s.dropPlaces c x).dropRebuilds c).dropRows c).dropRefs c
    let s := { s with
      saveUsed := s.saveUsed.filter fun u => !areas.contains u.2.1
      lpUsed := s.lpUsed.filter fun u => !homes.contains u.1
      mpStore := s.mpStore.filter fun m => m.1 / 64 != c
      tiles := s.tiles.filter fun t => t.1 / 1024 != c
      att := s.att.filter fun t => t.1 / 1024 != c
      vec := s.vec.filter fun t => t.1 / 1024 != c
      sfu := kvMap (fun _ f => { f with reqs := f.reqs.filter (fun q => q.ctx != c),
                                        granted := f.granted.filter fun g => g.req.ctx != c }) s.sfu }
    (s.ctxDo c fun x =>
      let maps := x.maps.filter fun m => !m.hot
      { x with plan := none, admitting := none, run := none, positions := [], tokens := [], frames := 0, down := [], up := [], maps := maps }).settle

/-- Free the locks of a context that is destroyed (R313). -/
def State.abandonLocks (s : State) (c : Nat) : State :=
  s.sos.foldl
    (fun s e => match e.2.holder with
      | some (h, _) => if h = c then
          (match kvGet e.1 s.sos with
           | some o => (s.soSet e.1 { o with holder := none }).post 0x0402 c (leBytes 2 e.1)
           | none => s)
          else s
      | none => s) s

/-- Does a group, ring or queue name the context (R332)? -/
def State.named (s : State) (c : Nat) : Bool :=
  s.eddy.any (fun g => g.1 / 2 ^ 32 == c) || s.trade.any (fun g => g.1 / 2 ^ 32 == c) || s.expx.any (fun g => g.1 / 2 ^ 32 == c)
    || s.stageQ.any (fun g => g.1 / 2 ^ 32 == c)

/-- A packet of a context that no longer exists: no queue takes its reply. -/
def orphan (id : Nat) (h : PktHead) : PktHead := if h.queue = id then { h with queue := noCtx } else h

/-- A formation whose create came from such a context. -/
def Form.orphan (id : Nat) (f : Form) : Form := { f with pkt := f.pkt.map fun p => (Machine.orphan id p.1, p.2) }

/-- The packets of a destroyed context that still wait somewhere are answered nowhere (R376); what they began goes on. -/
def State.orphans (s : State) (id : Nat) : State :=
  { s with
    models := kvMap (fun _ m => { m with waiting := m.waiting.map fun w => (orphan id w.1, w.2) }) s.models
    eddy := kvMap (fun _ g => { g with form := g.form.orphan id }) s.eddy
    trade := kvMap (fun _ g => { g with form := g.form.orphan id }) s.trade
    expx := kvMap (fun _ g => { g with form := g.form.orphan id }) s.expx
    stageQ := kvMap (fun _ g => { g with form := g.form.orphan id }) s.stageQ
    fw := { s.fw with
      waiting := s.fw.waiting.map fun w => (orphan id w.1, w.2)
      store := s.fw.store.map fun st => match st.owner with
        | .host h since op => { st with owner := .host (orphan id h) since op }
        | _ => st } }

/-- CTX_DESTROY (R332, R334, R313, R376). -/
def execCtxDestroy (h : PktHead) (id : Nat) (s : State) : Host.Outcome State Fault Refusal :=
  s.onCtx h 0x0102 1 id .paramRange fun _ s =>
    guarded [(s.named id, .ctxBusy)] s fun s =>
      let s := s.withdraw fun w => w.ctx == id
      let s := { s with
        sos := kvMap (fun _ o => { o with granted := o.granted.filter fun w => !(w.ctx == id) }) s.sos
        rsWait := s.rsWait.filter fun w => w.ctx != id }
      let s := (s.boosts.filter fun b => b.holder == id || b.waiter == id).foldl (fun s b => s.boostEnd b.so) s
      let s := s.abandonLocks id
      let s := (s.releasePlan id).orphans id
      (.ok, [], { s with ctxs := kvDel id s.ctxs, queues := kvDel id s.queues,
                         accepted := s.accepted.filter (fun a => a.head.queue != id), held := s.held.filter (fun a => a.head.queue != id) })

/-- The boosted position of a context and its lock (R333, R352). -/
def State.boostOf (s : State) (c : Nat) : Nat × Nat :=
  match s.boosts.find? fun b => b.holder == c with
  | some b => (b.pos, b.so)
  | none => (0xFFFF, 0xFFFF)

/-- CTX_QUERY (R333). -/
def execCtxQuery (h : PktHead) (id : Nat) (s : State) : Host.Outcome State Fault Refusal :=
  s.onCtx h 0x0103 2 id .paramRange fun x s =>
    match kvGet id s.queues with
    | none => refuse .ctxUnknown s
    | some q =>
      let st := match s.ctxState id with | .idle => 0 | .runnable => 1 | .suspended => 2
      let locks := s.sos.filter fun o => match o.2.holder with | some (c, _) => c == id | none => false
      let spent := locks.any fun o => o.2.boosted && !(s.boosts.any fun b => b.so == o.1)
      let flags := b2n x.plan.isSome + 2 * b2n (!locks.isEmpty) + 4 * b2n (s.boosts.any fun b => b.holder == id) + 8 * b2n spent
      let bp := s.boostOf id
      (.ok, leBytes 2 id ++ leBytes 1 x.cls ++ leBytes 1 x.part ++ leBytes 2 x.domain ++ leBytes 2 x.boostUs ++ leBytes 4 x.pad.toNat
        ++ leBytes 4 q.cqSlots ++ leBytes 8 q.cqBase ++ leBytes 8 q.rqBase ++ leBytes 4 q.rqSlots ++ leBytes 1 st ++ leBytes 1 flags
        ++ zeros 2 ++ leBytes 2 (if x.plan.isSome then x.positions.length else 0) ++ leBytes 2 (x.positions.filter fun q => q.resident?.isSome).length
        ++ leBytes 2 (x.positions.filter fun q => q.spilled).length ++ leBytes 2 bp.1 ++ leBytes 2 bp.2 ++ zeros 46, s)

/-- CTX_SET (R332, R333): bit i of CS_MASK applies the i-th field; a scheduling decision follows (R341). -/
def execCtxSet (h : PktHead) (id cls : Nat) (pad : W32) (boostUs mask : Nat) (s : State) : Host.Outcome State Fault Refusal :=
  s.onCtx h 0x0104 1 id .ctxRange fun _ s =>
    guarded [(decide (cls ≥ 4) || decide (boostUs ≥ 65536), .ctxRange)] s fun s =>
      let s := s.ctxDo id fun x =>
        { x with cls := if bitOf mask 0 then cls else x.cls, padNext := if bitOf mask 1 then pad else x.padNext,
                 boostUs := if bitOf mask 2 then boostUs else x.boostUs }
      (.ok, [], s.schedule)

/-- CTX_SUSPEND (R344): every resident position is saved; a suspended holder fails the ACQUIREs above its class, and its boost ends (R353). -/
def execCtxSuspend (h : PktHead) (id : Nat) (s : State) : Host.Outcome State Fault Refusal :=
  s.onCtx h 0x0105 1 id .paramRange fun x s =>
    guarded [(x.suspended, .ctxState)] s fun s =>
      let s := s.ctxDo id fun x => { x with suspended := true }
      let s := (List.range x.positions.length).foldl (fun s p => s.orderSave id p) s
      let locks := (s.sos.filter fun o => match o.2.holder with | some (c, _) => c == id | none => false).map Prod.fst
      let s := locks.foldl (fun s so => (s.failAbove so x.cls).boostEnd so) s
      (.ok, [], s.schedule)

/-- CTX_RESUME (R332, R344). -/
def execCtxResume (h : PktHead) (id : Nat) (s : State) : Host.Outcome State Fault Refusal :=
  s.onCtx h 0x0106 1 id .paramRange fun x s =>
    guarded [(!x.suspended, .ctxState)] s fun s =>
      (.ok, [], (s.ctxDo id fun x => { x with suspended := false }).schedule)

/-- KCG_SET (R301): the seed takes effect at the next plan step. -/
def execKcgSet (h : PktHead) (id : Nat) (seed : W64) (s : State) : Host.Outcome State Fault Refusal :=
  s.onCtx h 0x0110 1 id .paramRange fun _ s => (.ok, [], s.ctxDo id fun x => { x with seedNext := seed })

/-! ## Quantum, save, restore -/

/-- SCHED_QUANTUM_US in force (R343, R360). -/
def State.quantumUs (s : State) : Nat := nth s.cfgCur 4

/-- May a resident position be a quantum victim (R343): a runnable context of the same class, and not one that a quantum decision
restored less than a quantum ago? -/
def State.quantumOk (s : State) (c cls : Nat) (o : Occ) : Bool :=
  !(o.ctx == c) && s.ctxState o.ctx = .runnable &&
    match kvGet o.ctx s.ctxs, o.q.place with
    | some y, .resident _ _ since => posClass y o.q == cls && (!o.q.byQuantum || decide (since + 1000 * s.quantumUs ≤ s.refCount))
    | _, _ => false

/-- Quantum victims: longest resident first, equal times to the higher context (R343), then the highest position. -/
def quantumKey (o : Occ) : List Nat :=
  match o.q.place with
  | .resident _ _ since => [since, 1024 - o.ctx, 1024 - o.pos]
  | .saved => []
  | .waiting .. => []
  | .restoring .. => []
  | .saving .. => []

/-- Has a saved position waited a quantum for a partition (R343)? -/
def State.quantumDue (s : State) (q : Position) : Bool :=
  q.isSaved && q.quantum.any fun t => decide (t + 1000 * s.quantumUs ≤ s.refCount)

/-- QUANTUM_EXPIRE (R343): a runnable context that has waited a quantum takes victims of its own class, after those of R342. -/
def execQuantumExpire (c : Nat) (s : State) : Host.Outcome State Fault Refusal :=
  done <|
    match kvGet c s.ctxs with
    | none => s
    | some x =>
      if s.quantumUs = 0 || !decide (s.ctxState c = .runnable) || !s.running || !(x.positions.any s.quantumDue) then s
      else
        let key (o : Occ) : List Nat := if s.victimOk x.cls c o then 0 :: s.victimKey o else 1 :: quantumKey o
        let t := (enumFrom 0 x.positions).foldl
          (fun (a : State × Nat × Nat) pq =>
            if s.quantumDue pq.2 then
              let r := a.1.place1 c pq.1 (posClass x pq.2) (fun o => s.quantumOk c x.cls o) key
              if r.2.2 then (r.1.posDo c pq.1 fun q => { q with byQuantum := true }, a.2.1 + 1, a.2.2 + r.2.1) else (r.1, a.2)
            else a) (s, 0, 0)
        t.1.decideFrom t.2

/-- A save order withdraws the SFU requests of a position that are not granted, and abandons its attention step (R104, R346): they are
issued again after the restore. -/
def State.sfuWithdraw (s : State) (core c p : Nat) : State :=
  let f := kvGetD core s.sfu { ptr := 0, reqs := [], granted := [] }
  let s := { s with
    sfu := kvMap (fun k f => if k = core then { f with reqs := f.reqs.filter fun r => !(r.ctx == c && r.pos == p) } else f) s.sfu
    att := kvMap (fun k w => if k = ckey c p then { w with sfu := none } else w) s.att }
  if p ≠ 0 then s
  else
    match (kvGet c s.ctxs).bind Ctx.run with
    | none => s
    | some r => (enumFrom 0 r.ops).foldl
        (fun s o => match o.2.prog with
          | .vec v => s.progSet c o.1 (.vec { v with streams := (enumFrom 0 v.streams).map fun t =>
              { t.2 with waitSfu := t.2.waitSfu && f.granted.any fun g => g.req.ctx == c && !g.req.att && g.req.stream == t.1 } })
          | .none | .mat _ | .att _ | .exp _ | .upd _ | .wait _ | .signal .. => s) s

/-- SAVE_ORDER (R345 step 1, R414): the order reaches the core; each failed try of the message raises MN_RETRY, and eight put the
module into halt (R415). Pending waits are withdrawn (R321), ungranted SFU requests too (R104). -/
def execSaveOrder (c p : Nat) (tries : MsgTries) (s : State) : Host.Outcome State Fault Refusal :=
  done <|
    match s.pos? c p with
    | none => s
    | some q =>
      match q.place with
      | .saving core part ph =>
        if ph != 0 || s.halted then s
        else
          s.mgmt (0x0100 + core / 48) tries fun s =>
            let s := (s.posDo c p fun q => { q with place := .saving core part 1 }).sfuWithdraw core c p
            if p = 0 then
              let s := s.withdrawWaits c
              { s with rsWait := s.rsWait.filter fun w => w.ctx != c }
            else s
      | .saved => s
      | .waiting .. => s
      | .restoring .. => s
      | .resident .. => s

/-- Have position 0's object waits that were granted retired (R346)? -/
def State.wakesDone (s : State) (c p : Nat) : Bool :=
  p ≠ 0 || !(s.sos.any fun o => o.2.granted.any fun w => match w with | .op d _ => d == c | .gate .. => false)

/-- SAVE_DRAIN_COMPLETE (R345 steps 2 and 3, R346, R18): once the granted SFU requests of the core have completed and granted object waits have
retired, both channels turn outbound, and the image is written. A channel that another partition's restore holds turns when that is done. -/
def execSaveDrainComplete (c p : Nat) (s : State) : Host.Outcome State Fault Refusal :=
  done <|
    match s.pos? c p, kvGet c s.ctxs with
    | some q, some x =>
      match q.place with
      | .saving core part ph =>
        if ph != 1 || s.halted || !s.drained core || !s.wakesDone c p || !s.mayStore core then s
        else (s.turn core .outbound).saveImage c p core part x q
      | .saved => s
      | .waiting .. => s
      | .restoring .. => s
      | .resident .. => s
    | _, _ => s

/-- The restore of a position that a decision ordered during its save (R350): it is placed now, if its context is still runnable. -/
def State.restoreNow (s : State) (c p : Nat) (due : Bool) : State :=
  if due && s.ctxState c = .runnable && s.calm.isNone then (s.placeAll c [p] (0, 0)).1 else s

/-- A position that holds locks has become saved: the pending ACQUIREs on them from above its class boost it (R352). -/
def State.boostHeld (s : State) (c p : Nat) : State :=
  s.sos.foldl (fun s o =>
    if o.2.holder ≠ some (c, p) then s
    else match (o.2.order s.waiterClass).find? fun w => w.kind = .lock with
      | some w => if s.boosts.any fun b => b.so == o.1 then s else s.boostStart o.1 w.who
      | none => s) s

/-- SAVE_COMPLETE (R345 step 5): the position is saved and the partition free; trace point 3; waiting positions take it, a restore that waited for the
save is ordered (R350), and a lock's holder may be boosted (R352). -/
def execSaveComplete (c p : Nat) (s : State) : Host.Outcome State Fault Refusal :=
  done <|
    match s.pos? c p with
    | none => s
    | some q =>
      match q.place with
      | .saving core _ ph =>
        if ph != 2 || s.halted then s
        else
          let s := s.markSaved c p core
          -- link-credit reservations that no started unit is spending return to their pools when the context counts as saved (R351)
          let s := if ((kvGet c s.ctxs).map Ctx.countsSaved).getD false then
              { s with ports := s.ports.map fun t =>
                  { t with reserved := t.reserved.filter fun r => r.1 != c || t.txq.any fun u => u.ctx == c && u.vc == r.2.1 && u.sent != 0 } } else s
          (s.settle.restoreNow c p q.restoreDue).boostHeld c p
      | .saved => s
      | .waiting .. => s
      | .restoring .. => s
      | .resident .. => s

/-- RESTORE_ORDER (R348 steps 1 to 3, R18, R414): the restore reaches the core, which reloads the plan's micro-programs and turns both channels
inbound once the core has drained; its SFU pointer resets (R104). A channel that another partition's save holds turns when that is done. -/
def execRestoreOrder (c : Nat) (to_ : OrderTo) (s : State) : Host.Outcome State Fault Refusal :=
  let p := to_.pos
  done <|
    match s.pos? c p with
    | none => s
    | some q =>
      match q.place with
      | .restoring core part ordered =>
        if ordered || s.halted || !s.drained core || !s.mayLoad core then s
        else
          s.mgmt (0x0100 + core / 48) to_.tries fun s =>
          let s := (s.posDo c p fun q => { q with place := .restoring core part true }).turn core .inbound
          { s with sfu := s.sfu.map fun f => if f.1 = core then (f.1, { f.2 with ptr := 0 }) else f }
      | .saved => s
      | .waiting .. => s
      | .resident .. => s
      | .saving .. => s

/-- Has a sector a source (R185): a clean hot-set slot its model's home, data of an Updraft its token while held? -/
def State.hasSource (s : State) (pa : Nat) : Bool :=
  if s.region pa = .hot then
    s.models.any fun m => m.2.slots.contains (pa / gib) && !m.2.dirty.contains (pa / gib) && m.2.state != 0
  else
    s.ctxs.any fun x => x.2.tokens.any fun t => t.state == 2 && t.placed.any fun p => decide (p.1 ≤ pa ∧ pa < p.1 + p.2)

/-- Does a physical address lie in a tensor of the context's plan that declares a rebuild segment (R186)? -/
def State.rebuilds (s : State) (c pa : Nat) : Bool :=
  match kvGet c s.ctxs with
  | none => false
  | some x => match x.plan with
    | none => false
    | some p => p.tensors.any fun d => d.2.rebuildCount != 0 && d.2.ranges.any fun r =>
        match vspans x.maps false r.1 r.2 with
        | .ok ps => ps.any fun q => decide (q.1 ≤ pa ∧ pa < q.1 + q.2)
        | .error _ => false

/-- A sector of a landed expert row is asked for again: it waits for the row (R228). -/
def State.rowRefetch (s : State) (c sector : Nat) (w : Expx × RowAt) : State :=
  (({ s with rowDue := s.rowDue ++ [(c, sector)] } : State).recovered c).askRow c w.1 w.2

/-- SECTOR_RECOVERY (R184, R185, R413) for one error that context `c` meets, by its syndrome: a syndrome of 0 is a good read, 0x5A5A reads
as poison; any other value is a detected error: re-read, refill, a landed expert row that is asked for again (R228), a rebuild that waits for TENSOR_REBUILD where the sector's tensor
declares a segment, or poison. A staged operand's scratchpad word is fetched again from memory (R189). -/
def State.sectorRecovery (s : State) (c : Nat) (e : SectorErr) : State :=
  let pa := e.sector * 64
  match s.memUnit pa with
  | none =>
    match s.region pa with
    | .core k => ((s.detect k 1).telAdd k 11 1).recovered c
    | _ => s
  | some u =>
    if e.syndrome = 0 || (s.rebuild ++ s.rowDue).any (fun b => b.2 == e.sector) then s
    else if e.syndrome = 0x5A5A then ((s.setPoison e.sector).markHw e.sector).unrecovered c
    else
      let s := s.detect u 1
      if e.fails ≤ 2 then (s.telAdd u 8 1).recovered c
      else if s.hasSource pa && e.sourceOk then (s.telAdd u 9 1).recovered c
      else if let some w := s.rowAt c pa then s.rowRefetch c e.sector w
      else
        let dirty := s.models.find? fun m => m.2.dirty.contains (pa / gib) && s.region pa = .hot
        let s := match dirty with
          | some m => s.post 0x0601 noCtx (leBytes 2 m.1 ++ zeros 6 ++ leBytes 8 pa)
          | none => s
        if s.rebuilds c pa then { s with rebuild := s.rebuild ++ [(c, e.sector)] } else s.poisonSector c u e.sector

/-- Does a sector lie in the scratchpad of a core where the context is resident? -/
def State.inOwnCore (s : State) (c sector : Nat) : Bool :=
  match kvGet c s.ctxs with
  | none => false
  | some x => x.positions.any fun q => match q.resident? with
    | some k => decide (s.region (sector * 64) = .core k.1)
    | none => false

/-- The errors of a reading step that lie in the ranges it reads. -/
def inSpans (ps : List (Nat × Nat)) (e : SectorErr) : Bool := ps.any fun p => decide (p.1 / 64 ≤ e.sector ∧ e.sector * 64 < p.1 + p.2)

/-- A reading step's errors over its physical spans. -/
def State.recoverErrs (s : State) (c : Nat) (ps : List (Nat × Nat)) (errs : List SectorErr) : State :=
  (errs.filter fun e => inSpans ps e || s.inOwnCore c e.sector).foldl (fun s e => s.sectorRecovery c e) s

/-- A host-window read that failed (R185 step 4, R380, R383): detected at the UCIe adapter and posted. -/
def State.hostReadFail (s : State) (sector : Nat) : State :=
  (s.detect 0x0141 1).post 0x0202 noCtx (leBytes 8 (64 * sector) ++ leBytes 1 3)

/-- Issue the reads for the parts that are neither delivered nor on their way (R383). -/
def State.hostAsk (s : State) (parts : List (Nat × Nat)) : State :=
  parts.foldl (fun s q => if s.hi.got.contains q || s.hi.reads.any (fun r => r.2.1 == q.1 && r.2.2.1 == q.2) then s else s.hostRead1 q.1 q.2 0) s

/-- The host-window spans of a read (R383): where completions have brought every part the reader takes them; otherwise the reads go out and the
reader waits. Over a lost link every sector is a detected error with no source (R380), and what comes of it is environmental (R296). -/
def State.hostSpans (s : State) (c : Nat) (ps : List (Nat × Nat)) : State :=
  let host := ps.filter fun p => s.region p.1 == .host
  if host.isEmpty then s
  else if s.linkLost then host.foldl (fun s p => (sectorsOf p.1 p.2).foldl (fun s k => s.hostReadFail k) s) (s.unrecovered c)
  else
    let parts := host.flatMap fun p => s.hostParts (p.1 - hostBase) p.2
    if parts.all s.hi.got.contains then
      { s with hi := { s.hi with got := s.hi.got.filter fun q => !parts.contains q, want := s.hi.want.filter fun w => !host.contains w } }
    else
      let s := s.hostAsk parts
      { s with hi := { s.hi with want := s.hi.want ++ host.filter fun w => !s.hi.want.contains w } }

/-- What a reading step meets on its physical spans: errors, and the host window (R185, R380, R383). -/
def State.recover (s : State) (c : Nat) (ps : List (Nat × Nat)) (errs : List SectorErr) : State := (s.recoverErrs c ps errs).hostSpans c ps

/-- Is every byte of a sector within some of these spans? -/
def wholeIn (ps : List (Nat × Nat)) (sector : Nat) : Bool :=
  (List.range 64).all fun b => ps.any fun p => decide (p.1 ≤ 64 * sector + b ∧ 64 * sector + b < p.1 + p.2)

/-- A writing step's errors: a sector that its writes cover only in part is read first (R188). -/
def State.recoverPartial (s : State) (c : Nat) (ps : List (Nat × Nat)) (errs : List SectorErr) : State :=
  s.recoverErrs c ps (errs.filter fun e => inSpans ps e && !wholeIn ps e.sector)

/-- Does some sector of these spans wait for a rebuild, for an expert row that has been asked for again, or for the host's completions (R383)? -/
def State.rebuildDue (s : State) (ps : List (Nat × Nat)) : Bool :=
  s.hostDue ps || (s.rebuild ++ s.rowDue).any fun b => ps.any fun p => decide (p.1 / 64 ≤ b.2 ∧ b.2 * 64 < p.1 + p.2)

/-- RESTORE_COMPLETE (R348): the image's sectors and header are checked; the position is resident and its streams resume, or every
operation in progress ends with ST_POISON, its outputs undefined (R296), and the context issues no further operation. A save order that came
meanwhile takes effect (R350). -/
def execRestoreComplete (c p : Nat) (errs : List SectorErr) (s : State) : Host.Outcome State Fault Refusal :=
  done <|
    match s.pos? c p, kvGet c s.ctxs with
    | some q, some x =>
      match q.place with
      | .restoring core part ordered =>
        if !ordered || s.halted then s
        else
          let n := imageBytes x.part
          let s := s.recover c [(q.area, n)] errs
          let bad := (s.firstPoison q.area n).isSome
          if bad || !s.headerOk c p x.part q then
            let s := (s.ctxDo c fun x => { x with noIssue := true }).unrecovered c
            let s := (s.posDo c p fun q => { q with place := .saved }).turnBack core
            let ops : List Nat := match x.run with
              | none => []
              | some r => ((enumFrom 0 r.ops).filter fun o => o.2.st = .begun).map Prod.fst
            let s := s.post 0x0103 c (leBytes 2 p ++ leBytes 1 (if bad then 0 else 1))
            let s := ops.foldl (fun s i => (((s.tokensLost c i).abandonOp c i).outputsLost c i).opEnd c i .poison []) s
            let rest : List Nat := match (kvGet c s.ctxs).bind Ctx.run with
              | none => []
              | some r => ((enumFrom 0 r.ops).filter fun o => o.2.st = .pending).map Prod.fst
            ((rest.foldl (fun s i => s.notIssue c i) s).runEnd c).settle
          else
            let s := s.readImage c p core part x q
            let s := s.trace 4 c (leBytes 2 p ++ leBytes 2 core)
            let s := s.posDo c p fun q =>
              { q with place := if q.saveDue then .saving core part 0 else .resident core part s.refCount, saveDue := false }
            s.turnBack core
      | .saved => s
      | .waiting .. => s
      | .resident .. => s
      | .saving .. => s
    | _, _ => s

/-! ## SYNC operations that return a value (R312, R363) -/

/-- Before a SYNC operation begins: the sector of the 8 bytes that it writes in part is read first (R185, R188). -/
def State.resultRecover (s : State) (c : Nat) (at_ : OpAt) : State :=
  match s.opOf c at_.op with
  | some (_, p, _, o, _) => if s.mayIssue c at_.op then s.recoverPartial c (s.physSpans c (opWrites p o)) at_.errs else s
  | none => s

/-- SYNC_TRYWAIT, SYNC_TRYACQUIRE, SYNC_FADD and SYNC_READ (R312, R317). -/
def execSyncTrywait (c : Nat) (at_ : OpAt) (s : State) : Host.Outcome State Fault Refusal := done ((s.resultRecover c at_).syncRun c at_.op 2)
def execSyncTryacquire (c : Nat) (at_ : OpAt) (s : State) : Host.Outcome State Fault Refusal := done ((s.resultRecover c at_).syncRun c at_.op 8)
def execSyncFadd (c : Nat) (at_ : OpAt) (s : State) : Host.Outcome State Fault Refusal := done ((s.resultRecover c at_).syncRun c at_.op 10)
def execSyncRead (c : Nat) (at_ : OpAt) (s : State) : Host.Outcome State Fault Refusal := done ((s.resultRecover c at_).syncRun c at_.op 13)

end Sys2Proof.Machine
end

