-- ==== Sys2Proof/Machine/Memory.lean ====
section
/-! DEFINITION. Memory commands, transfers between the tiers and the model cache (07_memory_tiers, 15_command_protocol R359). -/
namespace Sys2Proof.Machine

/-! ## Mapping (R178, R179, R469) -/

/-- A command that names a context in MM_CONTEXT (R469). -/
def State.onMem (s : State) (h : PktHead) (code ctx : Nat) (body : Ctx → State → Status × List Byte × State) :
    Host.Outcome State Fault Refusal :=
  s.onCtx h code 1 ctx .paramRange body

/-- Does an address lie in either save pool (R172, R340)? -/
def State.inSavePool (s : State) (pa : Nat) : Bool :=
  ([0, 1, 2, 3].any fun d => decide ((s.poolShare d).1 ≤ pa ∧ pa < (s.poolShare d).1 + (s.poolShare d).2))
    || decide (s.poolLp.1 ≤ pa ∧ pa < s.poolLp.1 + s.poolLp.2)

/-- May a page be mapped: both its ends in mappable regions, outside the save pools (R178 check 2)? -/
def State.pageOk (s : State) (pa size : Nat) : Bool :=
  let ok (a : Nat) : Bool := (match s.region a with
    | .inter | .local _ | .lp | .host | .core _ => true
    | .mgmt | .hot | .cq | .cfg | .none => false) && !s.inSavePool a
  ok pa && ok (pa + size - 1)

/-- Does a page straddle interleaved and die-local frames, or two dies (R178 check 3)? -/
def State.straddles (s : State) (pa size : Nat) : Bool :=
  (s.region pa).isHbm && s.region pa != s.region (pa + size - 1)

/-- MEM_MAP (R178, R469): checks in order, nothing mapped at a failure. -/
def execMemMap (h : PktHead) (f : MapFields) (s : State) : Host.Outcome State Fault Refusal :=
  s.onMem h 0x0201 f.ctx fun x s =>
    let size := if f.size1G then 2 ^ 30 else 2 ^ 21
    let offs := (List.range f.pages).map (· * size)
    guarded [(f.pages == 0, .paramRange),
             (decide (f.va % size ≠ 0) || decide (f.pa % size ≠ 0), .memAlign),
             (decide (f.va + f.pages * size > 2 ^ 48) || offs.any (fun o => !s.pageOk (f.pa + o) size), .memRange),
             (offs.any (fun o => s.straddles (f.pa + o) size), .memAlign),
             (x.maps.any (fun m => meet (m.va, m.size) (f.va, f.pages * size)), .memBusy)] s fun s =>
      let new := offs.map fun o =>
        Mapping.mk (f.va + o) (f.pa + o) f.size1G f.write false (match s.region (f.pa + o) with | .local _ => true | _ => false)
      (.ok, [], s.ctxDo f.ctx fun x => { x with maps := x.maps ++ new })

/-- Does the plan admitted for a context declare a buffer in a range (R179): a tensor, or a buffer that an operation, its transfer list or its
bucket table names? -/
def State.declares (s : State) (c : Nat) (x : Ctx) (r : Nat × Nat) : Bool :=
  match x.plan with
  | none => false
  | some p => (p.tensors.any fun d => meetAny d.2.ranges [r]) || p.ops.any fun o => meetAny (s.buffersOf c p o) [r]

/-- MEM_UNMAP (R179). -/
def execMemUnmap (h : PktHead) (ctx va pages : Nat) (size1G : Bool) (s : State) : Host.Outcome State Fault Refusal :=
  s.onMem h 0x0202 ctx fun x s =>
    let size := if size1G then 2 ^ 30 else 2 ^ 21
    let vas := (List.range pages).map fun i => va + i * size
    guarded [(pages == 0, .paramRange), (decide (va % size ≠ 0), .memAlign),
             (s.declares ctx x (va, pages * size) || x.maps.any (fun m => m.hot && meet (m.va, m.size) (va, pages * size)), .memBusy),
             (vas.any (fun v => !(x.maps.any fun m => m.va == v && m.big == size1G)), .memAlign)] s fun s =>
      (.ok, [], s.ctxDo ctx fun x => { x with maps := x.maps.filter fun m => !vas.contains m.va })

/-- The page table entry of a mapping (R177). -/
def Mapping.pte (m : Mapping) : Nat :=
  1 + 2 + 4 * b2n m.write + 8 * b2n m.hot + 16 * b2n m.loc + m.pa / 4096 * 4096

/-- MEM_TRANSLATE (R179). -/
def execMemTranslate (h : PktHead) (ctx va : Nat) (s : State) : Host.Outcome State Fault Refusal :=
  s.onMem h 0x0203 ctx fun x s =>
    (.ok, leBytes 8 (match findMap x.maps va with | some m => m.pte | none => 0), s)

/-! ## Copy and fill (R359, R187, R188) -/

/-- Does a read of a sector give poison: a mark, or a host-window sector over a lost link (R187, R380)? -/
def State.readsPoison (s : State) (pa : Nat) : Bool := s.poisoned pa || (s.region pa = .host && s.linkLost)

/-- Cut spans into 64-byte sectors (addresses and lengths are multiples of 64). -/
def sectorList (ps : List (Nat × Nat)) : List Nat := ps.flatMap fun p => (List.range (p.2 / 64)).map fun i => p.1 + 64 * i

/-- What a copy reads of a sector: its bytes, or none for poison. -/
def State.copyRead (s : State) (pa : Nat) : Option (List Byte) := if s.readsPoison pa then none else some (s.physRead pa 64)

/-- Write one copied sector; poison copies the mark, and leaves a host sector unwritten with its event (R187). The flag tells
whether a host sector was left. -/
def State.copyWrite (s : State) (pa : Nat) (b : Option (List Byte)) : State × Bool :=
  match b with
  | some l => ((s.dirtySlot pa).physWrite pa l, false)
  | none =>
    if s.region pa = .host then (s.post 0x0202 noCtx (leBytes 8 pa ++ leBytes 1 3), true)
    else ((s.dirtySlot pa).setPoison (pa / 64), false)

/-- Copy sectors in order. -/
def State.copySectors (s : State) : List (Nat × Option (List Byte)) → Bool → State × Bool
  | [], f => (s, f)
  | (pa, b) :: t, f =>
    let r := s.copyWrite pa b
    State.copySectors r.1 t (f || r.2)

/-- Marks of poison that arose from a detected error travel with the copied poison (R296): (destination, source) sectors. -/
def State.copyOrigin (s : State) (hw : List Nat) (l : List (Nat × Nat)) : State :=
  l.foldl (fun s p => if s.poisoned p.1 && hw.contains p.2 then s.markHw (p.1 / 64) else s) s

/-- Copy sectors from `src` to `dst` (physical sector addresses), as they stood before the copy; does a host sector stay unwritten? -/
def State.copyAll (s : State) (src dst : List Nat) : State × Bool :=
  let hw := src.filter s.hwPoisoned
  let r := s.copySectors (List.zip dst (src.map s.copyRead)) false
  (r.1.copyOrigin hw (List.zip dst src), r.2)

/-- The source's errors under R185, where a rebuild that they lead to must come before the copy (R186). -/
def State.copyRebuild (s : State) (h : PktHead) (ctx src bytes : Nat) (errs : List SectorErr) : Option State :=
  match kvGet ctx s.ctxs with
  | none => none
  | some x => match x.reach false src bytes with
    | .error _ => none
    | .ok ps =>
      let t := s.recover ctx ps errs
      if s.mayBegin h && t.rebuildDue ps then some t else none

/-- MEM_COPY (R359): the destination receives what the source held when the command began. A copy whose source must be rebuilt first (R186) has not
begun: the packet stays unaccepted, as log 15 has it for every wait before a command's commit point. -/
def execMemCopy (h : PktHead) (ctx src dst bytes : Nat) (errs : List SectorErr) (s : State) : Host.Outcome State Fault Refusal :=
  match s.copyRebuild h ctx src bytes errs with
  | some t => done t
  | none =>
    s.onMem h 0x0204 ctx fun x s =>
      if src % 64 ≠ 0 ∨ dst % 64 ≠ 0 ∨ bytes % 64 ≠ 0 then refuse .paramRange s
      else
        match x.reach false src bytes, x.reach true dst bytes with
        | .ok ps, .ok qs =>
          let s := s.recover ctx ps errs
          let r := s.copyAll (sectorList ps) (sectorList qs)
          (if r.2 then .poison else .ok, [], r.1)
        | _, _ => refuse .memFault s

/-- MEM_FILL (R359, R188): whole sectors of the pattern, clearing poison. -/
def execMemFill (h : PktHead) (ctx dst bytes : Nat) (pattern : W64) (s : State) : Host.Outcome State Fault Refusal :=
  s.onMem h 0x0205 ctx fun x s =>
    if dst % 64 ≠ 0 ∨ bytes % 64 ≠ 0 then refuse .paramRange s
    else
      match x.reach true dst bytes with
      | .ok qs =>
        let l := (List.replicate 8 (leBytes 8 pattern.toNat)).flatten
        (.ok, [], (sectorList qs).foldl (fun s pa => (s.dirtySlot pa).physWrite pa l) s)
      | .error _ => refuse .memFault s

/-- TIER_QUERY (R198, R359): state, size and TK_POISON (layout: log 18). -/
def execTierQuery (h : PktHead) (ctx token : Nat) (s : State) : Host.Outcome State Fault Refusal :=
  s.onMem h 0x0210 ctx fun x s =>
    match x.tokens[token]? with
    | none => refuse .paramRange s
    | some t => (.ok, leBytes 8 t.state ++ leBytes 8 t.size ++ leBytes 8 t.poison, s)

/-- Bytes of one head's planes (R140). -/
def headBytes (w d : Nat) : Nat := w * (2 * d + 8)

/-- KV_RING_CREATE (R139, R140, R359): the header, every tag 0xFFFF_FFFF, the staging area's among them, nothing staged. -/
def execKvRingCreate (h : PktHead) (f : KvRingFields) (s : State) : Host.Outcome State Fault Refusal :=
  s.onMem h 0x0220 f.ctx fun _ s =>
    if f.w % 64 ≠ 0 ∨ f.w < 64 ∨ f.w > 2 ^ 20 ∨ f.d < 1 ∨ f.d > 256 ∨ f.heads < 1 ∨ f.heads > 256 ∨ f.base % 4096 ≠ 0 then
      refuse .paramRange s
    else
      let hdr := leBytes 4 f.w ++ leBytes 2 f.d ++ leBytes 2 f.heads ++ leBytes 4 f.next ++ zeros 2 ++ leBytes 2 f.owner ++ zeros 8
        ++ leBytes 8 f.base ++ zeros 32
      let all := f.heads * (headBytes f.w f.d + headBytes 64 f.d)
      let tags (n base : Nat) : List (Nat × Nat) := (List.range f.heads).map fun i => (base + i * headBytes n f.d + n * (2 * f.d + 4), 4 * n)
      match s.reach f.ctx true f.header 64, s.reach f.ctx true f.base all with
      | .ok ps, .ok _ =>
        let s := s.recoverPartial f.ctx ps f.errs
        (match wrAll (fun s (r : Nat × List Byte) => s.wrBytes f.ctx r.1 r.2) s
            ((f.header, hdr) :: (tags f.w f.base ++ tags 64 (f.base + f.heads * headBytes f.w f.d)).map fun r => (r.1, List.replicate r.2 0xFF#8)) with
         | .ok t => (.ok, [], t)
         | .error _ => refuse .memFault s)
      | _, _ => refuse .memFault s

/-! ## Downdraft and Updraft (R193 to R198) -/

/-- Is a transfer within its descriptor's ranges (R193)? -/
def Ctx.xferOk (x : Ctx) (t : Xfer) (kind : Nat) : Bool :=
  match x.tokens[t.token]? with
  | none => false
  | some k => decide (t.hbm % 64 = 0 ∧ t.offset % 64 = 0 ∧ t.bytes % 64 = 0 ∧ 64 ≤ t.bytes ∧ t.offset + t.bytes ≤ k.size ∧ kind ≤ 1)

/-- TRANSFER (R193, R194): the descriptors of its list join the context's queues in order. -/
def execTransfer (c : Nat) (at_ : OpAt) (s : State) : Host.Outcome State Fault Refusal :=
  let i := at_.op
  done <|
    match s.opOf c i with
    | some (x, _, _, .transfer list count, _) =>
      if !s.mayIssue c i then s
      else
        let s := s.recover c (s.physSpans c [(list, 64 * count)]) at_.errs
        if !s.mayIssue c i then s
        else
        let s := s.opBegin c i (.wait count)
        s.opTry c i (s.rdBytes c list (64 * count)) fun r =>
          match r.2 with
          | some pa => (s.opPoison c i 0 pa).opEnd c i .ok []
          | none =>
            let parts := chunks 64 (count + 1) r.1
            let ts := (enumFrom 0 parts).map fun p => (xferOf p.2 (x.xferSeq + p.1) i, field p.2 32 1)
            if count = 0 then s.opEnd c i .ok []
            else if ts.all (fun t => x.xferOk t.1 t.2) then
              s.ctxDo c fun x =>
                { x with down := x.down ++ (ts.map Prod.fst).filter (fun t => !t.updraft),
                         up := x.up ++ (ts.map Prod.fst).filter (fun t => t.updraft), xferSeq := x.xferSeq + count }
            else s.opEnd c i .tierToken []
    | _ => s

/-- A context's queue of one engine. -/
def Ctx.queueOf (x : Ctx) (up : Bool) : List Xfer := if up then x.up else x.down

/-- Replace the queue's head. -/
def State.xferHead (s : State) (c : Nat) (up : Bool) (f : Xfer → Option Xfer) : State :=
  s.ctxDo c fun x =>
    let g (l : List Xfer) : List Xfer := match l with
      | t :: r => (match f t with | some u => u :: r | none => r)
      | [] => []
    if up then { x with up := g x.up } else { x with down := g x.down }

/-- Update a tier token. -/
def State.tokenDo (s : State) (c k : Nat) (f : Token → Token) : State :=
  s.ctxDo c fun x =>
    match x.tokens[k]? with
    | none => x
    | some t => { x with tokens := x.tokens.set k (f t) }

/-- The acquiring operation of an object's type (R193, R312). -/
def acquireOp : Nat → Nat
  | 0 => 1 | 1 => 4 | 2 => 6 | 3 => 7 | 4 => 10 | _ => 11

/-- The signalling operation of an object's type (R193, R312). -/
def signalOp : Nat → Nat
  | 0 => 0 | 1 => 3 | 2 => 5 | 3 => 9 | 4 => 10 | _ => 12

/-- A transfer's operation ends on an object's failure; where that is the environment's, what it had not moved is undefined (R296, R319). -/
def State.xferEnd (s : State) (c i : Nat) (st : Status) : State :=
  if st = .poison then (((s.tokensLost c i).abandonOp c i).outputsLost c i).opEnd c i st [] else (s.abandonOp c i).opEnd c i st []

/-- TRANSFER_START (R194): the head of a queue whose token has no earlier transfer in progress acquires its gate and starts; an
Updraft on an EMPTY token fails with ST_TIER_TOKEN. -/
def execTransferStart (c : Nat) (up : Bool) (s : State) : Host.Outcome State Fault Refusal :=
  done <|
    match kvGet c s.ctxs with
    | none => s
    | some x =>
      match x.queueOf up with
      | [] => s
      | t :: _ =>
        let earlier := (x.down ++ x.up).any fun u => u.token == t.token && decide (u.seq < t.seq)
        if t.started || t.waiting || earlier || x.countsSaved || !s.running then s
        else
          let s :=
            if t.gated then s
            else
              match kvGet t.gateSo s.sos with
              | none => (s.abandonOp c t.op).opEnd c t.op .soUnknown []
              | some o =>
                let r := s.soApply t.gateSo (acquireOp o.type) t.gateN c 0
                match r.1 with
                | .done _ => r.2.xferHead c up fun t => some { t with gated := true }
                | .fail st => ((r.2.poisonMet c st).xferEnd c t.op st)
                | .wait k =>
                  let s := (r.2.addWait t.gateSo { who := .gate c up, kind := k, left := 0, since := s.refCount }).xferHead c up
                    fun t => some { t with waiting := true }
                  if o.type = 3 then s.boostCheck t.gateSo (.gate c up) else s
          match (kvGet c s.ctxs).map fun x => x.queueOf up with
          | some (u :: _) =>
            if !u.gated || u.seq != t.seq then s
            else
              let st := ((kvGet c s.ctxs).bind fun x => x.tokens[u.token]?).map Token.state
              if up && st == some 0 then (s.abandonOp c u.op).opEnd c u.op .tierToken []
              else
                let s := if up then s else s.tokenDo c u.token fun k => { k with state := 1, placed := [] }
                s.xferHead c up fun u => some { u with started := true }
          | _ => s

/-- A transfer completes (R193, R316): token state, done signal, its operation when it was the last. -/
def State.xferDone (s : State) (c : Nat) (up : Bool) (t : Xfer) (spans : List (Nat × Nat)) : State :=
  let s := s.xferHead c up fun _ => none
  let s := s.tokenDo c t.token fun k =>
    if up then (if t.last then { k with state := 0, poison := 0, placed := [] } else { k with placed := k.placed ++ spans })
    else { k with state := 2 }
  let r : SoRes × State :=
    if t.doneSo = 0xFFFF then (.done 0, s)
    else
      match kvGet t.doneSo s.sos with
      | none => (.fail .soUnknown, s)
      | some o => s.soApply t.doneSo (signalOp o.type) t.doneN c 0
  match r.1 with
  | .fail st => (r.2.poisonMet c st).xferEnd c t.op st
  | .done _ | .wait _ =>
    match r.2.opOf c t.op with
    | some (_, _, _, _, q) =>
      (match q.prog with
       | .wait n => if n ≤ 1 then r.2.opEnd c t.op .ok [] else r.2.progSet c t.op (.wait (n - 1))
       | _ => r.2)
    | none => r.2

/-- Bytes of a transfer segment (R193). -/
def segBytes : Nat := 65536

/-- One segment of the head of a queue moves (R193, R197, R198). -/
def State.xferSegment (s : State) (c : Nat) (up : Bool) (x : Ctx) (t : Xfer) (errs : List SectorErr) : State :=
  let n := min segBytes (t.bytes - t.done)
  match x.tokens[t.token]? with
  | none => s
  | some k =>
    match vspans x.maps up (t.hbm + t.done) n with
    | .error e => s.opFault c t.op (.fault e)
    | .ok ps =>
      if ps.any (fun p => !(s.region p.1).isHbm) then s.opFault c t.op (.fault ⟨t.hbm + t.done, 0, 0⟩)
      else
        let home := [(k.home + t.offset + t.done, n)]
        let src := if up then home else ps
        let dst := if up then ps else home
        let s := s.recover c src errs
        if s.rebuildDue src then s
        else
        let bad := ((sectorList src).filter s.readsPoison).length
        let s := (s.copyAll (sectorList src) (sectorList dst)).1
        let s := if up then s else s.tokenDo c t.token fun k => { k with poison := k.poison + bad }
        if t.done + n ≥ t.bytes then
          s.xferDone c up t (match vspans x.maps true t.hbm t.bytes with | .ok q => q | .error _ => [])
        else s.xferHead c up fun t => some { t with done := t.done + n }

/-! ## The model cache (R199 to R205) -/

/-- Slots a model of `b` bytes needs (R199). -/
def slotsNeeded (b : Nat) : Nat := ceilDiv b gib

/-- Slots in use, or kept for a load that waits (R203). -/
def State.slotsUsed (s : State) : List Nat := (s.models.flatMap fun m => m.2.slots) ++ s.loads.flatMap fun l => l.slots

/-- Hot-set frames not in use, last interleaved frames first (R199). -/
def State.slotsFree (s : State) : List Nat :=
  ((List.range s.hotSlots).map fun i => s.interFrames - 1 - i).filter fun f => !s.slotsUsed.contains f

/-- Is a model a candidate for eviction (R202)? -/
def Model.candidate (m : Model) : Bool := m.state == 2 && m.refs.isEmpty && m.pins == 0

/-- Update a registered model. -/
def State.modelDo (s : State) (id : Nat) (f : Model → Model) : State :=
  match kvGet id s.models with
  | none => s
  | some m => { s with models := kvSet id (f m) s.models }

/-- The mappings of a model's slots at a virtual address. -/
def slotMaps (va : Nat) (write : Bool) (slots : List Nat) : List Mapping :=
  (enumFrom 0 slots).map fun f => Mapping.mk (va + f.1 * gib) (f.2 * gib) true write true false

/-- The mappings that a plan's reference to a model adds to a context: none where it is mapped already. -/
def Ctx.modelMaps (x : Ctx) (id : Nat) (slots : List Nat) (m : Nat × Bool × Nat) : List Mapping :=
  if m.1 != id || x.maps.any (fun q => q.va == m.2.2) then [] else slotMaps m.2.2 m.2.1 slots

/-- Map a model's slots into the contexts whose plans declare it (R199). -/
def State.mapModel (s : State) (id : Nat) (slots : List Nat) : State :=
  { s with ctxs := kvMap (fun _ x =>
      match x.plan with
      | none => x
      | some p => { x with maps := x.maps ++ p.models.flatMap (x.modelMaps id slots) }) s.ctxs }

/-- Give a load its slots: LOADING from the first byte. -/
def State.beginLoad (s : State) (id n loader : Nat) : State :=
  let fs := s.slotsFree.take n
  (s.modelDo id fun m => { m with state := 1, slots := fs, loaded := 0, loader := loader, dirty := [], evicting := false }).mapModel id fs

/-- The candidates to evict until `n` slots are free (R202). -/
def victimsFor : Nat → List (Nat × Model) → List (Nat × Model)
  | 0, _ => []
  | _ + 1, [] => []
  | n + 1, m :: t => m :: victimsFor (n + 1 - m.2.slots.length) t

/-- Start a load (R202, R203): clean victims are freed at once, dirty ones are written back first; none where all candidates would
not free enough. -/
def State.startLoad (s : State) (id loader : Nat) : Option State :=
  match kvGet id s.models with
  | none => none
  | some m =>
    let n := slotsNeeded m.bytes
    let free := s.slotsFree.length
    if n ≤ free then some (s.beginLoad id n loader)
    else
      let cands := sortKey (fun e => [(e : Nat × Model).2.stamp, e.1]) (s.models.filter fun e => e.2.candidate)
      if free + (cands.map fun e => e.2.slots.length).sum < n then none
      else
        let vs := victimsFor (n - free) cands
        let s := vs.foldl (fun s v =>
          if v.2.dirty.isEmpty then s.modelDo v.1 fun m => { m with state := 0, slots := [] }
          else s.modelDo v.1 fun m => { m with state := 3, evicting := true }) s
        let wait := (vs.filter fun v => !v.2.dirty.isEmpty).map Prod.fst
        if wait.isEmpty then some (s.beginLoad id n loader)
        else some ({ (s.modelDo id fun m => { m with state := 1, slots := [], loaded := 0, loader := loader }) with
          loads := s.loads ++ [{ model := id, evicting := wait, slots := s.slotsFree.take n, loader := loader }] })

/-- Is it MC_LOAD or MC_PIN? -/
def isLoadCode (code : Nat) : Bool := code = 0x0603 || code = 0x0604

/-- Reply to every packet that waits on a model, with a status by its opcode; the pin of an MC_PIN that succeeds is taken then (R200). -/
def State.modelReplies (s : State) (id : Nat) (st : Nat → Status) : State :=
  match kvGet id s.models with
  | none => s
  | some m =>
    let pins := (m.waiting.filter fun w => w.2.2 == 0x0604 && decide (st w.2.2 = .ok)).length
    m.waiting.foldl (fun s w => s.replyWrite w.1 w.2.2 1 (st w.2.2) []) (s.modelDo id fun m => { m with waiting := [], pins := m.pins + pins })

/-- One segment of a model load (R204, R205): home sectors to the slots, poison marks copied. -/
def State.loadSegment (s : State) (id : Nat) (m : Model) (errs : List SectorErr) : State :=
  let n := min segBytes (m.bytes - m.loaded)
  let slot := nth m.slots (m.loaded / gib)
  let src := m.home + m.loaded
  let dst := slot * gib + m.loaded % gib
  let s := s.recover noCtx [(src, n)] errs
  if s.rebuildDue [(src, n)] then s
  else
  let secs := (List.range (ceilDiv n 64)).map (· * 64)
  let hw := (secs.map (src + ·)).filter s.hwPoisoned
  let s := (secs.map fun o => (o, s.copyRead (src + o))).foldl (fun s e => match e.2 with
    | some l => s.physWrite (dst + e.1) l
    | none => s.setPoison ((dst + e.1) / 64)) s
  let s := s.copyOrigin hw (secs.map fun o => (dst + o, src + o))
  if m.loaded + n ≥ m.bytes then
    (s.modelDo id fun m =>
      { m with state := 2, loaded := m.bytes, stamp := if m.used || !m.refs.isEmpty || m.pins != 0 then m.stamp else s.refCount }).modelReplies id fun _ => .ok
  else s.modelDo id fun m => { m with loaded := m.loaded + n }

/-- The model load that a context started and that has its slots (0: one that MC_LOAD or MC_PIN asked for). -/
def State.loadOf (s : State) (c : Nat) : Option (Nat × Model) := s.models.find? fun m => m.2.state == 1 && m.2.loader == c && !m.2.slots.isEmpty

/-- Has a context a transfer of an engine in progress that may move? -/
def State.segDue (s : State) (x : Ctx) (c : Nat) (up : Bool) : Bool :=
  match x.queueOf up with
  | t :: _ => t.started && !x.countsSaved && !s.rebuild.any fun b => b.1 == c
  | [] => false

/-- The engines' segments that are ready, as (context, engine, class) (R196): a load runs as Updraft work at the class of the context that needs
it, at the lowest where MC_LOAD or MC_PIN asked for it or the context is saved (R204). -/
def State.segsReady (s : State) : List (Nat × Bool × Nat) :=
  (s.ctxs.flatMap fun cx =>
    (if s.segDue cx.2 cx.1 false then [(cx.1, false, cx.2.cls)] else []) ++ (if s.segDue cx.2 cx.1 true then [(cx.1, true, cx.2.cls)] else []))
  ++ (s.models.filter fun m => m.2.state == 1 && !m.2.slots.isEmpty).map fun m =>
    (m.2.loader, true, match kvGet m.2.loader s.ctxs with | some x => if x.countsSaved then 0 else x.cls | none => 0)

/-- Whose segment moves next over LPDDR5X (R196): none while a save spills; the highest class; where both engines are ready in it they alternate;
contexts of a class take turns by ascending ID. -/
def State.tierPick (s : State) : Option (Nat × Bool) :=
  if s.ctxs.any fun cx => cx.2.positions.any fun q => q.spilled && (match q.place with | .saving _ _ ph => ph == 2 | _ => false) then none
  else
    let all := s.segsReady
    let top := all.foldl (fun m r => max m r.2.2) 0
    let best := all.filter fun r => r.2.2 == top
    let both := best.any (fun r => r.2.1) && best.any fun r => !r.2.1
    let eng := if both then !s.tierLast.2 else best.any fun r => r.2.1
    let ids := (best.filter fun r => r.2.1 == eng).foldl (fun l r => insNat r.1 l) []
    match ids.find? fun c => decide (s.tierLast.1 < c) with
    | some c => some (c, eng)
    | none => ids.head?.map fun c => (c, eng)

/-- TRANSFER_SEGMENT_COMPLETE (R193, R196, R204): the segment that arbitration picked, of the context's transfer in progress, else of the model
load that it started (context 0: a load that MC_LOAD or MC_PIN asked for). -/
def execTransferSegmentComplete (c : Nat) (up : Bool) (errs : List SectorErr) (s : State) : Host.Outcome State Fault Refusal :=
  done <|
    if !s.running || decide (s.tierPick ≠ some (c, up)) then s
    else
      let s := { s with tierLast := (c, up) }
      let load (s : State) : State := match s.loadOf c with | some m => if up then s.loadSegment m.1 m.2 errs else s | none => s
      match kvGet c s.ctxs with
      | some x => (match x.queueOf up with | t :: _ => if s.segDue x c up then s.xferSegment c up x t errs else load s | [] => load s)
      | none => load s

/-- A model command on a registered model (R200). -/
def State.onModel (s : State) (h : PktHead) (code slots id : Nat) (body : Model → State → Status × List Byte × State) :
    Host.Outcome State Fault Refusal :=
  s.command h code slots fun s =>
    match kvGet id s.models with
    | none => refuse .mcUnknown s
    | some m => body m s

/-- MC_REGISTER (R200). -/
def execMcRegister (h : PktHead) (model bytes home : Nat) (s : State) : Host.Outcome State Fault Refusal :=
  s.command h 0x0601 1 fun s =>
    let r := s.region home
    guarded [((kvGet model s.models).isSome, .mcExists),
             (bytes == 0 || decide (bytes > s.hotSlots * gib), .paramRange),
             (decide (home % 64 ≠ 0) || !(r == .lp || r == .host) || s.region (home + bytes - 1) != r, .memRange)] s fun s =>
      let m : Model := { bytes := bytes, home := home, state := 0, slots := [], refs := [], pins := 0, dirty := [], stamp := 0, loaded := 0,
                         loader := 0, evicting := false, used := false, waiting := [] }
      (.ok, [], { s with models := kvSet model m s.models })

/-- Is a model LOADING or WRITING_BACK? -/
def Model.moving (m : Model) : Bool := m.state == 1 || m.state == 3

/-- MC_UNREGISTER (R200, R371). -/
def execMcUnregister (h : PktHead) (model : Nat) (s : State) : Host.Outcome State Fault Refusal :=
  s.onModel h 0x0602 1 model fun m s =>
    guarded [(!m.refs.isEmpty || m.pins != 0 || m.moving, .mcBusy)] s fun s => (.ok, [], { s with models := kvDel model s.models })

/-- A command that ends with a load: at once where the model is resident, else when the load ends (R204). An MC_PIN holds its pin only from its
success on (R200). -/
def State.loadCommand (s : State) (h : PktHead) (code id : Nat) (pin : Bool) : State :=
  match kvGet id s.models with
  | none => s.replyWrite h code 1 .mcUnknown []
  | some m =>
    let waitOn (s : State) : State := s.modelDo id fun m => { m with waiting := m.waiting ++ [(h, s.refCount, code)] }
    if pin && m.pins + (m.waiting.filter fun w => w.2.2 == 0x0604).length ≥ 255 then s.replyWrite h code 1 .mcPins []
    else if m.state = 2 then (if pin then s.modelDo id fun m => { m with pins := m.pins + 1 } else s).replyWrite h code 1 .ok []
    else if m.state = 1 then waitOn s
    else if m.state = 3 then waitOn (s.modelDo id fun m => { m with evicting := false })
    else
      match s.startLoad id 0 with
      | none => s.replyWrite h code 1 .mcFull []
      | some t => waitOn t

/-- MC_LOAD (R200, R202, R204). -/
def execMcLoad (h : PktHead) (model : Nat) (s : State) : Host.Outcome State Fault Refusal :=
  done (s.commit h 0x0603 1 fun s => s.loadCommand h 0x0603 model false)

/-- MC_PIN (R200, R202). -/
def execMcPin (h : PktHead) (model : Nat) (s : State) : Host.Outcome State Fault Refusal :=
  done (s.commit h 0x0604 1 fun s => s.loadCommand h 0x0604 model true)

/-- MC_UNPIN (R200, R202): the last pin or reference to go takes the release stamp. -/
def execMcUnpin (h : PktHead) (model : Nat) (s : State) : Host.Outcome State Fault Refusal :=
  s.onModel h 0x0605 1 model fun m s =>
    guarded [(m.pins == 0, .mcPins)] s fun s =>
      (.ok, [], s.modelDo model fun m =>
        { m with pins := m.pins - 1, stamp := if m.pins = 1 && m.refs.isEmpty then s.refCount else m.stamp,
                 used := m.used || (m.pins == 1 && m.refs.isEmpty) })

/-- MC_EVICT (R200, R203): dirty slots go home first; the command retires when the slots are free. -/
def execMcEvict (h : PktHead) (model : Nat) (s : State) : Host.Outcome State Fault Refusal :=
  done (s.commit h 0x0606 1 fun s =>
    match kvGet model s.models with
    | none => s.replyWrite h 0x0606 1 .mcUnknown []
    | some m =>
      if !m.refs.isEmpty || m.pins != 0 || m.moving then s.replyWrite h 0x0606 1 .mcBusy []
      else if m.dirty.isEmpty then (s.modelDo model fun m => { m with state := 0, slots := [] }).replyWrite h 0x0606 1 .ok []
      else s.modelDo model fun m => { m with state := 3, evicting := true, waiting := m.waiting ++ [(h, s.refCount, 0x0606)] })

/-- MC_QUERY (R200, R359): state, references, pins, dirty slots, release stamp, then the slots from MQ_FIRST (layout: log 18). -/
def execMcQuery (h : PktHead) (model first : Nat) (s : State) : Host.Outcome State Fault Refusal :=
  s.onModel h 0x0607 8 model fun m s =>
    (.ok, leBytes 1 m.state ++ leBytes 1 m.pins ++ leBytes 2 m.refs.length ++ leBytes 2 m.dirty.length ++ leBytes 2 m.slots.length
      ++ leBytes 8 m.stamp ++ ((m.slots.drop first).take 116).flatMap fun f => leBytes 4 (f + 2 ^ 31 * b2n (m.dirty.contains f)), s)

/-- MC_WRITEBACK (R200): refused while a writable reference is held; a write-back in progress serves it, whether or not it is an eviction's. -/
def execMcWriteback (h : PktHead) (model : Nat) (s : State) : Host.Outcome State Fault Refusal :=
  done (s.commit h 0x0608 1 fun s =>
    match kvGet model s.models with
    | none => s.replyWrite h 0x0608 1 .mcUnknown []
    | some m =>
      if m.refs.any (fun r => r.2) then s.replyWrite h 0x0608 1 .mcBusy []
      else if m.dirty.isEmpty then s.replyWrite h 0x0608 1 .ok []
      else
        let s := s.modelDo model fun m => { m with waiting := m.waiting ++ [(h, s.refCount, 0x0608)] }
        if m.state = 3 then s else s.modelDo model fun m => { m with state := 3, evicting := false })

/-- The sectors of a model's dirty slots, as (home, slot) addresses. -/
def Model.dirtySectors (m : Model) : List (Nat × Nat) :=
  (enumFrom 0 m.slots).flatMap fun f =>
    if m.dirty.contains f.2 then
      (List.range (ceilDiv (min gib (m.bytes - f.1 * gib)) 64)).map fun i => (m.home + f.1 * gib + 64 * i, f.2 * gib + 64 * i)
    else []

/-- Write a model's dirty slots home, sector by sector (R187, R203), their errors met first (R205); the flag tells whether a host sector was left
unwritten. -/
def State.writeHome (s : State) (m : Model) (errs : List SectorErr) : State × Bool :=
  let s := s.recover noCtx (m.dirty.map fun f => (f * gib, gib)) errs
  s.copyAll (m.dirtySectors.map Prod.snd) (m.dirtySectors.map Prod.fst)

/-- Loads that waited for a model's write-back go on (R203), `freed` being the slots that it left: once nothing is left to wait for, they take
their slots or find that they cannot. -/
def State.loadsGoOn (s : State) (id : Nat) (freed : List Nat) : State :=
  let ready := s.loads.filter fun l => l.evicting == [id]
  let s := { s with loads := (s.loads.filter fun l => l.evicting != [id]).map fun l =>
    if l.evicting.contains id then { l with evicting := l.evicting.filter (· != id), slots := l.slots ++ freed } else l }
  ready.foldl (fun s l =>
    match (s.modelDo l.model fun m => { m with state := 0 }).startLoad l.model l.loader with
    | some t => t
    | none => (s.modelDo l.model fun m => { m with state := 0 }).modelReplies l.model fun _ => .mcFull) s

/-- What a packet that waited for a write-back is told: MC_LOAD and MC_PIN find the model resident (R204). -/
def backStatus (st : Status) (code : Nat) : Status := if isLoadCode code then .ok else st

/-- MODEL_WRITEBACK_COMPLETE (R203 to R205): the dirty slots are home and clean, an eviction frees them; with the home's link lost the
load fails with ST_MC_HOME and the model stays resident, dirty slots and all. -/
def execModelWritebackComplete (model : Nat) (w : HomeWrite) (s : State) : Host.Outcome State Fault Refusal :=
  done <|
    match kvGet model s.models with
    | none => s
    | some m =>
      if m.state != 3 || !s.running then s
      else if w.lost || (s.linkLost && decide (s.region m.home = .host)) then
        let s := (s.modelDo model fun m => { m with state := 2, evicting := false }).modelReplies model (backStatus .mcHome)
        let failed := s.loads.filter fun l => l.evicting.contains model
        let s := { s with loads := s.loads.filter fun l => !l.evicting.contains model }
        failed.foldl (fun s l => (s.modelDo l.model fun m => { m with state := 0 }).modelReplies l.model fun _ => .mcHome) s
      else
        let r := s.writeHome m w.errs
        let keep := !m.evicting || !m.refs.isEmpty || m.pins != 0
        let s := r.1.modelDo model fun m => { m with state := if keep then 2 else 0, slots := if keep then m.slots else [], dirty := [], evicting := false }
        let s := s.modelReplies model (backStatus (if r.2 then .poison else .ok))
        s.loadsGoOn model (if keep then [] else m.slots)

/-- Physical spans of a tensor's buffer. -/
def Ctx.tensorSpans (x : Ctx) (d : TDesc) : List (Nat × Nat) :=
  d.ranges.flatMap fun r => match vspans x.maps false r.1 r.2 with | .ok l => l | .error _ => []

/-- A rebuilt tensor's poisoned sectors: the segment writes their original bits, which are the bytes that they still hold where a detected
error alone had made them poison (R186, R188); what the producing operations themselves had left poisoned they leave poisoned again
(log 114). -/
def State.rewritePoisoned (s : State) (ps : List (Nat × Nat)) : State :=
  let back := s.sound.filter fun k => s.poison.contains k && inSpans ps ⟨k, 0, false, 0⟩
  { s with poison := s.poison.filter fun k => !back.contains k, sound := s.sound.filter fun k => !back.contains k }

/-- Operations in progress, but those that wait for the tensor itself, have finished (R186 step 2; log 114). -/
def Ctx.quiet (x : Ctx) (d : TDesc) : Bool :=
  match x.run, x.plan with
  | some r, some p => (List.zip p.ops r.ops).all fun e => e.2.st != .begun || meetAny (opReads p e.1) d.ranges
  | _, _ => true

/-- TENSOR_REBUILD (R186): the segment has run on the placement; the tensor has its original bits, `MEM_REBUILD` rises, or a
detected error during the rebuild poisons the sector (R185 step 4). -/
def execTensorRebuild (c tensor : Nat) (ok : Bool) (s : State) : Host.Outcome State Fault Refusal :=
  done <|
    match kvGet c s.ctxs with
    | none => s
    | some x =>
      match x.plan.bind fun p => p.ten tensor with
      | none => s
      | some d =>
        let ps := x.tensorSpans d
        let mine := s.rebuild.filter fun b => b.1 == c && ps.any fun p => decide (p.1 / 64 ≤ b.2 ∧ b.2 * 64 < p.1 + p.2)
        if mine.isEmpty || d.rebuildCount == 0 || !x.quiet d then s
        else
          let s := { s with rebuild := s.rebuild.filter fun b => !mine.contains b }
          if ok then ((s.rewritePoisoned ps).telAdd 0x0142 8 1).recovered c
          else mine.foldl (fun s b => s.poisonSector c ((s.memUnit (b.2 * 64)).getD 0) b.2) s

end Sys2Proof.Machine
end

