-- ==== Sys2Proof/Machine/Image.lean ====
section
/-! DEFINITION. Packed fields (15_command_protocol R361) and the parts of a plan image (R362 to R364, R112, R113). -/
namespace Sys2Proof.Machine

/-- Packed size in bytes, whole words (R361 rule 5). -/
def packedSize (pos : Nat) (ws : List Nat) : Nat := ceilDiv (layout pos ws).2 64 * 8

/-- Are the bits that no field occupies zero? -/
def reservedOk (l : List Byte) (base pos : Nat) (ws : List Nat) : Bool :=
  let fs := (layout pos ws).1
  let all := leNat (slice l base (packedSize pos ws)) / 2 ^ pos * 2 ^ pos
  all = (fs.map fun f => bitField l base f.1 f.2 * 2 ^ f.1).sum

/-! ## Field lists -/

/-- Widths of each operation kind's fields (R363 and the tables it names). Descriptor offsets take 64 bits (log 19). -/
def opWidths : Nat → List Nat
  | 0x0001 => [32, 32, 32, 6, 6, 1, 3, 3, 3, 2, 2, 1, 2, 4, 2, 8, 4, 2, 16, 16, 16, 16, 32, 32, 32, 32, 3, 64, 64, 11, 64, 1, 32, 64,
               64, 64, 64, 64]
  | 0x0002 => [3, 9, 9, 9, 32, 32, 32, 32, 4, 32, 32, 32, 2, 3, 2, 5, 64, 64, 64, 64, 64, 64, 64, 64, 64, 64, 64, 64, 64, 64]
  | 0x0003 => [2, 22, 11, 4, 22, 25, 3, 16, 32, 64, 64, 64, 64, 64, 64, 64, 64, 64, 64, 64, 64, 64, 64, 2]
  | 0x0004 | 0x0005 => [64, 64, 2]
  | 0x0006 => [3, 32, 20, 32, 1, 1, 32, 32, 2]
  | 0x0007 => [48, 16]
  | 0x0008 => [4, 16, 64, 32, 16, 4, 48]
  | 0x0009 => [2, 32, 1, 64, 48]
  | 0x000A | 0x000B => [48, 25, 2]
  | 0x000C => [32, 64, 64, 64, 16, 2]
  | 0x000D => [48, 5]
  | 0x000E => [48]
  | 0x000F => [16, 64]
  | _ => []

/-- Widths of the operation at an image offset: STEP_MARK adds its entries (R363). -/
def opFields (l : List Byte) (base kind : Nat) : List Nat :=
  if kind = 0x000D then
    opWidths kind ++ (List.replicate (min 31 (nth (unpack l base 64 (opWidths kind)) 1)) [32, 48, 56]).flatten
  else opWidths kind

/-- The first `n` of a list of numbers from index `i`. -/
def takeAt (v : List Nat) (i n : Nat) : List Nat := (v.drop i).take n

/-- A 64-bit word of an image. -/
def imageWord (l : List Byte) (o : Nat) : W64 := BitVec.ofNat 64 (field l o 8)

/-- MATMUL. -/
def matOf (v : List Nat) : MatF :=
  let g := nth v
  { m := g 0, n := g 1, k := g 2, tileM := g 3, tileN := g 4, dbuf := g 5, aFmt := g 6, bFmt := g 7, outFmt := g 8, aSparse := g 9,
    bSparse := g 10, cInit := g 11, numMode := g 12, kSplit := g 13, gridOrder := g 14, band := g 15, claimWidth := g 16,
    rangeCount := g 17, rangeSo := takeAt v 18 4, rangeEnd := takeAt v 22 4, rowstat := g 26, rowstatDesc := g 27, tstatDesc := g 28,
    grpCount := g 29, grpCntDesc := g 30, grpSrc := g 31, grpStride := g 32, grpBBytes := g 33, aDesc := g 34, bDesc := g 35,
    cDesc := g 36, outDesc := g 37 }

/-- ATTENTION. -/
def attOf (v : List Nat) : AttF :=
  let g := nth v
  { op := g 0, headDim := g 1, qHeads := g 2, kvHeads := g 3, qLen := g 4, kvLen := g 5, qPos0 := g 6, kvPos0 := g 7, mask := g 8,
    window := g 9, scale2 := BitVec.ofNat 32 (g 10), scale := BitVec.ofNat 32 (g 11), kvSrc := g 12, outFmt := g 13, numMode := g 14,
    dqParts := g 15, qDesc := g 16, kDesc := g 17, vDesc := g 18, oDesc := g 19, doDesc := g 20, dqDesc := g 21, dkDesc := g 22,
    dvDesc := g 23, lseDesc := g 24, dqpDesc := g 25, docDesc := g 26, ringDesc := g 27, treeDesc := g 28, pathDesc := g 29 }

/-- EXPERT. -/
def expOf (v : List Nat) : ExpF :=
  let g := nth v
  { op := g 0, tokens := g 1, experts := g 2, topk := g 3, cap := g 4, ovfCap := g 5, rowFmt := g 6, rowLen := g 7, group := g 8,
    scoreDesc := g 9, predDesc := g 10, emaskDesc := g 11, recDesc := g 12, selDesc := g 13, cntDesc := g 14, xDesc := g 15,
    bufDesc := g 16, ovfDesc := g 17, yDesc := g 18, yovfDesc := g 19, retDesc := g 20, outDesc := g 21, wDesc := g 22,
    numMode := g 23 }

/-- An operation at an image offset (R363). -/
def opAt (l : List Byte) (base : Nat) : PlanOp :=
  let kind := field l base 2
  let v := unpack l base 64 (opFields l base kind)
  let g := nth v
  match kind with
  | 0x0001 => .matmul (matOf v)
  | 0x0002 => .attention (attOf v)
  | 0x0003 => .expert (expOf v)
  | 0x0004 => .omtPack (g 0) (g 1) (g 2)
  | 0x0005 => .omtUnpack (g 0) (g 1) (g 2)
  | 0x0006 => .vector { streams := g 0, code := g 1, words := (List.range (g 2)).map fun i => imageWord l (g 1 + 8 * i), iter := g 3,
                        inplace := g 4, ddof := g 5, dropP32 := g 6, dropScale := BitVec.ofNat 32 (g 7), numMode := g 8 }
  | 0x0007 => .transfer (g 0) (g 1)
  | 0x0008 => .sync { op := g 0, so := g 1, n := g 2, tmo := g 3, module := g 4, port := g 5, result := g 6 }
  | 0x0009 => .stage { op := g 0, tag := g 1, lullAs := g 2, srcDesc := g 3, result := g 4 }
  | 0x000A => .tradeReduce (g 0) (g 1) (g 2)
  | 0x000B => .tradeGather (g 0) (g 1) (g 2)
  | 0x000C => .optUpdate { reduce := g 0, groups := g 1, state := g 2, lscale := g 3, claimSo := g 4, numMode := g 5 }
  | 0x000D => .stepMark (g 0) ((List.range (g 1)).map fun i => (g (2 + 3 * i), g (3 + 3 * i), g (4 + 3 * i)))
  | 0x000E => .lullSnap (g 0)
  | _ => .traceMark (g 0) (BitVec.ofNat 64 (g 1))

/-- Offsets of the operations, by their `OP_WORDS` (R363). -/
def opOffsets (l : List Byte) : Nat → Nat → List Nat
  | 0, _ => []
  | n + 1, o => o :: opOffsets l n (o + 8 * field l (o + 2) 2)

/-- A tensor descriptor's bytes (R362). -/
def tensorAt (l : List Byte) (o : Nat) : TDesc :=
  let b := field l (o + 8) 1
  { addr := field l o 8, fmt := bits b 0 3, layout := bits b 3 2, tier := bits b 5 2, rank := field l (o + 9) 1,
    token := field l (o + 10) 2, stream := field l (o + 12) 4,
    dims := (List.range 4).map fun i => field l (o + 16 + 4 * i) 4,
    strides := (List.range 3).map fun i => field l (o + 32 + 8 * i) 8,
    rebuildFirst := field l (o + 56) 4, rebuildCount := field l (o + 60) 4, scale := field l (o + 64) 8,
    scaleKind := field l (o + 72) 1, shist := field l (o + 80) 8, omtMap := field l (o + 88) 8, omtOfs := field l (o + 96) 8,
    omtData := field l (o + 104) 8, omtCap := field l (o + 112) 4 }

/-- Are a tensor descriptor's reserved bits zero? -/
def tensorReserved (l : List Byte) (o : Nat) : Bool :=
  bits (field l (o + 8) 1) 7 1 == 0 && field l (o + 73) 7 == 0 && field l (o + 116) 12 == 0

/-- Widths of a micro-program descriptor (R112). -/
def mpWidths : List Nat := [6, 7, 1, 9, 16, 2, 32, 32, 32, 5, 256]

/-- An extended constant's bytes (R113). -/
def constAt (l : List Byte) (o : Nat) : Ext :=
  { neg := bits (field l (o + 8) 1) 0 1 == 1, m := field l o 6, e := sInt 16 (field l (o + 6) 2) - 47 }

/-- A segment's table entry (R112). -/
def segAt (l : List Byte) (o : Nat) : Seg :=
  { c0 := BitVec.ofNat 64 (field l o 8), c1 := BitVec.ofNat 64 (field l (o + 8) 8), c2 := BitVec.ofNat 64 (field l (o + 16) 8),
    c3 := BitVec.ofNat 64 (field l (o + 24) 8), seam := BitVec.ofNat 32 (field l (o + 32) 4) }

/-- A micro-program from its descriptor, steps and table. -/
def mpAt (l : List Byte) (o : Nat) : MicroProg :=
  let v := unpack l o 0 mpWidths
  let g := nth v
  let t := g 8
  let dig := BitVec.ofNat 256 (g 10)
  { slot := g 0, steps := (List.range (g 1)).map fun i => BitVec.ofNat 32 (field l (t - 4 * g 1 + 4 * i) 4), results := 1 + g 2,
    segs := g 3, segsel := g 4, mono := g 5, monoLo := BitVec.ofNat 32 (g 6), monoHi := BitVec.ofNat 32 (g 7),
    consts := (List.range (g 9)).map fun i => constAt l (t + 16 * i),
    table := (List.range (g 3)).map fun i => segAt l (t + 16 * g 9 + 36 * i), digest := dig,
    digestOk := Config.shake256 (slice l (t - 4 * g 1) (4 * g 1 + 16 * g 9 + 36 * g 3)) = dig }

/-- Does a micro-program's table lie within the image? -/
def mpInside (l : List Byte) (o : Nat) : Bool :=
  let g := nth (unpack l o 0 mpWidths)
  decide (g 8 % 8 = 0 ∧ 4 * g 1 ≤ g 8 ∧ g 8 + 16 * g 9 + 36 * g 3 ≤ l.length)

/-- Are constants' reserved bytes zero (R113)? -/
def mpReserved (l : List Byte) (o : Nat) : Bool :=
  let g := nth (unpack l o 0 mpWidths)
  reservedOk l o 0 mpWidths && field l (o + 56) 8 == 0
    && (List.range (g 9)).all fun i => decide (field l (g 8 + 16 * i + 8) 1 ≤ 1) && field l (g 8 + 16 * i + 9) 7 == 0

/-- The plan header's fields (R364). -/
structure PlanHead where
  magic : Nat
  cls : Nat
  bytes : Nat
  ops : Nat
  opOfs : Nat
  tensors : Nat
  tenOfs : Nat
  mp : Nat
  mpOfs : Nat
  models : Nat
  modOfs : Nat
  tokens : Nat
  tokOfs : Nat
  cores : Nat
  flags : Nat
  deriving DecidableEq, Repr

/-- The header of an image. -/
def headAt (l : List Byte) : PlanHead :=
  let f (o : Nat) : Nat := field l o 4
  { magic := f 0, cls := f 4, bytes := f 8, ops := f 12, opOfs := f 16, tensors := f 20, tenOfs := f 24, mp := f 28, mpOfs := f 32,
    models := f 36, modOfs := f 40, tokens := f 44, tokOfs := f 48, cores := field l 52 1, flags := field l 53 1 }

/-- Does the operation at an offset stand whole in the image, with the length of its kind, code included (R95, R363)? -/
def opInside (l : List Byte) (o : Nat) : Bool :=
  let kind := field l o 2
  let ws := opFields l o kind
  let v := unpack l o 64 ws
  o % 8 = 0 && decide (o + 8 ≤ l.length) && opWidths kind != [] && decide (packedSize 64 ws ≤ field l (o + 2) 2 * 8)
    && decide (o + field l (o + 2) 2 * 8 ≤ l.length) && field l (o + 4) 4 == 0 && reservedOk l o 64 ws
    && (slice l (o + packedSize 64 ws) (field l (o + 2) 2 * 8 - packedSize 64 ws)).all (· == 0)
    && (if kind = 0x0006 then nth v 1 % 8 == 0 && decide (nth v 1 + 8 * nth v 2 ≤ l.length) else true)

/-- Descriptor offsets that an operation names (R362); C is not read where the operation starts from +0 (R70). -/
def PlanOp.descs : PlanOp → List Nat
  | .matmul f => [f.aDesc, f.bDesc, f.outDesc, f.rowstatDesc, f.tstatDesc, f.grpCntDesc] ++ (if f.cInit = 1 then [f.cDesc] else [])
  | .attention f => [f.qDesc, f.kDesc, f.vDesc, f.oDesc, f.doDesc, f.dqDesc, f.dkDesc, f.dvDesc, f.lseDesc, f.dqpDesc, f.docDesc,
                     f.treeDesc, f.pathDesc]
  | .expert f => [f.scoreDesc, f.predDesc, f.emaskDesc, f.recDesc, f.selDesc, f.cntDesc, f.xDesc, f.bufDesc, f.ovfDesc, f.yDesc,
                  f.yovfDesc, f.retDesc, f.outDesc, f.wDesc]
  | .omtPack a b _ => [a, b]
  | .omtUnpack a b _ => [a, b]
  | .stage f => [f.srcDesc]
  | .vector _ | .transfer .. | .sync _ | .tradeReduce .. | .tradeGather .. | .optUpdate _ | .stepMark .. | .lullSnap _
  | .traceMark .. => []

/-- Is a descriptor offset 0 or an entry of the tensor table (log 19)? -/
def PlanHead.descOk (h : PlanHead) (o : Nat) : Bool :=
  o == 0 || (decide (h.tenOfs ≤ o) && (o - h.tenOfs) % 128 == 0 && decide ((o - h.tenOfs) / 128 < h.tensors))

/-- Stage 1 of the loader beyond translation, before any operation (R364, R369). -/
def imageOk (l : List Byte) : Bool :=
  let h := headAt l
  let inside (o n : Nat) : Bool := o % 8 == 0 && decide (o + n ≤ l.length)
  h.magic == 0x5A4E4C50 && h.bytes == l.length && decide (1 ≤ h.ops ∧ h.ops ≤ 2 ^ 20) && h.opOfs % 8 == 0
    && decide (h.tensors ≤ 2 ^ 20) && inside h.tenOfs (128 * h.tensors) && decide (h.mp ≤ 32) && inside h.mpOfs (64 * h.mp)
    && inside h.modOfs (16 * h.models) && decide (h.tokens ≤ 65536) && inside h.tokOfs (8 * h.tokens)
    && decide (h.flags < 32) && (slice l 54 202).all (· == 0)
    && ((List.range h.tensors).all fun i => tensorReserved l (h.tenOfs + 128 * i))
    && ((List.range h.mp).all fun i => mpInside l (h.mpOfs + 64 * i) && mpReserved l (h.mpOfs + 64 * i))
    && ((List.range h.models).all fun i => decide (field l (h.modOfs + 16 * i) 8 < 2 ^ 17))

/-- An image's plan with its digest; the die ranks are chosen at stage 13. -/
def planOf (l : List Byte) : Plan :=
  let h := headAt l
  { cls := h.cls, ops := (opOffsets l h.ops h.opOfs).map (opAt l),
    tensors := (List.range h.tensors).map fun i => (h.tenOfs + 128 * i, tensorAt l (h.tenOfs + 128 * i)),
    mps := (List.range h.mp).map fun i => mpAt l (h.mpOfs + 64 * i),
    models := (List.range h.models).map fun i =>
      (field l (h.modOfs + 16 * i) 2, bitOf (field l (h.modOfs + 16 * i) 4) 16, field l (h.modOfs + 16 * i + 8) 8),
    tokens := (List.range h.tokens).map fun i => field l (h.tokOfs + 8 * i) 8, cores := h.cores, dies := bits h.flags 0 4,
    exact := bitOf h.flags 4, dieRank := [], digest := Config.shake256 l }

end Sys2Proof.Machine
end

