-- ==== Sys2Proof/Machine/Sfu.lean ====
section
/-! DEFINITION. The special function unit's functions (04_vector_and_special_functions R105 to R108) and the basic steps of
micro-programs (R111, R113), lane by lane. -/
namespace Sys2Proof.Machine

/-! ## Built-in functions -/

/-- Sign and exponent of a power of two. -/
def pow2? : FV → Option (Bool × Int)
  | .fin s m e => if m != 0 && m == 2 ^ Nat.log2 m then some (s, e + (Nat.log2 m : Nat)) else none
  | _ => none

/-- An exact integer. -/
def fvInt? : FV → Option Int
  | .fin s m e =>
    if e < 0 then
      (if m % 2 ^ (-e).toNat = 0 then some (if s then -((m / 2 ^ (-e).toNat : Nat) : Int) else ((m / 2 ^ (-e).toNat : Nat) : Int)) else none)
    else some (if s then -((m * 2 ^ e.toNat : Nat) : Int) else ((m * 2 ^ e.toNat : Nat) : Int))
  | _ => none

/-- One. -/
def fvOne : FV := .fin false 1 0

/-- 2^n within the range that FP32 and the 16-bit exponent of an extended value (R111) tell apart. -/
def fvPow2 (s : Bool) (n : Int) : FV := .fin s 1 (max (-65536) (min 65536 n))

/-- Is x below an integer? -/
def fvLt (x : FV) (n : Int) : Bool := fvCmp x (fvInt n) = some .lt

/-- The exact results that R105, R107 and R108 state for an operand that is no NaN; none where only the 2 ulp bound holds. -/
def sfuExact (slot : Nat) (x : FV) : Option FV :=
  let neg := x.neg?
  match slot with
  | 0 => if x.isInf then some (if neg then fvZero else .inf false)
    else match fvInt? x with
      | some n => some (fvPow2 false n)
      | none => none
  | 1 => if x.isInf then some (if neg then fvZero else .inf false) else if x.isZero then some fvOne
    else if !fvLt x 65536 then some (fvPow2 false 65536) else if fvLt x (-65536) then some (fvPow2 false (-65536)) else none
  | 2 => if x.isZero then some (.inf true) else if neg then some .nan else if x.isInf then some (.inf false)
    else (pow2? x).map fun p => fvInt p.2
  | 3 => if x.isZero then some (.inf true) else if neg then some .nan else if x.isInf then some (.inf false)
    else match pow2? x with | some p => if p.2 = 0 then some fvZero else none | none => none
  | 4 => if x.isInf then some (.fin neg 0 0) else if x.isZero then some (.inf neg) else (pow2? x).map fun p => fvPow2 p.1 (-p.2)
  | 5 => if x.isZero then some (.inf neg) else if neg then some .nan else if x.isInf then some fvZero
    else match pow2? x with | some p => if p.2 % 2 = 0 then some (fvPow2 false (-p.2 / 2)) else none | none => none
  | 6 => if x.isZero then some x else if neg then some .nan else if x.isInf then some (.inf false)
    else match pow2? x with | some p => if p.2 % 2 = 0 then some (fvPow2 false (p.2 / 2)) else none | none => none
  | 7 => if x.isInf then some (if neg then fvZero else fvOne) else if x.isZero then some (.fin false 1 (-1)) else none
  | 8 => if x.isZero || fvCmp (fvAbs x) (.fin false 1 (-11)) = some .lt then some x
    else if !fvLt (fvAbs x) 10 then some (.fin neg 1 0) else none
  | 9 => if x.isInf then some .nan else if x.isZero then some x
    else (fvInt? x).map fun _ => .fin neg 0 0
  | 10 => if x.isInf then some .nan else if x.isZero then some fvOne
    else match fvInt? (fvMul x (fvInt 2)) with
      | some n => some (if n % 2 = 1 then fvZero else .fin (decide (n % 4 ≠ 0)) 1 0)
      | none => none
  | _ => none

/-! ## The exact functions (R105): reference values with about 150 bits, from which seams and the 2 ulp bound are taken -/

/-- Fraction bits of the reference values. -/
def refP : Nat := 160

/-- ln 2 and π in units of 2^-160. -/
def refLn2 : Nat := 0xb17217f7d1cf79abc9e3b39803f2f6af40f34326
def refPi : Nat := 0x3243f6a8885a308d313198a2e03707344a4093822

/-- A reference value of `k` units. -/
def refFv (k : Int) : FV := fvScaled k (-160)

/-- A finite value in units of 2^-160, rounded down. -/
def refUnits : FV → Int
  | .fin s m e => if -160 ≤ e then atExp s m e (-160) else (if s then -((m / 2 ^ (-160 - e).toNat : Nat) : Int) - 1 else ((m / 2 ^ (-160 - e).toNat : Nat) : Int))
  | _ => 0

/-- Σ y^k / k! for |y| at most 1. -/
def refExpSeries (y : Int) : Int :=
  ((List.range 45).foldl (fun (a : Int × Int) k => (a.1 + a.2, a.2 * y / 2 ^ refP / ((k : Int) + 1))) (0, 2 ^ refP)).1

/-- 2^f for f in [0, 1). -/
def refExp2 (f : Nat) : Nat := (refExpSeries (f * refLn2 / 2 ^ refP : Nat)).toNat

/-- 2 artanh z = ln ((1 + z) / (1 - z)) for z in [0, 1/3]. -/
def refArtanh2 (z : Nat) : Nat :=
  2 * ((List.range 55).foldl (fun (a : Nat × Nat) k => (a.1 + a.2 / (2 * k + 1), a.2 * z / 2 ^ refP * z / 2 ^ refP)) (0, z)).1

/-- ln m for m in [1, 2), given in units. -/
def refLn (m : Nat) : Nat := refArtanh2 ((m - 2 ^ refP) * 2 ^ refP / (m + 2 ^ refP))

/-- sin and cos of an angle in [0, π/4 + a little], in units. -/
def refSinSeries (y : Nat) : Int :=
  ((List.range 24).foldl (fun (a : Int × Int) k => (a.1 + a.2, -(a.2 * y / 2 ^ refP * y / 2 ^ refP / ((2 * k + 2) * (2 * k + 3))))) (0, (y : Int))).1

/-- sin πu for u in [0, 1/2]. -/
def refSinPi (u : FV) : FV :=
  if fvCmp u (.fin false 1 (-60)) = some .lt then fvMul u (refFv refPi) else refFv (refSinSeries ((refUnits u).toNat * refPi / 2 ^ refP))

/-- e^x of a finite x, its exponent held as `fvPow2` holds it. -/
def refExp (x : FV) : FV :=
  let k := refUnits x
  let n := k / refLn2
  .fin false (refExpSeries (k - n * refLn2)).toNat (max (-65536) (min 65536 n) - 160)

/-- √x with a sticky last bit. -/
def fvSqrt : FV → FV
  | .fin _ m e =>
    let k : Nat := 200 + (if (e - 200) % 2 = 0 then 0 else 1)
    let n := m * 2 ^ k
    .fin false (2 * Nat.sqrt n + (if Nat.sqrt n * Nat.sqrt n = n then 0 else 1)) ((e - k) / 2 - 1)
  | x => x

/-- 2^n x, n held within what the 16-bit exponent of an extended value tells apart (R111). -/
def fvShift (x : FV) (n : Int) : FV := fvMul x (.fin false 1 (max (-65536) (min 65536 n)))

/-- n and m in [1, 2) of a positive finite value m x 2^n. -/
def fvSplit : FV → Int × FV
  | .fin _ m e => (e + Nat.log2 m, .fin false m (-(Nat.log2 m : Nat)))
  | x => (0, x)

/-- ⌊x⌋. -/
def fvFloor : FV → Int
  | .fin s m e => if e < 0 then atExp s m e e / ((2 ^ (-e).toNat : Nat) : Int) else atExp s m e 0
  | _ => 0

/-- sinpi and cospi: the residue modulo 2 folded by quadrant to u in [0, 1/2], with the sign of the result (R105). -/
def foldPi (cos : Bool) (x : FV) : Bool × FV :=
  let r := fvAdd x (fvInt (-2 * fvFloor (fvMul x (.fin false 1 (-1)))))
  let q := fvFloor (fvMul r (fvInt 2))
  (if cos then q = 1 ∨ q = 2 else q = 2 ∨ q = 3,
    if q = 0 then r else if q = 1 then fvAdd fvOne (fvNeg r) else if q = 2 then fvAdd r (fvInt (-1)) else fvAdd (fvInt 2) (fvNeg r))

/-- A value with a sign. -/
def fvSigned (neg : Bool) (x : FV) : FV := if neg then fvNeg x else x

/-- The exact result of a built-in function for an operand to which `sfuExact` gives none, to about 150 bits (R105). -/
def sfuTrue (slot : Nat) (x : FV) : FV :=
  let n := fvFloor x
  let sp := fvSplit x
  let lg : FV := fvAdd (fvInt (sp.1 * refLn2)) (fvInt (refLn (refUnits sp.2).toNat))
  match slot with
  | 0 => fvShift (refFv (refExp2 (refUnits (fvAdd x (fvInt (-n)))).toNat)) n
  | 1 => refExp x
  | 2 => fvDiv lg (fvInt refLn2)
  | 3 => fvMul lg (.fin false 1 (-160))
  | 4 => fvDiv fvOne x
  | 5 => fvDiv fvOne (fvSqrt x)
  | 6 => fvSqrt x
  | 7 => if !x.neg? && !fvLt x 120 then fvAdd fvOne (fvNeg (.fin false 1 (-160))) else fvDiv fvOne (fvAdd fvOne (refExp (fvNeg x)))
  | 8 =>
    let e := refExp (fvMul (fvInt (-2)) (fvAbs x))
    fvSigned x.neg? (fvDiv (fvAdd fvOne (fvNeg e)) (fvAdd fvOne e))
  | 9 => let r := foldPi false x; fvSigned r.1 (refSinPi r.2)
  | _ => let r := foldPi true x; fvSigned r.1 (refSinPi (fvAdd (.fin false 1 (-1)) (fvNeg r.2)))

/-! ## The built-in functions as micro-programs (R105 to R107) -/

/-- The reduced functions behind the slots. -/
inductive SfuTable where
  | exp2 | log2 | recip | rsqrt | sqrt | sigmoid | tanh | sinpi | cospi
  deriving DecidableEq, Repr

/-- Number of a table. -/
def SfuTable.code : SfuTable → Nat
  | .exp2 => 0 | .log2 => 1 | .recip => 2 | .rsqrt => 3 | .sqrt => 4 | .sigmoid => 5 | .tanh => 6 | .sinpi => 7 | .cospi => 8

/-- Seams in units of 2^-6 of the reduced argument (R105): the left seam of each segment, and the end of the last one. -/
def SfuTable.seams : SfuTable → List Nat
  | .exp2 => (List.range 17).map (4 * ·)
  | .log2 => (List.range 17).map (64 + 4 * ·)
  | .recip => (List.range 33).map (64 + 2 * ·)
  | .rsqrt => (List.range 17).map (64 + 4 * ·) ++ (List.range 16).map (136 + 8 * ·)
  | .sqrt => (List.range 17).map (64 + 4 * ·) ++ (List.range 16).map (136 + 8 * ·)
  | .sigmoid => (List.range 65).map (8 * ·) ++ (List.range 16).map (544 + 32 * ·)
  | .tanh => (List.range 33).map (8 * ·) ++ (List.range 12).map (288 + 32 * ·)
  | .sinpi => List.range 33
  | .cospi => List.range 33

/-- The reduced function at a seam. -/
def SfuTable.at (t : SfuTable) (k : Nat) : FV :=
  let u : FV := .fin false k (-6)
  match t with
  | .exp2 => if k = 0 then fvOne else sfuTrue 0 u
  | .log2 => if k = 64 then fvZero else sfuTrue 2 u
  | .recip => sfuTrue 4 u
  | .rsqrt => sfuTrue 5 u
  | .sqrt => sfuTrue 6 u
  | .sigmoid => if k = 0 then .fin false 1 (-1) else sfuTrue 7 (fvNeg u)
  | .tanh => if k = 0 then fvZero else sfuTrue 8 u
  | .sinpi => if k = 0 then fvZero else refSinPi u
  | .cospi => if k = 32 then fvZero else refSinPi (.fin false (32 - k) (-6))

/-- A seam value: correctly rounded to FP32 (R107), in units of 2^-48. -/
def SfuTable.seam (t : SfuTable) (i : Nat) : Int :=
  match t.seams[i]? with
  | some k => (match (roundTo ffFp32 false (t.at k)).v with | .fin s m e => atExp s m e (min e (-48)) / 2 ^ (-48 - min e (-48)).toNat | _ => 0)
  | none => 0

/-- Does segment 0 evaluate the offset times the cubic (R105)? -/
def SfuTable.factor (t : SfuTable) : Bool := t = .log2 ∨ t = .tanh ∨ t = .sinpi

/-- Truncation toward zero of a product of values with 48 fraction bits (R106). -/
def mul48 (a b : Int) : Int := (a * b).tdiv (2 ^ 48)

/-- A limit to the closed interval between two values. -/
def clampInt (x a b : Int) : Int := max (min a b) (min (max a b) x)

/-- The cubic of a segment (R106): three coefficients are the class's own (log 12), the first makes the value at the right end `right`
(R107). -/
def sfuCubic (t : SfuTable) (i : Nat) (right x : Int) : Int :=
  let c (k : Nat) : Int := (Config.sfuCoef t.code i k).toInt
  let c0 := right - c 1 - c 2 - c 3
  c0 + mul48 x (c 1 + mul48 x (c 2 + mul48 x (c 3)))

/-- A reduced function: the segment and the offset scaled to its width as a fraction of 48 bits, the cubic, the seam clamp (R106, R107).
In segment 0 of `factor` the cubic is multiplied by the distance from the left seam, exactly (log 110). -/
def SfuTable.eval (t : SfuTable) (u : FV) : FV :=
  let ss := t.seams
  let i := (((List.range (ss.length - 1)).filter fun j => fvCmp (.fin false (nth ss j) (-6)) u != some .gt).length) - 1
  let l := nth ss i
  let w := nth ss (i + 1) - l
  let d := fvAdd u (fvNeg (.fin false l (-6)))
  let x : Nat := match fvDiv d (.fin false w (-6)) with
    | .fin _ m e => if -48 ≤ e then m * 2 ^ (e + 48).toNat else m / 2 ^ (-48 - e).toNat
    | _ => 0
  let a := t.seam i
  let b := t.seam (i + 1)
  let x : Int := Int.ofNat x
  if x ≥ 2 ^ 48 then fvScaled b (-48)
  else if i = 0 ∧ t.factor then
    let v := fvMul d (fvScaled (sfuCubic t 0 (b * 64 / w) x) (-48))
    if fvCmp v (fvScaled a (-48)) = some .lt then fvScaled a (-48) else if fvCmp v (fvScaled b (-48)) = some .gt then fvScaled b (-48) else v
  else fvScaled (clampInt (sfuCubic t i b x) a b) (-48)

/-- The exact value of an extended value's significand: rounded to nearest even at 48 bits (R111). -/
def round48 : FV → FV
  | .fin s m e => if m = 0 then .fin s 0 0 else let q := e + bitLen m - 48; .fin s (roundAt m e q) q
  | x => x

/-- log₂e with 48 bits, and ln 2 with 48 bits (R105). -/
def log2e48 : FV := .fin false 0xb8aa3b295c18 (-47)
def ln2At48 : FV := .fin false 0xb17217f7d1cf (-48)

/-- exp2 by its reduction. -/
def calcExp2 (x : FV) : FV := let n := fvFloor x; fvShift (SfuTable.eval .exp2 (fvAdd x (fvInt (-n)))) n

/-- exp by its reduction: u = x log₂e kept to 48 fraction bits, truncated toward zero (log 110). -/
def calcExp (x : FV) : FV :=
  match fvMul x log2e48 with
  | .fin s m e => calcExp2 (if -48 ≤ e then .fin s m e else .fin s (m / 2 ^ (-48 - e).toNat) (-48))
  | y => y

/-- log2 by its reduction: n + q(m), exact. -/
def calcLog2 (x : FV) : FV := let p := fvSplit x; fvAdd (fvInt p.1) (SfuTable.eval .log2 p.2)

/-- n and m in [1, 4) of a positive finite value 4^n x m. -/
def fvSplit4 (x : FV) : Int × FV := let p := fvSplit x; (p.1 / 2, fvShift p.2 (p.1 % 2))

/-- The reconstructed result of a built-in function before its one rounding (R105, R106): rebuilt in the extended format, with its 48 bits,
but for the sums that R105 forms exactly. -/
def sfuCalc (slot : Nat) (x : FV) : FV :=
  match slot with
  | 0 => round48 (calcExp2 x)
  | 1 => round48 (calcExp x)
  | 2 => calcLog2 x
  | 3 => fvMul (round48 (calcLog2 x)) ln2At48
  | 4 => let p := fvSplit (fvAbs x); fvSigned x.neg? (round48 (fvShift (SfuTable.eval .recip p.2) (-p.1)))
  | 5 => let p := fvSplit4 x; round48 (fvShift (SfuTable.eval .rsqrt p.2) (-p.1))
  | 6 => let p := fvSplit4 x; round48 (fvShift (SfuTable.eval .sqrt p.2) p.1)
  | 7 =>
    if !fvLt (fvAbs x) 16 then
      let e := round48 (calcExp (fvNeg (fvAbs x)))
      if x.neg? then fvAdd e (fvNeg (fvMul e e)) else fvAdd fvOne (fvNeg e)
    else
      let v := SfuTable.eval .sigmoid (fvAbs x)
      if x.neg? then v else fvAdd fvOne (fvNeg v)
  | 8 => fvSigned x.neg? (round48 (SfuTable.eval .tanh (fvAbs x)))
  | 9 => let r := foldPi false x; fvSigned r.1 (round48 (SfuTable.eval .sinpi r.2))
  | _ => let r := foldPi true x; fvSigned r.1 (round48 (SfuTable.eval .cospi r.2))

/-- The unit in the last place of FP32 at a value, as an exponent. -/
def ulpExp : FV → Int
  | .fin _ m e => max (-149) (e + bitLen m - 24)
  | _ => 0

/-- Does a value, rounded to FP32 with unbounded range, lie within 2 ulp of another one (R105)? -/
def withinUlps (t : FV) : FV → Bool
  | .fin s m e =>
    let q := ulpExp (.fin s m e)
    decide (m ≠ 0) && fvCmp (fvAbs (fvAdd (.fin s (roundAt m e q) q) (fvNeg t))) (.fin false 2 (ulpExp t)) != some .gt
  | _ => false

/-- The FP32 pattern at position `n` of the ascending order of all values but NaN: negatives first. -/
def nthFp32 (n : Nat) : W32 := BitVec.ofNat 32 (if n < 0x7F800001 then 0xFF800000 - n else n - 0x7F800001)

/-- Where a built-in function is monotonic between two ascending operands, whether it increases there (the last column of R105). -/
def sfuDirection (slot : Nat) (x y : FV) : Option Bool :=
  let k := fvFloor (fvMul x (fvInt 2))
  let half (up : Bool) : Option Bool := if fvCmp (fvMul y (fvInt 2)) (fvInt (k + 1)) = some .gt then none else some up
  match slot with
  | 0 | 1 | 7 | 8 => some true
  | 2 | 3 | 6 => if x.neg? then none else some true
  | 4 => if x.neg? == y.neg? then some false else none
  | 5 => if x.neg? then none else some false
  | 9 => half (k % 4 = 0 ∨ k % 4 = 3)
  | _ => half (k % 4 = 2 ∨ k % 4 = 3)

/-- What the class's tables give for an operand, rounded once. -/
def sfuTabled (slot : Nat) (x : FV) : FV := (roundTo ffFp32 false ((sfuExact slot x).getD (sfuCalc slot x))).v

/-- Do the tables keep what R105 and R107 say of two successive FP32 operands: within 2 ulp, and no step backward? -/
def sfuPairOk (slot : Nat) (x y : FV) : Bool :=
  ((sfuExact slot x).isSome || withinUlps (sfuTrue slot x) (sfuCalc slot x)) &&
    match sfuDirection slot x y with
    | some true => fvCmp (sfuTabled slot x) (sfuTabled slot y) != some .gt
    | some false => fvCmp (sfuTabled slot x) (sfuTabled slot y) != some .lt
    | none => true

/-- The same of the first `n` + 1 operands in ascending order. -/
def sfuPairsOk (slot : Nat) : Nat → Bool
  | 0 => true
  | n + 1 => sfuPairOk slot (fv32 (nthFp32 n)) (fv32 (nthFp32 (n + 1))) && sfuPairsOk slot n

/-- Do the free coefficients make a table of the class: over every FP32 input within 2 ulp and never a step backward over the monotonic ranges
(R105, R107)? -/
@[irreducible] def sfuClass (slot : Nat) : Bool := sfuPairsOk slot 0xFF000001

/-- The result of a built-in function before its rounding, for an operand to which `sfuExact` gives none: what the class's tables give; the
exact result where the free coefficients are no table of the class, or an operand beyond FP32 would leave the 2 ulp (R105, R107; log 12). -/
def sfuOpen (slot : Nat) (x : FV) : FV :=
  let t := sfuTrue slot x
  let v := sfuCalc slot x
  if withinUlps t v && sfuClass slot then v else t

/-- A function's result rounded once to FP32, with its flags (R92, R108): a finite value beyond the range carries OVF. -/
def sfuFlags (flush : Bool) (a : Entry) (flushed : Bool) (v : FV) : Entry :=
  let r := roundTo ffFp32 flush v
  { v := w32 r.v,
    fl := a.fl ||| (if r.ovf then 1#4 else 0#4) ||| (if v.isInf || isInf32 a.v then 2#4 else 0#4) ||| (if v.isNan then 4#4 else 0#4)
      ||| (if r.flush || flushed then 8#4 else 0#4),
    nin := false }

/-- The canonical NaN that a NaN operand gives at once (R109). -/
def sfuNan (a : Entry) : Entry := { v := nan32, fl := a.fl ||| 4#4, nin := a.nin }

/-- A single-result built-in function (slots 0-10). -/
def sfuFn (slot : Nat) (flush : Bool) (a : Entry) : Entry :=
  if isNan32 a.v then sfuNan a
  else
    let x := flushIn flush a.v
    sfuFlags flush a x.2 ((sfuExact slot (fv32 x.1)).getD (sfuOpen slot (fv32 x.1)))

/-- A function of a pattern, preserving subnormals. -/
def sfu32 (slot : Nat) (w : W32) : W32 := (sfuFn slot false ⟨w, 0#4, false⟩).v

/-- r of rot_sincos (R105): (p x (w.hi + w.lo)) mod 2, truncated toward zero to a multiple of 2^-47, in units of 2^-47. -/
def rotAngle (p hi lo : W32) : Option Nat :=
  match fvMul (fvInt p.toNat) (pfExact hi lo) with
  | .fin s m e =>
    -- exact residue modulo 2, held over the lowest unit of the product
    let q := min e 0
    let two : Int := ((2 ^ (1 - q).toNat : Nat) : Int)
    let k := atExp s m e q % two
    some (if -47 ≤ q then k.toNat * 2 ^ (q + 47).toNat else k.toNat / 2 ^ (-47 - q).toNat)
  | _ => none

/-- rot_sincos (slot 11): both results (R105, R108). -/
def sfuRot (flush : Bool) (a hi lo : Entry) : Entry × Entry :=
  let fl := hi.fl ||| lo.fl
  let bad (nin : Bool) : Entry := { v := nan32, fl := fl ||| 4#4 ||| (if isInf32 hi.v then 2#4 else 0#4), nin := nin }
  if isNan32 hi.v || isInf32 hi.v then (bad (isNan32 hi.v && hi.nin), bad (isNan32 hi.v && hi.nin))
  else if isNan32 lo.v || isInf32 lo.v then (bad (isNan32 lo.v && lo.nin), bad (isNan32 lo.v && lo.nin))
  else
    let r := rotAngle a.v hi.v lo.v
    let e : Entry := ⟨0#32, fl, false⟩
    let one := 2 ^ 47
    let x : FV := .fin false (r.getD 0) (-47)
    let n := r.getD 0
    (sfuFlags flush e false (if n % one = 0 then fvZero else sfuOpen 9 x),
      sfuFlags flush e false (if n = 0 then fvOne else if n = one then .fin true 1 0 else if n % one = one / 2 then fvZero else sfuOpen 10 x))

/-! ## Extended and fixed-point values (R111) -/

/-- The exact value of an internal register. -/
def MpVal.fv : MpVal → FV
  | .ext x => .fin x.neg x.m x.e
  | .fix x => fvScaled x (-48)

/-- A value rounded to nearest even at 48 bits, its significand normalised, with an exponent of any size. -/
def extRaw : FV → Ext
  | .fin s m e =>
    if m = 0 then ⟨s, 0, 0⟩
    else
      let q := e + bitLen m - 48
      let k := roundAt m e q
      if k = 2 ^ 48 then ⟨s, 2 ^ 47, q + 1⟩ else ⟨s, k, q⟩
  | _ => ⟨false, 0, 0⟩

/-- A free extended value: the n-th kind of open result for an operand (log 12). -/
def openExt (n : Nat) (x : Ext) : Ext :=
  let r := Config.sfuExt n (x.neg, x.m, x.e)
  let y := extRaw (.fin r.1 r.2.1 0)
  { y with e := sInt 16 (uInt 16 r.2.2) }

/-- An extended value whose exponent is not held in 16 bits is not stated: a free value (R111, log 12). -/
def extLim (x : Ext) : Ext := if x.m = 0 ∨ (-(2 ^ 15) ≤ x.e ∧ x.e < 2 ^ 15) then x else openExt 71 x

/-- An extended value: a 48-bit significand rounded to nearest even and a 16-bit exponent (R111). -/
def extOf (x : FV) : Ext := extLim (extRaw x)

/-- A fixed-point value that 64 bits do not hold is not stated: a free value (R111, log 12). -/
def fixLim (x : Int) : Int :=
  if -(2 ^ 63) ≤ x ∧ x < 2 ^ 63 then x
  else let r := openExt 72 ⟨decide (x < 0), x.natAbs, 0⟩; sInt 64 (uInt 64 (if r.neg then -(r.m * 65537 + 1 : Int) else (r.m * 65537 : Int)))

/-- A value truncated toward zero to 48 fraction bits, in 64 bits (R111). -/
def fixOf : FV → Int
  | .fin s m e =>
    let k := if -48 ≤ e then m * 2 ^ (e + 48).toNat else m / 2 ^ (-48 - e).toNat
    fixLim (if s then -(k : Int) else (k : Int))
  | _ => 0

/-- An internal register as an extended value. -/
def MpVal.toExt (v : MpVal) : Ext := extOf v.fv

/-! ## Steps (R113) -/

/-- Fields of a step word. -/
def stepOp (w : BitVec 32) : Nat := bits w.toNat 0 4
def stepD (w : BitVec 32) : Nat := bits w.toNat 4 3
def stepA (w : BitVec 32) : Nat := bits w.toNat 7 3
def stepB (w : BitVec 32) : Nat := bits w.toNat 10 3
def stepC (w : BitVec 32) : Nat := bits w.toNat 13 3
def stepImm (w : BitVec 32) : Nat := bits w.toNat 16 16

/-- A lane's register. -/
def MpLane.reg (l : MpLane) (i : Nat) : MpVal := l.regs.getD i (.ext ⟨false, 0, 0⟩)

/-- Write a register. -/
def MpLane.put (l : MpLane) (i : Nat) (v : MpVal) : MpLane := { l with regs := l.regs.set (i % 8) v }

/-- A lane on entry: register 0 holds the operand exactly, registers 1-7 hold +0 (R113). The extended form of an infinity is not
stated (log 12). -/
def MpLane.start (flush : Bool) (x : W32) : MpLane :=
  let v : Ext := match fv32 x with
    | .inf n => openExt 70 ⟨n, 0, 0⟩
    | y => extOf y
  { regs := MpVal.ext v :: List.replicate 7 (.ext ⟨false, 0, 0⟩), pc := 0, pred := false, seg := none, outs := [], flush := flush }

/-- SPLITE: m in [1, 2), or [1, 4) with n even; a zero's split is not stated (log 12). -/
def mpSplite (w : BitVec 32) (l : MpLane) : MpLane :=
  let x := (l.reg (stepA w)).toExt
  if x.m = 0 then
    (l.put (stepD w) (.ext (openExt 64 x))).put (stepD w + 1) (.fix (fixOf (.fin false (openExt 65 x).m 0)))
  else
    let n0 := x.e + 47
    let n := if stepImm w % 2 = 1 then n0 - n0 % 2 else n0
    (l.put (stepD w) (.ext ⟨false, x.m, x.e - n⟩)).put (stepD w + 1) (.fix (fixLim (n * 2 ^ 48)))

/-- SPLITI: n = ⌊x⌋ and f = x - n, exact wherever 48 bits hold f (log 110). -/
def mpSpliti (w : BitVec 32) (l : MpLane) : MpLane :=
  let x := (l.reg (stepA w)).fv
  let n := fvFloor x
  let f := fvAdd x (fvInt (-n))
  (l.put (stepD w) (.fix (fixLim (n * 2 ^ 48)))).put (stepD w + 1) (.ext (extOf f))

/-- The bits of a register that SEG selects from: a fixed-point value's 64 bits, an extended value's 48-bit significand. The spec does not
say which bits an extended value shows (log 110). -/
def MpVal.raw : MpVal → Nat
  | .fix x => uInt 64 x
  | .ext x => x.m

/-- SEG: the segment index from the field of `MP_SEGSEL`; t is what lies below the field, as a 48-bit fraction (log 110). -/
def mpSeg (p : MicroProg) (w : BitVec 32) (l : MpLane) : MpLane :=
  let r := (l.reg (bits p.segsel 12 4)).raw
  let o := bits p.segsel 6 6
  let i := bits r o (bits p.segsel 0 6)
  let low := r % 2 ^ o
  let t := if o ≤ 48 then low * 2 ^ (48 - o) else low / 2 ^ (o - 48)
  { (l.put (stepD w) (.fix t)) with seg := some i }

/-- A coefficient of the current segment; before any SEG it is not stated (log 12). -/
def MpLane.coef (p : MicroProg) (l : MpLane) (k : Nat) : Int :=
  match l.seg.bind fun i => p.table[i]? with
  | some g => (match k with | 0 => g.c0 | 1 => g.c1 | 2 => g.c2 | _ => g.c3).toInt
  | none => fixOf (MpVal.ext (openExt (66 + k) ⟨false, 0, 0⟩)).fv

/-- HORNER (R106): c3, or c_k + A x B with the product truncated toward zero to 48 fraction bits. -/
def mpHorner (p : MicroProg) (w : BitVec 32) (l : MpLane) : MpLane :=
  let k := stepImm w % 4
  if k = 3 then l.put (stepD w) (.fix (l.coef p 3))
  else l.put (stepD w) (.fix (fixLim (l.coef p k + fixOf (fvMul (l.reg (stepA w)).fv (l.reg (stepB w)).fv))))

/-- FADD, FMUL, FFMA: one rounding at 48 bits. -/
def mpFadd (w : BitVec 32) (l : MpLane) : MpLane :=
  l.put (stepD w) (.ext (extOf (fvAdd (l.reg (stepA w)).fv (l.reg (stepB w)).fv)))
def mpFmul (w : BitVec 32) (l : MpLane) : MpLane :=
  l.put (stepD w) (.ext (extOf (fvMul (l.reg (stepA w)).fv (l.reg (stepB w)).fv)))
def mpFfma (w : BitVec 32) (l : MpLane) : MpLane :=
  l.put (stepD w) (.ext (extOf (fvAdd (fvMul (l.reg (stepA w)).fv (l.reg (stepB w)).fv) (l.reg (stepC w)).fv)))

/-- SCALE: A x 2^n. -/
def mpScale (w : BitVec 32) (l : MpLane) : MpLane :=
  let x := (l.reg (stepA w)).toExt
  l.put (stepD w) (.ext (extLim ⟨x.neg, x.m, x.e + fvFloor (l.reg (stepB w)).fv⟩))

/-- CMP: the step predicate. -/
def mpCmp (w : BitVec 32) (l : MpLane) : MpLane :=
  { l with pred := condHolds (stepImm w % 8) (fvCmp (l.reg (stepA w)).fv (l.reg (stepB w)).fv) }

/-- SEL. -/
def mpSel (w : BitVec 32) (l : MpLane) : MpLane := l.put (stepD w) (if l.pred then l.reg (stepA w) else l.reg (stepB w))

/-- A value limited to the closed interval between two others. -/
def clampFv (x a b : FV) : FV :=
  let lo := if fvCmp a b = some .gt then b else a
  let hi := if fvCmp a b = some .gt then a else b
  if fvCmp x lo = some .lt then lo else if fvCmp x hi = some .gt then hi else x

/-- Keep a register's kind of value when it is clamped. -/
def MpVal.like (v : MpVal) (x : FV) : MpVal :=
  match v with
  | .fix _ => .fix (fixOf x)
  | .ext _ => .ext (extOf x)

/-- CLAMP between two constants. -/
def mpClamp (p : MicroProg) (w : BitVec 32) (l : MpLane) : MpLane :=
  let c (i : Nat) : FV := match p.consts[i]? with | some x => (MpVal.ext x).fv | none => fvZero
  let a := l.reg (stepA w)
  l.put (stepD w) (a.like (clampFv a.fv (c (bits (stepImm w) 0 4)) (c (bits (stepImm w) 4 4))))

/-- A segment's value at its right end: t = 1 in R106. -/
def Seg.right (g : Seg) : Int := g.c0.toInt + g.c1.toInt + g.c2.toInt + g.c3.toInt

/-- SEAMCLAMP (R107): between the segment's seam value and the next one, or the value of its right end in the last segment. -/
def mpSeamclamp (p : MicroProg) (w : BitVec 32) (l : MpLane) : MpLane :=
  let a := l.reg (stepA w)
  match l.seg with
  | none => l.put (stepD w) a
  | some i =>
    match p.table[i]?, p.table[i + 1]? with
    | some g, some h => l.put (stepD w) (a.like (clampFv a.fv (fv32 g.seam) (fv32 h.seam)))
    | some g, none => l.put (stepD w) (a.like (clampFv a.fv (fv32 g.seam) (fvScaled g.right (-48))))
    | none, _ => l.put (stepD w) a

/-- CALL: a built-in function kept in extended form, before any rounding to FP32 (R113); the extended form of an infinite or invalid
result is not stated (log 12). -/
def mpCall (w : BitVec 32) (l : MpLane) : MpLane :=
  let x := (l.reg (stepA w)).toExt
  let y : FV := .fin x.neg x.m x.e
  let r : Ext := match (sfuExact (stepImm w % 32) y).getD (sfuOpen (stepImm w % 32) y) with
    | .fin s m e => extOf (.fin s m e)
    | _ => openExt (stepImm w % 32) x
  l.put (stepD w) (.ext r)

/-- OUT: round once to FP32, the next result. -/
def mpOut (w : BitVec 32) (l : MpLane) : MpLane :=
  let r := roundTo ffFp32 l.flush (l.reg (stepA w)).fv
  { l with outs := l.outs ++ [⟨w32 r.v, (if r.ovf then 1#4 else 0#4) ||| (if r.flush then 8#4 else 0#4), false⟩] }

/-- What a step word does, without the advance. -/
def mpAct (p : MicroProg) (w : BitVec 32) (l : MpLane) : MpLane :=
  match stepOp w with
  | 0 => mpSplite w l
  | 1 => mpSpliti w l
  | 2 => mpSeg p w l
  | 3 => mpHorner p w l
  | 4 => mpFadd w l
  | 5 => mpFmul w l
  | 6 => mpFfma w l
  | 7 => mpScale w l
  | 8 => mpCmp w l
  | 9 => mpSel w l
  | 11 => mpClamp p w l
  | 12 => mpSeamclamp p w l
  | 13 => mpCall w l
  | 14 => mpOut w l
  | _ => l

/-- Steps a lane moves on: SKIP passes `MS_IMM`[5:0] more when the step predicate is set. -/
def mpAdvance (w : BitVec 32) (l : MpLane) : Nat := if stepOp w = 10 ∧ l.pred then 1 + stepImm w % 64 else 1

/-- One step of a lane. -/
def mpStep (p : MicroProg) (l : MpLane) : MpLane :=
  match p.steps[l.pc]? with
  | none => l
  | some w => let m := mpAct p w l; { m with pc := l.pc + mpAdvance w l }

/-- Run a lane to its end: a program has at most 64 steps and only skips forward. -/
def mpRun (p : MicroProg) : Nat → MpLane → MpLane
  | 0, l => l
  | n + 1, l => mpRun p n (mpStep p l)

/-- The results of a program on one operand. -/
def mpEval (p : MicroProg) (x : W32) : List W32 := (mpRun p 64 (MpLane.start false x)).outs.map Entry.v

/-- Position of a pattern in that order. -/
def rankFp32 (w : W32) : Nat := if bitOf w.toNat 31 then 0xFF800000 - w.toNat else w.toNat + 0x7F800001

/-- The exhaustive run of R115: does some result step backward over the declared interval? -/
def stepsBack (p : MicroProg) : Bool :=
  let lo := rankFp32 p.monoLo
  (List.range (rankFp32 p.monoHi - lo)).any fun i =>
    (List.zip (mpEval p (nthFp32 (lo + i))) (mpEval p (nthFp32 (lo + i + 1)))).any fun r =>
      if p.mono = 1 then decide (ordKey r.2 < ordKey r.1) else decide (ordKey r.1 < ordKey r.2)

end Sys2Proof.Machine
end

