-- ==== Sys2Proof/Machine/Loader.lean ====
section
/-! DEFINITION. The loader's checks, stage by stage (15_command_protocol R369), as the chapters that its table names give them. -/
namespace Sys2Proof.Machine

/-! ## Descriptors against their operation (R470) -/

/-- Is a named descriptor of a rank, each extent at least the logical one? -/
def Plan.shapeIs (p : Plan) (o : Nat) (dims : List Nat) : Bool :=
  match p.ten o with
  | none => true
  | some d => d.rank == dims.length && (List.zip d.shape dims).all fun e => decide (e.2 ≤ e.1)

/-- Has a named descriptor one of these formats and this layout? -/
def Plan.fmtIs (p : Plan) (o : Nat) (fmts : List Nat) (layout : Nat) : Bool :=
  match p.ten o with
  | none => true
  | some d => fmts.contains d.fmt && d.layout == layout

/-- Are all required descriptor fields nonzero? -/
def required (l : List Nat) : Bool := l.all (· != 0)

/-- A count field in which 0 stands for its largest value (R70). -/
def zeroMax (n mx : Nat) : Nat := if n = 0 then mx else n

/-- Number of bits set in three. -/
def pop3 (n : Nat) : Nat := b2n (bitOf n 0) + b2n (bitOf n 1) + b2n (bitOf n 2)

/-! ## The matrix grid (R71, R72, R220) -/

def MatF.tm (f : MatF) : Nat := 32 * f.tileM
def MatF.tn (f : MatF) : Nat := 32 * f.tileN
def MatF.splits (f : MatF) : Nat := zeroMax f.kSplit 16
def MatF.width (f : MatF) : Nat := zeroMax f.claimWidth 16
def MatF.ranges (f : MatF) : Nat := zeroMax f.rangeCount 4

/-- Gm, for a grouped operation its bound. -/
def MatF.gm (f : MatF) : Nat := if f.grpCount = 0 then ceilDiv f.m f.tm else ceilDiv f.m f.tm + f.grpCount
def MatF.gn (f : MatF) : Nat := ceilDiv f.n f.tn
/-- Groups of K. -/
def MatF.groups (f : MatF) : Nat := ceilDiv f.k 32
/-- Groups of every split but the last. -/
def MatF.perSplit (f : MatF) : Nat := ceilDiv f.groups f.splits
/-- Units: (tile, split) pairs. -/
def MatF.units (f : MatF) : Nat := f.gm * f.gn * f.splits

/-- Is the tile shape legal (R65, R69), are the splits nonempty (R72) and the ranges whole (R73)? -/
def MatF.tileOk (f : MatF) : Bool :=
  decide (1 ≤ f.tileM ∧ f.tileM ≤ 32 ∧ 1 ≤ f.tileN ∧ f.tileN ≤ 32) && decide (f.tm * f.tn ≤ (if f.dbuf = 1 then 32768 else 65536))
    && decide ((f.splits - 1) * f.perSplit < f.groups)
    && (let ends := f.rangeEnd.take f.ranges
        (List.zip ends (ends.drop 1)).all (fun e => decide (e.1 ≤ e.2)) && nth ends (f.ranges - 1) == f.units)

/-- Bytes of an operand element. -/
def MatF.opBytes (f : MatF) : Nat := (fmtOf f.aFmt).size

/-- Does the tile fit a partition (R65, R66)? -/
def MatF.fits (f : MatF) (part : Nat) : Bool :=
  decide (f.tm * f.tn * (1 + f.dbuf) ≤ partEnt part) && decide (2 * (f.tm + f.tn) * 256 * f.opBytes + 65536 ≤ partSp part)

/-- Does an attention operation's accumulator footprint fit (R68)? -/
def AttF.fits (f : AttF) (part : Nat) : Bool :=
  let d := alignUp f.headDim 32
  match f.op with
  | 0 | 2 => decide (32 * d + 2112 ≤ partEnt part)
  | 1 => decide (64 * d + 4096 ≤ partEnt part)
  | _ => true

/-- Does an operation fit a partition (R69)? -/
def PlanOp.fits (o : PlanOp) (part : Nat) : Bool :=
  match o with
  | .matmul f => f.fits part
  | .attention f => f.fits part
  | .expert _ | .omtPack .. | .omtUnpack .. | .vector _ | .transfer .. | .sync _ | .stage _ | .tradeReduce .. | .tradeGather ..
  | .optUpdate _ | .stepMark .. | .lullSnap _ | .traceMark .. => true

/-! ## Vector words (R95, R96) -/

def wordD (w : W64) : Nat := bits w.toNat 10 5
def wordA (w : W64) : Nat := bits w.toNat 15 5
def wordB (w : W64) : Nat := bits w.toNat 20 5
def wordC (w : W64) : Nat := bits w.toNat 25 5
def wordFmt (w : W64) : Nat := bits w.toNat 35 3

/-- The codes of R96. -/
def vecOps : List Nat :=
  [0x01, 0x02, 0x03, 0x04, 0x05, 0x06, 0x07, 0x08, 0x10, 0x11, 0x12, 0x13, 0x18, 0x20, 0x21, 0x28, 0x29, 0x2A, 0x30, 0x38, 0x39, 0x3A,
   0x40, 0x48, 0x50]

/-- Has a plan's micro-program slot two results? -/
def Plan.twoResults (p : Plan) (slot : Nat) : Bool := slot == 11 || p.mps.any fun m => m.slot == slot && m.results == 2

/-- The format of a load or store. -/
def Plan.accessFmt (p : Plan) (w : W64) : Nat :=
  if wordSpace w = 1 then (match p.tenIdx (wordImm w % 2 ^ 20) with | some d => d.fmt | none => 7) else wordFmt w

/-- Registers past D that a word writes. -/
def Plan.extraD (p : Plan) (w : W64) : Nat :=
  match wordOp w with
  | 0x20 | 0x21 | 0x38 | 0x3A | 0x50 => 1
  | 0x28 => if p.accessFmt w = 5 then 1 else 0
  | 0x30 => if [1, 2, 6, 7].contains (wordImm w) then 1 else 0
  | 0x39 => 3
  | 0x40 => if p.twoResults (wordImm w) then 1 else 0
  | _ => 0

/-- Registers past A and past B that a word reads. -/
def Plan.extraA (p : Plan) (w : W64) : Nat :=
  match wordOp w with
  | 0x29 => if p.accessFmt w = 5 then 1 else 0
  | 0x39 => 1
  | _ => 0
def extraB (w : W64) : Nat :=
  match wordOp w with
  | 0x39 => 1
  | 0x40 => if wordImm w = 11 then 1 else 0
  | _ => 0

/-- Is the immediate in its range? `g`: lane groups of the stream. -/
def immOk (tensors g : Nat) (w : W64) : Bool :=
  let i := wordImm w
  match wordOp w with
  | 0x10 => decide (i ≤ 6)
  | 0x11 => decide (i ≤ 7)
  | 0x12 | 0x13 | 0x38 | 0x39 => decide (i ≤ 1)
  | 0x18 =>
    if i % 4 = 3 then false
    else if i % 4 = 0 ∧ wordFmt w = 4 then decide (i / 4 ≤ 270)
    else decide (i / 4 = 0)
  | 0x28 | 0x29 => wordSpace w == 0 || decide (i < tensors)
  | 0x2A => true
  | 0x30 => decide (i ≤ 7)
  | 0x3A => decide (i < 64 ∧ i < 16 * g)
  | 0x40 => decide (i < 64) && !decide (12 ≤ i ∧ i ≤ 31)
  | 0x48 => i % 4 != 3 && decide (i / 4 < tensors)
  | _ => i == 0

/-- Does the instruction take its format? One that takes none ignores `VI_FMT` (log 121). -/
def Plan.wordFmtOk (p : Plan) (w : W64) : Bool :=
  match wordOp w with
  | 0x18 => if wordImm w % 4 = 0 then decide (wordFmt w ≤ 4) else wordFmt w == 6
  | 0x28 | 0x29 => p.accessFmt w != 7
  | _ => true

/-- Are the bits beside predicate numbers zero? -/
def wordReserved (w : W64) : Bool :=
  match wordOp w with
  | 0x10 => decide (wordD w < 8)
  | 0x12 | 0x13 => decide (wordD w < 8 ∧ wordA w < 8 ∧ wordB w < 8)
  | _ => true

/-- Is an instruction word accepted (R95, R106)? -/
def Plan.wordOk (p : Plan) (streams : Nat) (w : W64) : Bool :=
  vecOps.contains (wordOp w) && decide (wordStream w < streams) && wordReserved w && immOk p.tensors.length (4 / streams) w
    && p.wordFmtOk w && decide (wordD w + p.extraD w ≤ 31) && decide (wordA w + p.extraA w ≤ 31) && decide (wordB w + extraB w ≤ 31)

/-! ## Stage 3: shapes -/

/-- Are a descriptor's own values defined (R362)? -/
def TDesc.defined (d : TDesc) : Bool :=
  decide (1 ≤ d.rank ∧ d.rank ≤ 4) && decide (d.scaleKind ≤ 6) && d.layout != 3 && d.tier != 3
    && (d.layout != 1 || d.rank == 2) && d.shape.all (· != 0) && (d.dims.drop d.rank).all (· == 1)

/-- Size of the expert exchange group that a tag names for a context, 1 without one (R218). -/
def State.expxSize (s : State) (c tag : Nat) : Nat :=
  if tag = 0 then 1 else match kvGet (c * 2 ^ 32 + tag) s.expx with | some g => g.f.size | none => 1

/-- The Eddy group bound to a context (R148). -/
def State.eddyOf (s : State) (c : Nat) : Option (Nat × Eddy) := s.eddy.find? fun g => g.1 / 2 ^ 32 == c

/-- The Trade ring bound to a context (R231). -/
def State.tradeOf (s : State) (c : Nat) : Option (Nat × Trade) := s.trade.find? fun g => g.1 / 2 ^ 32 == c

/-- Do a tensor's extents hold the bytes that the chapter gives its table (R470; log 20)? -/
def Plan.holdsBytes (p : Plan) (ofs n : Nat) : Bool := match p.ten ofs with | some d => decide (n ≤ d.span) | none => true

/-- Is a table of bytes dense, so that its bytes follow each other from `TD_ADDR` (R470; log 20)? -/
def Plan.denseAt (p : Plan) (ofs : Nat) : Bool := match p.ten ofs with | some d => d.layout == 0 | none => true

/-- MATMUL (R70, R82, R219). The chapter gives TSTAT_DESC's tensor no rank, extents or format, so none is held against R470, and its
bytes are contiguous from `TD_ADDR` (R78; log 20). -/
def Plan.matShape (p : Plan) (f : MatF) : Bool :=
  decide (1 ≤ f.m ∧ 1 ≤ f.n ∧ 1 ≤ f.k) && f.gridOrder != 3 && (f.gridOrder != 2 || f.band != 0) && f.aSparse != 3 && f.bSparse != 3
    && required [f.aDesc, f.bDesc, f.outDesc] && (f.cInit == 0 || f.cDesc != 0)
    && (if f.grpCount = 0 then f.grpCntDesc == 0 && f.grpSrc == 0 && f.grpStride == 0 && f.grpBBytes == 0
        else decide (f.grpCount ≤ 1024) && f.grpCntDesc != 0 && p.holdsBytes f.grpCntDesc (16 * f.grpCount) && (f.grpSrc == 1 || f.m == f.grpCount * f.grpStride))
    && p.shapeIs f.aDesc [f.m, f.k] && p.shapeIs f.bDesc [f.k, f.n] && p.shapeIs f.outDesc [f.m, f.n]
    && (f.cInit == 0 || p.shapeIs f.cDesc [f.m, f.n])
    && (f.rowstat == 0 || p.shapeIs f.rowstatDesc [f.m, pop3 f.rowstat])

/-- Query rows a kind allows (R120). -/
def AttF.maxQ (f : AttF) : Nat := match f.op with | 2 => 64 | 3 => 65536 | _ => 2 ^ 21

/-- Do the keys come from a window ring? Backward takes them from `K_DESC` and `V_DESC` whatever `KV_SRC` names but circulation (log 120). -/
def AttF.ringed (f : AttF) : Bool := decide (2 ≤ f.op) || (f.kvSrc == 2 && f.op == 0)

/-- Required descriptor fields (R121). -/
def AttF.needs (f : AttF) : List Nat :=
  (match f.op with
   | 0 => [f.qDesc, f.oDesc] ++ (if f.kvSrc = 2 then [f.ringDesc] else [f.kDesc, f.vDesc])
   | 1 => [f.qDesc, f.kDesc, f.vDesc, f.oDesc, f.doDesc, f.dqDesc, f.dkDesc, f.dvDesc, f.lseDesc, f.dqpDesc]
   | 2 => [f.qDesc, f.kDesc, f.vDesc, f.oDesc, f.treeDesc, f.ringDesc]
   | 3 => [f.kDesc, f.vDesc, f.ringDesc]
   | _ => [f.pathDesc, f.ringDesc]) ++ (if bitOf f.mask 2 then [f.docDesc] else [])

/-- Does the window ring's header agree (R139)? One that does not translate is left to stage 5. -/
def State.ringAgrees (s : State) (c : Nat) (f : AttF) : Bool :=
  if f.ringDesc = 0 || !f.ringed then true
  else match s.vread c f.ringDesc 64 with
    | .error _ => true
    | .ok r => decide (f.window ≤ field r.1 0 4) && f.headDim == field r.1 4 2 && f.kvHeads == field r.1 6 2

/-- ATTENTION (R120, R121, R139, R154). -/
def Plan.attShape (p : Plan) (s : State) (c : Nat) (f : AttF) : Bool :=
  let q := [f.qHeads, f.qLen, f.headDim]
  let kv := [f.kvHeads, if f.op = 2 ∨ f.op = 3 then f.qLen else f.kvLen, f.headDim]
  decide (f.op ≤ 4) && f.kvSrc != 3 && decide (1 ≤ f.headDim ∧ f.headDim ≤ 256 ∧ 1 ≤ f.qHeads ∧ f.qHeads ≤ 256 ∧ 1 ≤ f.kvHeads ∧
    f.kvHeads ≤ 256) && f.qHeads % f.kvHeads == 0 && decide (1 ≤ f.qLen ∧ f.qLen ≤ f.maxQ)
    && (f.ringed || decide (1 ≤ f.kvLen ∧ f.kvLen ≤ 2 ^ 24)) && decide (1 ≤ f.window ∧ f.window ≤ 2 ^ 24)
    && (if f.op = 1 then decide (1 ≤ f.dqParts ∧ f.dqParts ≤ 16) else f.dqpDesc == 0)
    && required f.needs && p.shapeIs f.qDesc q && p.shapeIs f.oDesc q && p.shapeIs f.doDesc q && p.shapeIs f.dqDesc q
    && (f.ringed && f.op == 0 || (p.shapeIs f.kDesc kv && p.shapeIs f.vDesc kv && p.shapeIs f.dkDesc kv && p.shapeIs f.dvDesc kv))
    && p.shapeIs f.lseDesc [f.qHeads, f.qLen] && p.shapeIs f.dqpDesc [f.dqParts * f.qHeads * f.qLen, alignUp f.headDim 32]
    && p.shapeIs f.docDesc [0] && (f.op != 2 || p.holdsBytes f.treeDesc (4 * f.qLen)) && p.holdsBytes f.pathDesc 32
    && (if f.kvSrc = 1 then decide (f.op ≤ 1) && (match s.eddyOf c with
          | none => true
          | some g => f.qLen == g.2.f.slice && f.kvLen == g.2.f.slice) else true)
    && s.ringAgrees c f

/-- EXPERT (R214, R225). -/
def Plan.expShape (p : Plan) (s : State) (c : Nat) (f : ExpF) : Bool :=
  let own := f.experts / s.expxSize c f.group
  let row := f.rowLen
  decide (f.op ≤ 2 ∧ 1 ≤ f.tokens ∧ f.tokens ≤ 2 ^ 21 ∧ 1 ≤ f.experts ∧ f.experts ≤ 1024 ∧ 1 ≤ f.topk ∧ f.topk ≤ 8 ∧
    f.topk ≤ f.experts ∧ f.cap % 32 = 0 ∧ 32 ≤ f.cap ∧ f.cap ≤ 2 ^ 21 ∧ f.ovfCap ≤ 2 ^ 24 ∧ f.rowFmt ≤ 1 ∧ 1 ≤ f.rowLen ∧ f.rowLen ≤ 32768)
    && f.experts % s.expxSize c f.group == 0
    && required (match f.op with
        | 0 => [f.scoreDesc, f.recDesc, f.selDesc, f.cntDesc]
        | 1 => [f.recDesc, f.xDesc, f.bufDesc] ++ (if f.ovfCap = 0 then [] else [f.ovfDesc])
        | _ => [f.recDesc, f.yDesc, f.outDesc] ++ (if f.ovfCap = 0 then [] else [f.yovfDesc]) ++ (if f.group = 0 then [] else [f.retDesc]))
    && p.shapeIs f.scoreDesc [f.tokens, f.experts] && p.shapeIs f.selDesc [f.tokens, f.topk] && p.shapeIs f.wDesc [f.tokens, f.topk]
    && p.shapeIs f.xDesc [f.tokens, row] && p.shapeIs f.bufDesc [own * f.cap, row] && p.shapeIs f.ovfDesc [f.ovfCap, row]
    && p.shapeIs f.yDesc [own * f.cap, row] && p.shapeIs f.yovfDesc [f.ovfCap, row] && p.shapeIs f.retDesc [f.tokens * f.topk, row]
    && p.shapeIs f.outDesc [f.tokens, row] && p.holdsBytes f.recDesc (8 * f.tokens * f.topk) && p.holdsBytes f.cntDesc (16 * f.experts)
    && p.holdsBytes f.predDesc (ceilDiv f.tokens 8) && p.holdsBytes f.emaskDesc 128

/-- VECTOR (R95, R101, R116). R101 bounds a VTOPK's candidates and names no check: past the bound it is a shape out of range (log 121). -/
def Plan.vecShape (p : Plan) (f : VecF) : Bool :=
  [1, 2, 4].contains f.streams && f.words != [] && decide (1 ≤ f.iter) && f.words.all (p.wordOk f.streams)
    && (!(f.words.any fun w => wordOp w = 0x50) || decide (f.iter * (64 / f.streams) ≤ 2 ^ 24))
    && (!(f.words.any fun w => wordOp w = 0x3A) || decide (f.iter * (64 / f.streams) < 2 ^ 31))

/-- Are a reduction's or gather's buckets in range (R235)? The size that owners are held against is the ring's, where there is one. -/
def State.bucketsOk (s : State) (c table n : Nat) : Bool :=
  decide (1 ≤ n ∧ n ≤ 2 ^ 24) && match s.tradeOf c, s.bucketTable c table n with
    | t, some bs => bs.all fun b => (match t with | some t => decide (nth b 1 < t.2.f.size) | none => true) && nth b 2 != 0
        && decide (nth b 8 ≤ 3)
    | _, none => true

/-- Stage 3 for one operation; a SYNC's count has the range of R312. -/
def Plan.shapeOk (p : Plan) (s : State) (c : Nat) (o : PlanOp) : Bool :=
  (o.descs.all fun d => match p.ten d with | some t => t.defined | none => true) &&
  match o with
  | .matmul f => p.matShape f
  | .attention f => p.attShape s c f
  | .expert f => p.expShape s c f
  | .omtPack a b _ => required [a, b] && (match p.ten a with | some d => d.rank == 2 && p.shapeIs b d.shape | none => true)
  | .omtUnpack a b _ => required [a, b] && (match p.ten a with | some d => d.rank == 2 && p.shapeIs b d.shape | none => true)
  | .vector f => p.vecShape f
  | .transfer .. => true
  | .sync f => decide (f.op ≤ 13) && soCountOk f.op f.n && (f.module == 0xFFFF || [0, 3, 5, 12].contains f.op)
  | .stage f => decide (f.op ≤ 2) && (f.op != 0 || (f.srcDesc != 0 && (match kvGet (c * 2 ^ 32 + f.tag) s.stageQ with
      | some q => p.holdsBytes f.srcDesc q.f.itemBytes
      | none => true)))
  | .tradeReduce t n _ => s.bucketsOk c t n
  | .tradeGather t n _ => s.bucketsOk c t n
  | .optUpdate _ => true
  | .stepMark _ es => decide (es.length ≤ 16)
  | .lullSnap _ => true
  | .traceMark .. => true

/-! ## Stage 4: formats and layouts -/

/-- MATMUL (R45, R50, R52, R84, R470). -/
def Plan.matFormat (p : Plan) (f : MatF) : Bool :=
  let fp8 (n : Nat) : Bool := n == 2 || n == 3
  ((f.aFmt == 0 && f.bFmt == 0) || (fp8 f.aFmt && fp8 f.bFmt)) && decide (f.outFmt ≤ 3)
    && p.fmtIs f.aDesc [f.aFmt] f.aSparse && p.fmtIs f.bDesc [f.bFmt] f.bSparse && p.fmtIs f.outDesc [f.outFmt] 0
    && (f.cInit == 0 || (p.fmtIs f.cDesc [0, 1, 2, 3] 0 && (match p.ten f.cDesc with | some d => d.scaleKind == 0 | none => true)))
    && (f.rowstat == 0 || p.fmtIs f.rowstatDesc [1] 0) && p.denseAt f.grpCntDesc
    && (!fp8 f.aFmt || ((match p.ten f.aDesc with | some d => d.scaleKind != 5 && d.scaleKind != 6 | none => true)
          && (match p.ten f.bDesc with | some d => d.scaleKind != 3 && d.scaleKind != 4 | none => true)))

/-- ATTENTION (R121, R122, R141); in backward `OUT_FMT` is the format of the forward output and of all three gradients (log 120). -/
def Plan.attFormat (p : Plan) (f : AttF) : Bool :=
  let src : List Nat := if f.op = 2 ∨ f.op = 3 then [0, 1] else [0]
  decide (f.outFmt ≤ 1) && p.fmtIs f.qDesc [0] 0 && p.fmtIs f.kDesc src 0 && p.fmtIs f.vDesc src 0 && p.fmtIs f.doDesc [0] 0
    && p.fmtIs f.oDesc [f.outFmt] 0 && p.fmtIs f.dqDesc [f.outFmt] 0 && p.fmtIs f.dkDesc [f.outFmt] 0 && p.fmtIs f.dvDesc [f.outFmt] 0
    && p.fmtIs f.lseDesc [1] 0 && p.fmtIs f.dqpDesc [1] 0 && p.fmtIs f.docDesc [6] 0
    && p.denseAt f.treeDesc && p.denseAt f.pathDesc

/-- EXPERT (R214). -/
def Plan.expFormat (p : Plan) (f : ExpF) : Bool :=
  let fl : List Nat := [0, 1, 2, 3]
  p.fmtIs f.scoreDesc [1] 0 && p.fmtIs f.selDesc [1] 0 && p.fmtIs f.wDesc [1] 0 && p.fmtIs f.xDesc [f.rowFmt] 0
    && p.fmtIs f.bufDesc fl 0 && p.fmtIs f.ovfDesc fl 0 && p.fmtIs f.yDesc fl 0 && p.fmtIs f.yovfDesc fl 0 && p.fmtIs f.retDesc fl 0
    && p.fmtIs f.outDesc fl 0 && [f.recDesc, f.cntDesc, f.predDesc, f.emaskDesc].all p.denseAt

/-- Stage 4 for one operation. -/
def Plan.formatOk (p : Plan) (o : PlanOp) : Bool :=
  match o with
  | .matmul f => p.matFormat f
  | .attention f => p.attFormat f
  | .expert f => p.expFormat f
  | .omtPack a b _ => p.fmtIs a [0, 1, 2, 3] 0 && p.fmtIs b [0, 2, 3] 1
  | .omtUnpack a b _ => p.fmtIs a [0, 2, 3] 1 && p.fmtIs b [0, 1, 2, 3] 0
  | .vector f => f.words.all fun w =>
      !([0x28, 0x29].contains (wordOp w) && wordSpace w == 1) || (match p.tenIdx (wordImm w) with | some d => d.layout == 0 | none => true)
  | .stage f => p.denseAt f.srcDesc
  | .transfer .. | .sync _ | .tradeReduce .. | .tradeGather .. | .optUpdate _ | .stepMark .. | .lullSnap _ | .traceMark .. => true

/-! ## Stage 5: buffers -/

/-- The mappings that count for a plan's buffers: the context's, and the declared models' slots (R199). -/
def Plan.mapsWith (p : Plan) (s : State) (x : Ctx) : List Mapping :=
  x.maps ++ p.models.flatMap fun m =>
    match kvGet m.1 s.models with
    | none => []
    | some e => slotMaps m.2.2 m.2.1 (List.range (ceilDiv e.bytes gib))

/-- Does a range translate under these mappings? -/
def mapsCover (ms : List Mapping) (write : Bool) (r : Nat × Nat) : Bool :=
  match vspans ms write r.1 r.2 with | .ok _ => true | .error _ => false

/-- Are OMT planes 64-byte aligned (R207)? -/
def TDesc.alignedOk (d : TDesc) : Bool :=
  d.layout != 1 || (d.omtMap % 64 == 0 && d.omtOfs % 64 == 0 && d.omtData % 64 == 0)

/-- Stage 5 for one operation. -/
def Plan.bufferOk (p : Plan) (ms : List Mapping) (o : PlanOp) : Bool :=
  (opReads p o).all (mapsCover ms false) && (opWrites p o).all (mapsCover ms true)
    && o.descs.all (fun d => match p.ten d with | some t => t.alignedOk | none => true)

/-- Does every declared tensor translate, an operation naming it or not (R181, R369)? One that a MATMUL names as B has B's planes. -/
def Plan.tensorsMapped (p : Plan) (ms : List Mapping) : Bool :=
  p.tensors.all fun d => d.2.layout == 2 || d.2.ranges.all (mapsCover ms false)

/-! ## Stages 6 to 8 -/

/-- Stage 6 for one operation. -/
def PlanOp.tileOk (o : PlanOp) : Bool :=
  match o with
  | .matmul f => f.tileOk
  | .attention _ | .expert _ | .omtPack .. | .omtUnpack .. | .vector _ | .transfer .. | .sync _ | .stage _ | .tradeReduce ..
  | .tradeGather .. | .optUpdate _ | .stepMark .. | .lullSnap _ | .traceMark .. => true

/-- Does an object exist in the context's domain with a type that takes the operation (R311)? -/
def State.soNamed (s : State) (x : Ctx) (so op : Nat) : Bool :=
  match kvGet so s.sos with
  | none => false
  | some o => o.domain == x.domain && soTakes o.type op

/-- Bytes of one slice's Eddy blocks (R157). -/
def eddySlice (f : AttF) (slice : Nat) : Nat :=
  let d := f.headDim
  f.kvHeads * (slice / 64) * (64 + 256 * d + (if bitOf f.mask 2 then 256 else 0) + (if f.op = 1 then 512 * d + 64 * d else 0))

/-- The position of local index `i` on the member of rank `r` (R153). -/
def eddyPos (g : EddyFields) (r i : Nat) : Nat :=
  if g.layout = 0 then g.pos0 + r * g.slice + i
  else if i < g.slice / 2 then g.pos0 + r * (g.slice / 2) + i
  else g.pos0 + (2 * g.size - 1 - r) * (g.slice / 2) + (i - g.slice / 2)

/-- Row-major index of indices over extents. -/
def flatIndex (dims ix : List Nat) : Nat := (List.zip dims ix).foldl (fun a x => a * x.1 + x.2) 0

/-- The index of a slice's element over the whole sequence, from 0 at `EG_POS0` (R153, R299): a tensor whose token dimension, the last but one
(the only one of rank 1), has the slice's length (log 54). -/
def sliceIndex (g : EddyFields) (d : TDesc) (el : Nat) : Nat :=
  let k := d.rank - 2
  if d.dim k != g.slice then el
  else
    let ix := unflatten d.shape el
    flatIndex (d.shape.set k (g.size * g.slice)) (ix.set k (eddyPos g g.rank (nth ix k) - g.pos0))

/-- Items a plan's GETs hold at most at once, seen from `held` (R288). -/
def heldPeak (tag : Nat) : List PlanOp → Nat → Nat
  | [], h => h
  | .stage f :: t, h =>
    if f.tag != tag then heldPeak tag t h
    else if f.op = 1 then max (h + 1) (heldPeak tag t (h + 1)) else if f.op = 2 then heldPeak tag t (h - 1) else heldPeak tag t h
  | _ :: t, h => heldPeak tag t h

/-- Stage 7 for one operation. Every type takes some acquire and some signal (R193), so a transfer's objects have only to exist in the
domain. -/
def Plan.syncOk (p : Plan) (s : State) (c : Nat) (x : Ctx) (o : PlanOp) : Option Status :=
  match o with
  | .matmul f => if (f.rangeSo.take f.ranges).all fun so => s.soNamed x so 10 then none else some .planSync
  | .attention f =>
    if f.kvSrc = 1 ∧ f.op ≤ 1 then
      match s.eddyOf c with
      | none => some .eddyNoGroup
      | some g => if g.2.f.slotBytes < eddySlice f g.2.f.slice then some .eddyLanding else none
    else none
  | .sync f => if f.module = 0xFFFF && !s.soNamed x f.so f.op then some .planSync else none
  | .stage f =>
    match kvGet (c * 2 ^ 32 + f.tag) s.stageQ with
    | none => some .planStage
    | some q => if q.f.consumer != (f.op != 0) then some .planStage
        else if q.f.consumer && decide (heldPeak f.tag p.ops (q.getIdx - q.relIdx) > q.f.slots) then some .planStage else none
  | .tradeReduce .. => if (s.tradeOf c).isSome then none else some .tradeNoRing
  | .tradeGather .. => if (s.tradeOf c).isSome then none else some .tradeNoRing
  | .optUpdate f => if !s.soNamed x f.claimSo 10 then some .planSync else if (s.tradeOf c).isNone then some .tradeNoRing else none
  | .transfer .. =>
    let named (so : Nat) : Bool := so == 0xFFFF || (match kvGet so s.sos with | none => false | some o => o.domain == x.domain)
    if (s.transfersOf c o).all fun t => named t.gateSo && named t.doneSo then none else some .planSync
  | .expert _ | .omtPack .. | .omtUnpack .. | .vector _ | .stepMark .. | .lullSnap _ | .traceMark .. => none

/-- Operations that cannot begin before operation `i` has completed, by declared dependences (R367). -/
def Plan.after (p : Plan) (i : Nat) : List Nat :=
  match p.ops[i]? with
  | none => []
  | some a =>
    ((enumFrom 0 p.ops).drop (i + 1)).foldl
      (fun l e => if dependsCore p a e.2 || l.any (fun k => match p.ops[k]? with | some b => dependsCore p b e.2 | none => false)
        then l ++ [e.1] else l) []

/-- Ranges of a reduction's gradients and residuals (R235). -/
def gradRanges (bs : List (List Nat)) : List (Nat × Nat) :=
  bs.flatMap fun b => [(nth b 3, 4 * nth b 2)] ++ (if nth b 5 = 0 then [] else [(nth b 5, 8 * nth b 2)])

/-- May a transfer of the earlier operation `k` still run when operation `i` begins: nothing in between acquires the object that its
completion signals (R193, R235; log 115)? -/
def Plan.stillRuns (p : Plan) (k i : Nat) (t : Xfer) : Bool :=
  t.doneSo == 0xFFFF || !(((p.ops.take i).drop (k + 1)).any fun o => match o with
    | .sync f => f.module == 0xFFFF && f.so == t.doneSo && [1, 4, 6, 7, 10, 11].contains f.op
    | _ => false)

/-- Trade and update references and expert capacity (R218, R235, R260). -/
def Plan.tradeOk (p : Plan) (s : State) (c i : Nat) (o : PlanOp) : Option Status :=
  match o with
  | .tradeReduce t n _ =>
    match s.bucketTable c t n with
    | none => none
    | some bs =>
      let gs := gradRanges bs
      let later := p.after i
      let past := ((enumFrom 0 p.ops).take i).any fun e => (s.transfersOf c e.2).any fun t =>
        t.updraft && p.stillRuns e.1 i t && meetAny [(t.hbm, t.bytes)] gs
      if past || ((enumFrom 0 p.ops).drop (i + 1)).any fun e => !later.contains e.1 && meetAny (s.writesOf c p e.2) gs then some .planTrade
      else none
  | .optUpdate f =>
    let ok := decide (f.reduce < i) && (match p.ops[f.reduce]? with | some (.tradeReduce ..) => true | _ => false)
    let dup := ((enumFrom 0 p.ops).take i).any fun e => match e.2 with | .optUpdate g => g.reduce == f.reduce | _ => false
    if !ok || dup then some .planTrade else none
  | .expert f =>
    let m := s.expxSize c f.group
    if f.op = 0 ∧ f.ovfCap < min f.topk (f.experts / m) * (m * f.tokens - f.cap) then some .planExpertFit else none
  | .matmul _ | .attention _ | .omtPack .. | .omtUnpack .. | .vector _ | .transfer .. | .sync _ | .stage _ | .tradeGather ..
  | .stepMark .. | .lullSnap _ | .traceMark .. => none

/-- Does a list or table that operation `o` names reach the tensor as an input: a Downdraft of its token out of its buffer, or a bucket's
buffer that no other descriptor has (R190, R193, R235)? -/
def Plan.tableReads (p : Plan) (s : State) (c : Nat) (d : TDesc) (o : PlanOp) : Bool :=
  (d.tier == 1 && (s.transfersOf c o).any fun t => !t.updraft && t.token == d.token && meetAny [(t.hbm, t.bytes)] d.ranges)
    || ((s.bucketsOf c p o).flatMap bucketRanges).any fun r =>
      d.ranges.contains r && decide ((p.tensors.filter fun t => t.2.ranges.contains r).length ≤ 1)

/-- Does operation `o` read the tensor of descriptor `n`: as an input that it names, or through a list or table (R186, R191)? -/
def Plan.readsTensor (p : Plan) (s : State) (c : Nat) (d : Nat × TDesc) (o : PlanOp) : Bool :=
  (opInputs p o ++ match o with
    | .matmul f => [f.bDesc]
    | .attention _ | .expert _ | .omtPack .. | .omtUnpack .. | .vector _ | .transfer .. | .sync _ | .stage _ | .tradeReduce .. | .tradeGather ..
    | .optUpdate _ | .stepMark .. | .lullSnap _ | .traceMark .. => []).contains d.1 || p.tableReads s c d.2 o

/-- Does operation `o` produce it? -/
def Plan.writesTensor (p : Plan) (d : Nat × TDesc) (o : PlanOp) : Bool := (opOutputs p o).contains d.1

/-- May a tensor's buffer hold something else behind these operations: a write of another producer, with no later producer of its own and
(for OFFLOAD) no later Updraft of its token into the buffer (R191)? -/
def staleAfter (p : Plan) (s : State) (c : Nat) (d : Nat × TDesc) (l : List PlanOp) : Bool :=
  l.foldl (fun stale o =>
    let ups := d.2.tier == 1 && (s.transfersOf c o).any fun t => t.updraft && t.token == d.2.token && meetAny [(t.hbm, t.bytes)] d.2.ranges
    if p.writesTensor d o || ups then false else stale || meetAny (s.writesOf c p o) d.2.ranges) false

/-- Is an OFFLOAD or RECOMPUTE tensor read while its buffer may hold something else (R191 checks 1 and 3)? A tensor's forward uses end
where its buffer is next overwritten (log 115). -/
def staleRead (p : Plan) (s : State) (c : Nat) (d : Nat × TDesc) : Bool :=
  (enumFrom 0 p.ops).any fun e => p.readsTensor s c d e.2 && staleAfter p s c d (p.ops.take e.1)

/-- The recompute segment that ends with operation `k`, which produces the tensor again: the operations behind the tensor's last use whose
outputs lead to it (R190, R191). -/
def recomputeSeg (p : Plan) (s : State) (c : Nat) (d : Nat × TDesc) (k : Nat) : List Nat :=
  let at_ (i : Nat) : List PlanOp := (p.ops.drop i).take 1
  let lo := ((List.range k).filter fun i => (at_ i).any (p.readsTensor s c d)).foldl (fun m i => max m (i + 1)) 0
  let feeds (j m : Nat) : Bool := (at_ j).any fun a => (at_ m).any fun b => p.tensors.any fun t => p.writesTensor t a && p.readsTensor s c t b
  ((List.range k).reverse.filter fun j => decide (lo ≤ j)).foldl (fun seg j => if seg.any (feeds j) then j :: seg else seg) [k]

/-- Does an operation of a segment that produces a RECOMPUTE tensor again read a tensor that is not available there (R191 check 3)? -/
def recomputeStale (p : Plan) (s : State) (c : Nat) (d : Nat × TDesc) : Bool :=
  (enumFrom 0 p.ops).any fun e => p.writesTensor d e.2 && (p.ops.take e.1).any (p.writesTensor d) &&
    (recomputeSeg p s c d e.1).any fun k => ((p.ops.drop k).take 1).any fun o =>
      p.tensors.any fun t => p.readsTensor s c t o && staleAfter p s c t (p.ops.take k)

/-- Is every Updraft of the plan behind Downdrafts that wrote its range of the token (R191 check 2)? -/
def updraftsOk : List Xfer → List Xfer → Bool
  | [], _ => true
  | t :: r, ws =>
    if t.updraft then
      let mine := ws.filter fun w => w.token == t.token
      -- covered: every 64-byte step of the range lies in some earlier Downdraft's range
      (List.range (t.bytes / 64)).all (fun i => mine.any fun w => decide (w.offset ≤ t.offset + 64 * i ∧ t.offset + 64 * i < w.offset + w.bytes))
        && updraftsOk r ws
    else updraftsOk r (t :: ws)

/-- A tensor's rebuild segment (R186). -/
def Plan.rebuildOk (p : Plan) (s : State) (c : Nat) (d : Nat × TDesc) : Bool :=
  d.2.rebuildCount == 0 ||
    (decide (d.2.rebuildFirst + d.2.rebuildCount ≤ p.ops.length) &&
      (let seg := (p.ops.drop d.2.rebuildFirst).take d.2.rebuildCount
       let ins := p.tensors.filter fun t => seg.any (p.readsTensor s c t)
       let uses := ((enumFrom 0 p.ops).filter fun e => p.readsTensor s c d e.2).map Prod.fst
       let last := uses.foldl max 0
       ins.all (fun t => t.2.tier == 0) &&
         ((enumFrom 0 p.ops).all fun e => !decide (d.2.rebuildFirst + d.2.rebuildCount ≤ e.1 ∧ e.1 < last) ||
           !meetAny (s.writesOf c p e.2) (ins.flatMap fun t => t.2.ranges))))

/-- Tier policies and rebuild segments of the whole plan (R186, R191). -/
def Plan.tierOk (p : Plan) (s : State) (c : Nat) : Bool :=
  (p.tensors.all fun d => (d.2.tier == 0 || !staleRead p s c d) && (d.2.tier != 2 || !recomputeStale p s c d)
    && (d.2.tier != 1 || decide (d.2.token < p.tokens.length)) && p.rebuildOk s c d)
  && updraftsOk (p.ops.flatMap (s.transfersOf c)) []

/-! ## Stage 10: micro-programs (R110, R114, R115) -/

/-- Plan slots and table store of a partition. -/
def mpSlots (part : Nat) : Nat := 32 / 2 ^ (min part 2)
def mpStoreBytes (part : Nat) : Nat := 65536 / 2 ^ (min part 2)

/-- Check 2 for one step at index `i`: a defined encoding. -/
def MicroProg.stepOk (m : MicroProg) (i : Nat) (w : BitVec 32) : Bool :=
  let imm := stepImm w
  match stepOp w with
  | 0 => decide (imm ≤ 1)
  | 3 => decide (imm ≤ 3)
  | 8 => decide (imm ≤ 6)
  | 10 => decide (1 ≤ imm ∧ imm ≤ 63) && decide (i + 1 + imm < m.steps.length)
  | 11 => decide (imm < 256) && decide (imm % 16 < m.consts.length ∧ imm / 16 < m.consts.length)
  | 13 => decide (imm ≤ 10)
  | 15 => false
  | _ => imm == 0

/-- The counts of OUT steps over all paths from a step on; SKIP may or may not skip. `fuel` bounds the steps. -/
def outCounts (steps : List (BitVec 32)) : Nat → Nat → List Nat
  | 0, _ => [0]
  | f + 1, i =>
    match steps[i]? with
    | none => [0]
    | some w =>
      let next := outCounts steps f (i + 1)
      if stepOp w = 14 then next.map (· + 1)
      else if stepOp w = 10 then (next ++ outCounts steps f (i + 1 + stepImm w % 64)).foldl (fun l n => insNat n l) []
      else next

/-- Do all paths apply SEAMCLAMP after their last HORNER, with only SCALE or the addition of an integer between (R115)? `open_`: a
HORNER is not yet clamped; `bad`: something else came between; `ints`: registers that hold an integer. A path without a HORNER has nothing to
clamp (log 121). -/
def clampPaths (steps : List (BitVec 32)) : Nat → Nat → Bool → Bool → List Nat → Bool
  | 0, _, o, _, _ => !o
  | f + 1, i, o, bad, ints =>
    match steps[i]? with
    | none => !o
    | some w =>
      let drop := ints.filter (· != stepD w)
      let go (o bad : Bool) (ints : List Nat) : Bool := clampPaths steps f (i + 1) o bad ints
      match stepOp w with
      | 0 => go o bad (((stepD w + 1) % 8) :: drop)
      | 1 => go o bad (stepD w :: (drop.filter (· != (stepD w + 1) % 8)))
      | 3 => go true false drop
      | 7 => go o bad drop
      | 4 => go o (bad || (o && !(ints.contains (stepA w) || ints.contains (stepB w)))) drop
      | 10 => go o bad ints && clampPaths steps f (i + 1 + stepImm w % 64) o bad ints
      | 12 => !bad && go false false drop
      | 2 | 8 => go o bad drop
      | 14 => go o bad ints
      | _ => go o (bad || o) drop

/-- The declared checks of R115 but the exhaustive run. -/
def MicroProg.monoOk (m : MicroProg) : Bool :=
  m.mono == 0 ||
    (clampPaths m.steps 65 0 false false [] &&
      ((List.zip m.table (m.table.drop 1)).all fun g =>
        (if m.mono = 1 then decide (ordKey g.1.seam ≤ ordKey g.2.seam) else decide (ordKey g.2.seam ≤ ordKey g.1.seam))
          && fvCmp (fvScaled g.1.right (-48)) (fv32 g.2.seam) = some .eq))

/-- Bytes of a program's table. -/
def MicroProg.tableBytes (m : MicroProg) : Nat := 16 * m.consts.length + 36 * m.table.length

/-- The number of the first check of R114 that a program fails. -/
def MicroProg.failing (m : MicroProg) (part : Nat) (allTables : Nat) : Option Nat :=
  if !decide (32 ≤ m.slot ∧ m.slot < 32 + mpSlots part) || decide (allTables > mpStoreBytes part) then some 1
  else if !((enumFrom 0 m.steps).all fun e => m.stepOk e.1 e.2) || decide (bits m.segsel 12 4 ≥ 8) then some 2
  else if m.table.length != m.segs || decide (2 ^ bits m.segsel 0 6 > m.segs) then some 3
  else if outCounts m.steps 65 0 != [m.results] then some 4
  else if !m.digestOk then some 5
  else if !m.monoOk then some 6
  else none

/-- Field ranges of a program (R112), checked at stage 3. -/
def MicroProg.ranges (m : MicroProg) : Bool :=
  decide (1 ≤ m.steps.length ∧ m.steps.length ≤ 64 ∧ 1 ≤ m.segs ∧ m.segs ≤ 256 ∧ m.mono ≤ 2 ∧ m.consts.length ≤ 16)

/-! ## The whole run of stages -/

/-- Why an admission fails (R370). -/
structure LoadFail where
  stage : Nat
  status : Status
  op : Nat
  part : Nat
  fitOp : Nat
  slot : Nat
  check : Nat
  deriving DecidableEq, Repr

/-- A failure not of one operation. -/
def failAt (stage : Nat) (st : Status) : LoadFail :=
  { stage := stage, status := st, op := 0xFFFFFFFF, part := 0xFF, fitOp := 0xFFFFFFFF, slot := 0xFF, check := 0xFF }

/-- The first operation in plan order that a check refuses. -/
def eachOp (stage : Nat) (p : Plan) (f : Nat → PlanOp → Option Status) : Option LoadFail :=
  (enumFrom 0 p.ops).findSome? fun e => (f e.1 e.2).map fun st => { failAt stage st with op := e.1 }

/-- A check of the whole plan. -/
def orFailAt (stage : Nat) (st : Status) (ok : Bool) : Option LoadFail := if ok then none else some (failAt stage st)

/-- A check that answers yes or no. -/
def orFail (st : Status) (ok : Bool) : Option Status := if ok then none else some st

/-- The smallest partition that every operation fits (R69). -/
def Plan.fitPart (p : Plan) : Nat :=
  if p.ops.all (fun o => o.fits 2) then 2 else if p.ops.all (fun o => o.fits 1) then 1 else 0

/-- Are the declared bases of models 1 GiB-aligned virtual addresses (R199; log 44)? -/
def Plan.basesOk (p : Plan) : Bool := p.models.all fun m => m.2.2 % gib == 0 && decide (m.2.2 < 2 ^ 48)

/-- Stages 1 to 11 over an image, first failure. -/
def loadChecks (s : State) (c : Nat) (x : Ctx) (l : List Byte) : Option LoadFail :=
  let p := planOf l
  let h := headAt l
  let offs := opOffsets l h.ops h.opOfs
  let stage1 : Option LoadFail :=
    if !imageOk l then some (failAt 1 .planImage)
    else (enumFrom 0 offs).findSome? fun e =>
      if opInside l e.2 && (opAt l e.2).descs.all h.descOk then none else some { failAt 1 .planImage with op := e.1 }
  let stage3 : Option LoadFail :=
    (if 1 ≤ p.cores ∧ p.cores ≤ 192 ∧ p.basesOk then none else some (failAt 3 .planShape))
      <|> eachOp 3 p (fun _ o => orFail .planShape (p.shapeOk s c o))
      <|> (if p.tensors.all (fun d => d.2.defined) && p.mps.all MicroProg.ranges then none else some (failAt 3 .planShape))
  let ms := p.mapsWith s x
  let stage9 : Option LoadFail :=
    (eachOp 9 p fun _ o => orFail .planTileFit (o.fits x.part)).map fun f => { f with fitOp := f.op, part := p.fitPart }
  let tables := (p.mps.map MicroProg.tableBytes).sum
  let stage10 : Option LoadFail := p.mps.findSome? fun m =>
    (m.failing x.part tables).map fun k => { failAt 10 .planMicroprog with slot := m.slot, check := k }
  let stage11 : Option LoadFail := p.models.findSome? fun m =>
    match kvGet m.1 s.models with
    | none => some (failAt 11 .mcUnknown)
    | some e => if m.2.1 && e.refs.any (fun r => r.2 && r.1 != c) then some (failAt 11 .mcWriter) else none
  stage1 <|> (if p.cls = s.ident.cls then none else some (failAt 2 .planClass)) <|> stage3
    <|> eachOp 4 p (fun _ o => orFail .planFormat (p.formatOk o))
    <|> eachOp 5 p (fun _ o => orFail .planBuffer (p.bufferOk ms o)) <|> orFailAt 5 .planBuffer (p.tensorsMapped ms)
    <|> eachOp 6 p (fun _ o => orFail .planTileShape o.tileOk)
    <|> eachOp 7 p (fun _ o => p.syncOk s c x o)
    <|> (if p.tierOk s c then none else some (failAt 8 .planTier))
    <|> eachOp 8 p (fun i o => p.tradeOk s c i o)
    <|> stage9 <|> stage10 <|> stage11

end Sys2Proof.Machine
end

