-- ==== Sys2Proof/Machine/Matrix.lean ====
section
/-! DEFINITION. The matrix engine (03_matrix_engine): the grid and its claims, chunks, groups, commits, writeback, row statistics. -/
namespace Sys2Proof.Machine

/-! ## The grid (R71, R220) -/

/-- Tile row and column of a linear tile index. -/
def MatF.coord (f : MatF) (t : Nat) : Nat × Nat :=
  if f.gridOrder = 1 then (t % f.gm, t / f.gm)
  else if f.gridOrder = 2 then
    let b := t / (f.band * f.gn)
    let r := t - b * f.band * f.gn
    let hb := min f.band (f.gm - b * f.band)
    (b * f.band + r % hb, r / hb)
  else (t / f.gn, t % f.gn)

/-- Where a tile lies: its row and column number, first output row and column, in-range rows and columns, and its group. -/
structure Geo where
  tm : Nat
  tn : Nat
  row0 : Nat
  rows : Nat
  col0 : Nat
  cols : Nat
  grp : Nat
  deriving DecidableEq, Repr

/-- A tile's number in canonical order, tm x Gn + tn (R59, R78). -/
def Geo.num (g : Geo) (f : MatF) : Nat := g.tm * f.gn + g.tn

/-- The tile row in the enumeration of groups (R220): group, first row, rows in range; `l` holds each group's start and count. -/
def groupRow (tm : Nat) : Nat → List (Nat × Nat) → Nat → Option (Nat × Nat × Nat)
  | _, [], _ => none
  | g, (z, n) :: t, k =>
    if k < ceilDiv n tm then some (g, z + k * tm, min tm (n - k * tm)) else groupRow tm (g + 1) t (k - ceilDiv n tm)

/-- Start and row count of each group from the count table (R217, R219). -/
def groupTable (f : MatF) (l : List Byte) : List (Nat × Nat) :=
  (List.range f.grpCount).map fun g =>
    if f.grpSrc = 0 then (g * f.grpStride, field l (16 * g) 4) else (field l (16 * g + 8) 4, field l (16 * g + 4) 4)

/-- The geometry of a tile; none for a tile row beyond a grouped operation's count (R220). -/
def State.tileGeo (s : State) (c : Nat) (p : Plan) (f : MatF) (t : Nat) : Rd (Option Geo) :=
  let k := f.coord t
  let col0 := k.2 * f.tn
  let cols := min f.tn (f.n - col0)
  if f.grpCount = 0 then
    .ok (some ⟨k.1, k.2, k.1 * f.tm, min f.tm (f.m - k.1 * f.tm), col0, cols, 0⟩, none)
  else
    match p.ten f.grpCntDesc with
    | none => .ok (none, none)
    | some d =>
      match s.rdBytes c d.addr (16 * f.grpCount) with
      | .error e => .error e
      | .ok r => .ok ((groupRow f.tm 0 (groupTable f r.1) k.1).map fun x => ⟨k.1, k.2, x.2.1, x.2.2, col0, cols, x.1⟩, r.2)

/-- First and last-plus-one group of a split (R72). -/
def MatF.span (f : MatF) (sp : Nat) : Nat × Nat := (sp * f.perSplit, min f.groups ((sp + 1) * f.perSplit))

/-! ## Operands (R79, R84, R220) -/

/-- The padding value as a stored element of an operand (R79). -/
def padElem (ff : FloatFmt) (pad : W32) : Nat :=
  match fv32 pad with
  | .nan => ff.canon
  | .inf n => if ff.hasInf then fvPattern ff (.inf n) else largest ff n
  | .fin n m e => let r := roundTo ff false (.fin n m e); if r.ovf then largest ff n else fvPattern ff r.v

/-- Group g's B operand (R220). -/
def TDesc.shift (d : TDesc) (n : Nat) : TDesc :=
  { d with addr := d.addr + n, omtMap := d.omtMap + n, omtOfs := d.omtOfs + n, omtData := d.omtData + n }

/-- The stored bits of operand index `k` on a line: a row of A or a column of B (log 20 for the 2:4 lines). -/
def State.rdLine (s : State) (c : Nat) (d : TDesc) (isA : Bool) (sparse line k : Nat) : Rd Nat :=
  if sparse = 2 then s.sparseElem c d isA line k
  else if isA then s.rdElem2 c d line k
  else s.rdElem2 c d k line

/-- A K chunk of an operand (R66): in-range lines are read, the others hold the padding value. -/
def State.rdChunk (s : State) (c : Nat) (d : TDesc) (isA : Bool) (f : MatF) (line0 live all : Nat) (pad : W32) (ks : List Nat) :
    Rd (List (List Nat)) :=
  rdAll (fun i =>
    if i < live then rdAll (s.rdLine c d isA (if isA then f.aSparse else f.bSparse) (line0 + i)) ks
    else .ok (ks.map fun _ => padElem d.format.ff pad, none)) (List.range all)

/-- Operand elements flushed on their load (R58): those of the lines in range. -/
def chunkFlush (ff : FloatFmt) (live : Nat) (l : List (List Nat)) : Nat :=
  ((l.take live).map fun r => (r.filter fun n => isSubFv ff (fvOf ff n)).length).sum

/-- Ranges that a chunk reads, for the detection code's sake: lines of a dense operand, otherwise the tensor. -/
def chunkRanges (d : TDesc) (isA : Bool) (line0 live k0 n : Nat) : List (Nat × Nat) :=
  let sz := d.format.size
  if d.layout != 0 then d.rangesAs isA
  else if isA then (List.range live).map fun i => (d.at [line0 + i, k0], n * sz)
  else (List.range n).map fun i => (d.at [k0 + i, line0], live * sz)

/-- Errors met on a read of ranges (R185); a tensor with a rebuild segment waits for it (R186). -/
def State.recoverRanges (s : State) (c : Nat) (l : List (Nat × Nat)) (errs : List SectorErr) : State := s.recover c (s.physSpans c l) errs

/-- Is it an ATTENTION of this kind? -/
def PlanOp.isAtt (k : Nat) (o : PlanOp) : Bool :=
  match o with
  | .attention f => f.op == k
  | _ => false

/-- Is it an EXPERT operation of this kind? -/
def PlanOp.isExpert (k : Nat) (o : PlanOp) : Bool :=
  match o with
  | .expert f => f.op == k
  | _ => false

/-- Errors met on the reads of an operation that may begin, and the host window's reads that come first (R185, R383). -/
def State.opRecover (s : State) (c i : Nat) (isOp : PlanOp → Bool) (errs : List SectorErr) : State :=
  match s.opOf c i with
  | none => s
  | some (_, p, _, o, _) =>
    if !isOp o || !s.mayIssue c i then s
    else (s.recoverErrs c (s.physSpans c (opReads p o)) errs).hostSpans c (s.physSpans c (opHeads p o))

/-- The counter that a failed check raises first: `own`, or SP_CRC_ERR for a word of working data held in the scratchpad (R189, R420). -/
def checkCounter (check : Check) (own : Nat) : Nat := if check = .word then 11 else own

/-- Count a failed word of working data (R189, R420). -/
def State.wordSeen (s : State) (core : Nat) (check : Check) : State := if check = .word then s.telAdd core 11 1 else s

/-! ## A unit's start -/

/-- Positions run commands only while resident and the module runs. -/
def State.coreOf (s : State) (c pos : Nat) : Option Nat :=
  if s.running then ((s.pos? c pos).bind Position.resident?).map Prod.fst else none

/-- Begin an attempt (R88). -/
def TileWork.restart (w : TileWork) (group : Nat) : TileWork :=
  { w with chunk := 0, staged := [], group := group, acc := [], num := NumStat.zero }

/-- The next claimed unit that has a tile; units of tile rows beyond the count commit nothing (R220). -/
def State.nextUnit (s : State) (c : Nat) (p : Plan) (f : MatF) (w : TileWork) : List Nat → Except OpErr TileWork
  | [] => .ok { w with claimed := [], unit := none }
  | u :: t =>
    match s.tileGeo c p f (u / f.splits) with
    | .error e => .error e
    | .ok (none, _) => State.nextUnit s c p f w t
    | .ok (some _, _) =>
      .ok (TileWork.restart { w with claimed := t, unit := some u, attempt := 0, poisoned := false } (f.span (u % f.splits)).1)

/-- Show accumulator entries where the core window, VLDA and the image find them (R174, R347): from entry `first` of the position's partition
on, `first` even. Which entry holds which element is the model's choice (log 116). -/
def State.showEntries (s : State) (c pos first : Nat) (es : List Entry) : State :=
  if es.isEmpty then s
  else
    match (s.pos? c pos).bind Position.resident?, kvGet c s.ctxs with
    | some k, some x =>
      let m := cellsWrite s.mem (accAddr k.1 x.part k.2 + 4 * first) (es.flatMap fun e => leBytes 4 e.v.toNat)
      { s with mem := cellsWrite m (accFlagAddr k.1 x.part k.2 + first / 2) (packNib (es.map Entry.fl)) }
    | _, _ => s

/-- Store a position's matrix record, its entries row-major from the partition's first; a record with nothing left goes. -/
def State.tileSet (s : State) (c pos : Nat) (w : TileWork) : State :=
  let s := s.showEntries c pos 0 w.acc
  if w.unit.isNone && w.claimed.isEmpty then { s with tiles := kvDel (ckey c pos) s.tiles }
  else { s with tiles := kvSet (ckey c pos) w s.tiles }

/-- A matrix operation in progress with its fields. -/
def State.matOp (s : State) (c i : Nat) : Option (Ctx × Plan × Run × MatF × MatProg) :=
  match s.opOf c i with
  | some (x, p, r, .matmul f, q) =>
    (match q.st, q.prog with
     | .begun, .mat g => some (x, p, r, f, g)
     | _, _ => none)
  | _ => none

/-- Change a matrix operation's progress. -/
def State.matDo (s : State) (c i : Nat) (f : MatProg → MatProg) : State :=
  s.opDo c i fun q => match q.prog with
    | .mat g => { q with prog := .mat (f g) }
    | _ => q

/-! ## Writeback (R52, R55, R78, R80, R81) -/

/-- An FP8 operation's entry with its scales: one rounding of the exact triple product (R52). -/
def fp8Scale (flush : Bool) (e : Entry) (sa sb : FV) : Entry :=
  let x := fvMul (fvMul (fv32 e.v) sa) sb
  let r := roundTo ffFp32 flush x
  { v := w32 r.v,
    fl := e.fl ||| (if r.ovf then flOVF else 0#4) ||| (if sa.isInf || sb.isInf then flINFIN else 0#4)
      ||| (if x.isNan then flINV else 0#4) ||| (if r.flush then flFLUSH else 0#4),
    nin := if isNan32 e.v then e.nin else sa.isNan || sb.isNan }

/-- The group index of a capture at writeback (R57). -/
def noGroup : Nat := 0xFFFFFFFF

/-- Write a converted value of a format with a scale: FP8 divides by it, the rest ignore it (R37). -/
def wbFmt (fmt : Fmt) (mode : Nat) (e : Entry) (scale : FV) : Wb :=
  if fmt.isFp8 then wbScaled fmt.ff mode e scale else wbEntry fmt.ff mode e

/-- The value that a written element represents, as an accumulator input: an FP8 element decoded with its scale under R36 and R37, so that a
subnormal or tiny one flushes in flush mode and an overflow of the product is the statistic's own (R56, R81). -/
def writtenVal (fmt : Fmt) (flush : Bool) (pat : Nat) (scale : FV) : GroupSum :=
  if fmt.isFp8 then
    let x := readFv fmt.ff flush pat
    let y := fvMul x.1 scale
    let r := roundTo ffFp32 flush y
    ⟨w32 r.v, (if r.ovf then flOVF else 0#4) ||| (if x.1.isInf || scale.isInf then flINFIN else 0#4) ||| (if y.isNan then flINV else 0#4)
      ||| (if x.2 || r.flush then flFLUSH else 0#4), x.1.isNan || scale.isNan⟩
  else
    let v := w32 (fvOf fmt.ff pat)
    ⟨v, (if isInf32 v then flINFIN else 0#4) ||| (if isNan32 v then flINV else 0#4), isNan32 v⟩

/-- Row statistics of written values: maximum, sum in column order, absolute maximum (R81). The maxima carry the flags of every in-range element
of the row: R82 does not say which (log 116). -/
def rowStats (flush : Bool) (l : List GroupSum) : Entry × Entry × Entry :=
  let sum := l.foldl (fun a g => accAdd flush a g) Entry.zero
  let mx (vs : List W32) : W32 := match vs with | [] => 0#32 | v :: t => t.foldl max32 v
  let fl := l.foldl (fun f g => f ||| g.fl) 0#4
  let ent (v : W32) : Entry := ⟨v, fl, isNan32 v && l.any GroupSum.nin⟩
  (ent (mx (l.map GroupSum.v)), sum, ent (mx (l.map fun g => abs32 g.v)))

/-- Combine statistics of neighbouring tiles (R82). The stored partials keep their flags until they are combined, as R72 has it for splits:
R82 does not say (log 116). -/
def joinStats (flush : Bool) (a b : Entry × Entry × Entry) : Entry × Entry × Entry :=
  let mx (x y : Entry) : Entry := { v := max32 x.v y.v, fl := x.fl ||| y.fl, nin := x.nin || y.nin }
  (mx a.1 b.1, accAdd flush a.2.1 ⟨b.2.1.v, b.2.1.fl, b.2.1.nin⟩, mx a.2.2 b.2.2)

/-- Rows of a row-major list. -/
def rowsOf {α : Type} (n : Nat) (l : List α) : List (List α) := chunks n (l.length + 1) l

/-- Poison a tile's in-range output sectors (R89). -/
def State.poisonRows (s : State) (c : Nat) (d : TDesc) (g : Geo) : State :=
  (List.range g.rows).foldl (fun s r => s.vpoison c (d.at [g.row0 + r, g.col0]) (g.cols * d.format.size)) s

/-- Write a tile's status byte (R78). -/
def State.tileStatus (s : State) (c : Nat) (p : Plan) (f : MatF) (g : Geo) (b : Nat) : Except OpErr State :=
  match p.ten f.tstatDesc with
  | none => .ok s
  | some d => s.wrBytes c (d.addr + g.num f) (leBytes 1 b)

/-- Selected statistics in column order (R82). -/
def selStats (sel : Nat) (x : Entry × Entry × Entry) : List Entry :=
  (if bitOf sel 0 then [x.1] else []) ++ (if bitOf sel 1 then [x.2.1] else []) ++ (if bitOf sel 2 then [x.2.2] else [])

/-- Write one output row's statistics, counted (R82). -/
def State.writeStats (s : State) (c i : Nat) (d : TDesc) (f : MatF) (row : Nat) (x : Entry × Entry × Entry) : Except OpErr State :=
  wrAll (fun s (e : Nat × Entry) =>
    let w := wbEntry ffFp32 f.numMode e.2
    match s.wrElem c d [row, e.1] w.pat with
    | .error e => .error e
    | .ok s => .ok (s.opCount c i { sat := b2n w.sat, flush := b2n w.flush, inv := b2n w.inv, cap := none })) s
    (enumFrom 0 (selStats f.rowstat x))

/-- The core whose commit completes a tile row combines its statistics in ascending tn (R82); one poisoned tile poisons them. -/
def State.rowDone (s : State) (c i : Nat) (p : Plan) (f : MatF) (g : Geo) : Except OpErr State :=
  match s.matOp c i, p.ten f.rowstatDesc with
  | some (_, _, _, _, pr), some d =>
    let nums := (List.range f.gn).map fun n => g.tm * f.gn + n
    if f.rowstat = 0 || !(nums.all pr.tiles.contains) then .ok s
    else if nums.any pr.poisonTiles.contains then
      .ok ((List.range g.rows).foldl (fun s r => s.vpoison c (d.at [g.row0 + r, 0]) (4 * pop3 f.rowstat)) s)
    else
      wrAll (fun s r =>
        let xs := nums.filterMap fun n => (kvGet n pr.stats).bind fun l => l[r]?
        match xs with
        | [] => .ok s
        | x :: t => s.writeStats c i d f (g.row0 + r) (t.foldl (joinStats (modeFlush f.numMode)) x))
        (s.coverClear c ((List.range g.rows).map fun r => (d.at [g.row0 + r, 0], 4 * pop3 f.rowstat))) (List.range g.rows)
  | _, _ => .ok s

/-- Commit a tile as poisoned (R89, R187). -/
def State.spoilTile (s : State) (c i : Nat) (p : Plan) (f : MatF) (g : Geo) : Except OpErr State :=
  let s := s.opSpoil c i
  let s := match p.ten f.outDesc with | some d => s.poisonRows c d g | none => s
  let s := s.matDo c i fun m => { m with tiles := insNat (g.num f) m.tiles, poisonTiles := insNat (g.num f) m.poisonTiles }
  match s.tileStatus c p f g 8 with
  | .error e => .error e
  | .ok s => s.rowDone c i p f g

/-- The scales that a tile's writeback reads: of A by row, of B by column, of the output by row and column. -/
def State.tileScales (s : State) (c : Nat) (p : Plan) (f : MatF) (g : Geo) (d : TDesc) :
    Rd (List FV × List FV × List (List FV)) :=
  let rows := (List.range g.rows).map (· + g.row0)
  let cols := (List.range g.cols).map (· + g.col0)
  let one : FV := .fin false 1 0
  let fp8 := (fmtOf f.aFmt).isFp8
  let rd (o : Nat) (l : List Nat) (row : Bool) : Rd (List FV) := match p.ten o with
    | none => .ok (l.map fun _ => one, none)
    | some t => if fp8 then rdAll (fun k => if row then s.rdScale c t k 0 else s.rdScale c t 0 k) l else .ok (l.map fun _ => one, none)
  match rd f.aDesc rows true, rd f.bDesc cols false,
        rdAll (fun r => rdAll (fun k => if d.format.isFp8 then s.rdScale c d r k else .ok (one, none)) cols) rows with
  | .ok a, .ok b, .ok o => .ok ((a.1, b.1, o.1), pFirst a.2 (pFirst b.2 o.2))
  | .error e, _, _ => .error e
  | .ok _, .error e, _ => .error e
  | .ok _, .ok _, .error e => .error e

/-- An element's entry by tile row and column. -/
def entAt (tn : Nat) (es : List Entry) (r k : Nat) : Entry := es.getD (r * tn + k) Entry.zero

/-- The entries of a tile's in-range elements after an FP8 operation's scales, by row. -/
def scaledRows (f : MatF) (g : Geo) (es : List Entry) (sa sb : List FV) : List (List Entry) :=
  (List.range g.rows).map fun r => (List.range g.cols).map fun k =>
    let e := entAt f.tn es r k
    if (fmtOf f.aFmt).isFp8 then fp8Scale (modeFlush f.numMode) e (sa.getD r fvZero) (sb.getD k fvZero) else e

/-- Count a tile's written elements in canonical order. -/
def countRows (g : Geo) (n : NumStat) (ws : List (List Wb)) : NumStat :=
  (enumFrom 0 ws).foldl (fun n r => (enumFrom 0 r.2).foldl (fun n w => n.count w.2 ⟨w.2.kind, g.tm, g.tn, noGroup, r.1, w.1⟩) n) n

/-- Write a final tile: elements row by row, status byte, statistics, counts (R55, R78, R80 to R82). -/
def State.writeTile (s : State) (c i : Nat) (p : Plan) (f : MatF) (g : Geo) (es : List Entry) (num : NumStat) : Except OpErr State :=
  match p.ten f.outDesc with
  | none => .ok s
  | some d =>
    match s.tileScales c p f g d with
    | .error e => .error e
    | .ok (_, some pa) => (s.opPoison c i (g.num f) pa).spoilTile c i p f g
    | .ok ((sa, sb, so), none) =>
      let rows := scaledRows f g es sa sb
      let one : FV := .fin false 1 0
      let sc (r k : Nat) : FV := (so.getD r []).getD k one
      let ws := (enumFrom 0 rows).map fun r => (enumFrom 0 r.2).map fun e => wbFmt d.format f.numMode e.2 (sc r.1 e.1)
      let n := countRows g num ws
      match wrAll (fun s (r : Nat × List Wb) =>
          s.wrBytes c (d.at [g.row0 + r.1, g.col0]) (r.2.flatMap fun w => leBytes d.format.size w.pat))
          (s.coverClear c ((List.range g.rows).map fun r => (d.at [g.row0 + r, g.col0], g.cols * d.format.size))) (enumFrom 0 ws) with
      | .error e => .error e
      | .ok s =>
        let st := (enumFrom 0 ws).map fun r =>
          rowStats (modeFlush f.numMode) ((enumFrom 0 r.2).map fun w => writtenVal d.format (modeFlush f.numMode) w.2.pat (sc r.1 w.1))
        let amax := rows.foldl (fun a r => r.foldl (fun a e => max32 a (abs32 e.v)) a) 0#32
        let s := (s.opCount c i n).matDo c i fun m =>
          { m with tiles := insNat (g.num f) m.tiles, stats := kvSet (g.num f) st m.stats, amax := max32 m.amax amax }
        match s.tileStatus c p f g n.tileStatus with
        | .error e => .error e
        | .ok s => s.rowDone c i p f g

/-- The absolute maximum of a tile's source (R281). -/
def State.measureTile (s : State) (c : Nat) (p : Plan) (f : MatF) (g : Geo) (es : List Entry) : Rd W32 :=
  match p.ten f.outDesc with
  | none => .ok (0#32, none)
  | some d =>
    match s.tileScales c p f g d with
    | .error e => .error e
    | .ok ((sa, sb, _), q) => .ok ((scaledRows f g es sa sb).foldl (fun a r => r.foldl (fun a e => max32 a (abs32 e.v)) a) 0#32, q)

/-- Does the output take its scale from a history record (R280)? -/
def Plan.matHist (p : Plan) (f : MatF) : Option TDesc :=
  match p.ten f.outDesc with
  | some d => if d.shist != 0 && d.format.isFp8 then some d else none
  | none => none

/-- A final tile passes through writeback, or waits until every tile has been measured (R281). -/
def State.finalTile (s : State) (c i : Nat) (p : Plan) (f : MatF) (g : Geo) (pr : MatProg) (es : List Entry) (num : NumStat) :
    Except OpErr State :=
  if (p.matHist f).isSome && pr.shScale.isNone then
    .ok (s.matDo c i fun m => { m with deferred := kvSet (g.num f) (es, num) m.deferred })
  else s.writeTile c i p f g es num

/-! ## Splits (R72) -/

/-- Add a split's partial to the sum of those before it, with capture candidates at the split's first group (R59). -/
def joinSplit (flush : Bool) (f : MatF) (g : Geo) (sp : Nat) (a : List Entry × NumStat) (b : List Entry × NumStat) :
    List Entry × NumStat :=
  let es := (List.zip a.1 b.1).map fun x => accAdd flush x.1 ⟨x.2.v, x.2.fl, x.2.nin⟩
  let bad (r k : Nat) : Bool := isNan32 (entAt f.tn es r k).v && !isNan32 (entAt f.tn a.1 r k).v && !isNan32 (entAt f.tn b.1 r k).v
  let caps := (List.range g.rows).flatMap fun r => ((List.range g.cols).filter (bad r)).map fun k =>
    Capture.mk 0 g.tm g.tn (sp * f.perSplit) r k
  let n := a.2.add b.2
  (es, { n with cap := caps.foldl (fun m q => capMin m (some q)) n.cap })

/-- Combine the splits in ascending order. -/
def joinSplits (flush : Bool) (f : MatF) (g : Geo) : Nat → List Entry × NumStat → List (List Entry × NumStat) → List Entry × NumStat
  | _, a, [] => a
  | sp, a, b :: t => joinSplits flush f g (sp + 1) (joinSplit flush f g sp a b) t

/-- A granted commit (R76): writeback, or the storing of partials and, with the last of a tile, their combination. -/
def State.granted (s : State) (c i : Nat) (p : Plan) (f : MatF) (g : Geo) (u : Nat) (w : TileWork) : Except OpErr State :=
  let s := s.matDo c i fun m =>
    { m with commit := insNat u m.commit, poisonUnits := if w.poisoned then insNat u m.poisonUnits else m.poisonUnits,
             parts := if f.splits = 1 then m.parts else kvSet u (w.acc, w.num) m.parts }
  match s.matOp c i with
  | none => .ok s
  | some (_, _, _, _, pr) =>
    let t := u / f.splits
    let us := (List.range f.splits).map fun k => t * f.splits + k
    if !(us.all pr.commit.contains) then .ok s
    else if us.any pr.poisonUnits.contains then s.spoilTile c i p f g
    else if f.splits = 1 then s.finalTile c i p f g pr w.acc w.num
    else
      match us.filterMap fun k => kvGet k pr.parts with
      | [] => .ok s
      | a :: rest =>
        let r := joinSplits (modeFlush f.numMode) f g 1 a rest
        (s.matDo c i fun m => { m with parts := m.parts.filter fun e => !us.contains e.1 }).finalTile c i p f g pr r.1 r.2

/-! ## The end of an operation -/

/-- Has every position had its exhausted claim from every range (R73)? -/
def MatProg.allExhausted (m : MatProg) (positions ranges : Nat) : Bool :=
  (List.range positions).all fun p => (List.range ranges).all fun r => m.exhausted.contains (p, r)

/-- Does some position hold units of the operation? -/
def State.unitsLeft (s : State) (c i : Nat) : Bool := s.tiles.any fun t => t.1 / 1024 == c && t.2.op == i

/-- The tiles that waited for the measured scale: `SH_SCALE` is written before the first element (R281). -/
def State.writeDeferred (s : State) (c i : Nat) (p : Plan) (f : MatF) (pr : MatProg) (d : TDesc) : Except OpErr State :=
  let geo (n : Nat) : Rd (Option Geo) := s.tileGeo c p { f with gridOrder := 0 } n
  match rdAll (fun (e : Nat × List Entry × NumStat) => match geo e.1 with
      | .ok (some g, q) => (match s.measureTile c p f g e.2.1 with
          | .ok r => .ok ((some g, e.2, r.1), pFirst q r.2)
          | .error x => .error x)
      | .ok (none, q) => .ok ((none, e.2, 0#32), q)
      | .error x => .error x) pr.deferred with
  | .error e => .error e
  | .ok (l, _) =>
    match s.rdBytes c d.shist 128 with
    | .error e => .error e
    | .ok (rec, _) =>
      let scale := shScaleFor d.fmt (l.foldl (fun a x => max32 a x.2.2) 0#32) (field rec 67 1)
      match s.wrBytes c (d.shist + 68) (leBytes 4 scale.toNat) with
      | .error e => .error e
      | .ok s =>
        let s := s.matDo c i fun m => { m with shScale := some scale, deferred := [] }
        wrAll (fun s (x : Option Geo × (List Entry × NumStat) × W32) => match x.1 with
          | none => .ok s
          | some g => s.writeTile c i p f g x.2.1.1 x.2.1.2) s l

/-- Record the source's amax in the history (R282). -/
def State.histDone (s : State) (c : Nat) (d : TDesc) (amax : W32) : Except OpErr State :=
  match s.rdBytes c d.shist 128 with
  | .error e => .error e
  | .ok (rec, _) => s.wrBytes c d.shist (shRecorded rec amax)

/-- End the operation once every unit has been claimed and finished and every position's claims are exhausted (R73). -/
def State.matEnd (s : State) (c i : Nat) : State :=
  match s.matOp c i with
  | none => s
  | some (x, p, _, f, pr) =>
    if !pr.allExhausted x.positions.length f.ranges || s.unitsLeft c i then s
    else
      match p.matHist f with
      | none => s.opEnd c i .ok []
      | some d =>
        s.opTry c i (if pr.deferred.isEmpty then .ok s else s.writeDeferred c i p f pr d) fun s =>
          let a := match s.matOp c i with | some (_, _, _, _, m) => m.amax | none => 0#32
          s.opTry c i (s.histDone c d a) fun s => s.opEnd c i .ok []

/-! ## Commands -/

/-- A matrix operation as it begins. -/
def MatProg.start : MatProg :=
  { commit := [], parts := [], stats := [], exhausted := [], poisonUnits := [], poisonTiles := [], tiles := [], deferred := [],
    shScale := none, amax := 0 }

/-- Write the first index of each claim range into its object (R73, R314). -/
def State.setRanges (s : State) (sos ends : List Nat) (n : Nat) : State :=
  (List.range n).foldl (fun s r => match kvGet (nth sos r) s.sos with
    | some o => s.soSet (nth sos r) { o with value := if r = 0 then 0 else nth ends (r - 1) }
    | none => s) s

/-- MATMUL (R70, R73, R281, R314): the operation begins; a delayed scale history fixes the output scale now. -/
def execMatmul (c i : Nat) (errs : List SectorErr) (s : State) : Host.Outcome State Fault Refusal :=
  done <|
    let s := s.opRecover c i (fun o => o.kind == 0x0001) errs
    match s.opOf c i with
    | some (_, p, _, .matmul f, _) =>
      if !s.mayIssue c i then s
      else
        let s := (s.opBegin c i (.mat MatProg.start)).setRanges f.rangeSo f.rangeEnd f.ranges
        (match p.matHist f with
         | none => s
         | some d =>
           s.opTry c i (s.rdBytes c d.shist 128) fun r =>
             match shHistory d.fmt r.1 with
             | none => s
             | some sc => s.opTry c i (s.wrBytes c (d.shist + 68) (leBytes 4 sc.toNat)) fun s =>
                 s.matDo c i fun m => { m with shScale := some sc })
    | _ => s

/-- The claim range a position tries next: from its home range on, wrapping, the first not seen exhausted (R73). -/
def nextRange (home n pos : Nat) (seen : List (Nat × Nat)) : Option Nat :=
  ((List.range n).map fun k => (home + k) % n).find? fun r => !seen.contains (pos, r)

/-- Claim for a position: the indices it got, none when the range is exhausted (R73, R314). -/
def claimIndices (v w stop : Nat) : List Nat := (List.range (min (v + w) stop - v)).map (· + v)

/-- A matrix claim (R73 to R75): an atomic fetch-and-add on the next range; its indices, or the range is exhausted. -/
def State.matClaim (s : State) (c pos i : Nat) : State :=
  match s.matOp c i, s.coreOf c pos with
  | some (_, p, _, f, pr), some core =>
    if (kvGet (ckey c pos) s.tiles).isSome || (kvGet (ckey c pos) s.att).isSome || s.spansWait c (opReads p (.matmul f)) then s
    else
      match nextRange (core / 48 % f.ranges) f.ranges pos pr.exhausted with
      | none => s
      | some r =>
        let a := s.soApply (nth f.rangeSo r) 10 f.width c pos
        match a.1 with
        | .fail st => a.2.claimFailed c i st
        | .wait _ => a.2
        | .done v =>
          if v < nth f.rangeEnd r then
            let w : TileWork := { op := i, claimed := [], unit := none, chunk := 0, staged := [], group := 0, acc := [], attempt := 0,
                                  num := NumStat.zero, poisoned := false }
            a.2.opTry c i (a.2.nextUnit c p f w (claimIndices v f.width (nth f.rangeEnd r))) fun w => (a.2.tileSet c pos w).matEnd c i
          else (a.2.matDo c i fun m => { m with exhausted := m.exhausted ++ [(pos, r)] }).matEnd c i
  | _, _ => s

/-- The unit that a position works on. -/
def State.workOf (s : State) (c pos : Nat) : Option (TileWork × Ctx × Plan × Run × MatF × Nat) :=
  match kvGet (ckey c pos) s.tiles, s.coreOf c pos with
  | some w, some _ =>
    (match w.unit, s.matOp c w.op with
     | some u, some (x, p, r, f, _) => some (w, x, p, r, f, u)
     | _, _ => none)
  | _, _ => none

/-- The initial entries of a unit: +0, or the loaded C of split 0 (R50, R54), with its flushes and its NaN candidate (R58, R59). -/
def State.loadC (s : State) (c : Nat) (p : Plan) (f : MatF) (g : Geo) (sp : Nat) : Rd (List Entry × NumStat) :=
  let blank := List.replicate (f.tm * f.tn) Entry.zero
  if f.cInit = 0 || sp != 0 then .ok ((blank, NumStat.zero), none)
  else
    match p.ten f.cDesc with
    | none => .ok ((blank, NumStat.zero), none)
    | some d =>
      match rdAll (fun r => rdAll (fun k => s.rdElem c d [g.row0 + r, g.col0 + k]) (List.range g.cols)) (List.range g.rows) with
      | .error e => .error e
      | .ok (l, q) =>
        let ff := d.format.ff
        let fl := modeFlush f.numMode
        let ent (n : Nat) : Entry :=
          let x := (readFv ff fl n).1
          ⟨w32 x, (if x.isInf then flINFIN else 0#4) ||| (if x.isNan then flINV else 0#4), x.isNan⟩
        let es := (List.range (f.tm * f.tn)).map fun n =>
          if n / f.tn < g.rows ∧ n % f.tn < g.cols then ent ((l.getD (n / f.tn) []).getD (n % f.tn) 0) else Entry.zero
        let caps := (List.range g.rows).flatMap fun r => ((List.range g.cols).filter fun k => isNan32 (entAt f.tn es r k).v).map fun k =>
          Capture.mk 1 g.tm g.tn 0 r k
        let flushed := (l.map fun r => (r.filter fun n => (readFv ff fl n).2).length).sum
        .ok ((es, { sat := 0, flush := flushed, inv := 0, cap := caps.foldl (fun m q => capMin m (some q)) none }), q)

/-- A unit that consumed poison, or whose attempts are spent, goes to its commit (R89, R187). -/
def TileWork.spoil (w : TileWork) (last : Nat) : TileWork :=
  { w with poisoned := true, group := last, staged := [], num := NumStat.zero }

/-- The K indices of a tile's next chunk: the first, and the end (R66, R79). -/
def MatF.chunkKs (f : MatF) (w : TileWork) (u : Nat) : Nat × Nat :=
  let sp := f.span (u % f.splits)
  let k0 := 32 * sp.1 + 256 * w.chunk
  (k0, min (k0 + 256) (min f.k (32 * sp.2)))

/-- The ranges that staging a tile's next chunk reads: of A, of B, and with the first chunk of C (R66, R79). -/
def chunkReads (p : Plan) (f : MatF) (w : TileWork) (u : Nat) (g : Geo) : List (Nat × Nat) :=
  let k := f.chunkKs w u
  (match p.ten f.aDesc with | some d => chunkRanges d true g.row0 g.rows k.1 (k.2 - k.1) | none => [])
  ++ (match p.ten f.bDesc with | some d => chunkRanges (d.shift (g.grp * f.grpBBytes)) false g.col0 g.cols k.1 (k.2 - k.1) | none => [])
  ++ (match p.ten f.cDesc with
      | some d => if w.chunk = 0 ∧ f.cInit = 1 then chunkRanges d true g.row0 g.rows g.col0 g.cols else []
      | none => [])

/-- TILE_CHUNK_LOAD (R66, R79): stage the next K chunk, two at most; the first also loads C. Errors of the sectors it reads are
recovered first (R89); poison spoils the unit (R187). Nothing comes in while the core's channels are turned outbound (R18). -/
def execTileChunkLoad (c pos : Nat) (errs : List SectorErr) (s : State) : Host.Outcome State Fault Refusal :=
  done <|
    match s.workOf c pos with
    | none => s
    | some (w, _, p, r, f, u) =>
      let sp := f.span (u % f.splits)
      let k0 := (f.chunkKs w u).1
      let k1 := (f.chunkKs w u).2
      if w.poisoned || decide (k1 ≤ k0) || decide (2 ≤ w.staged.length) || !(s.coreOf c pos).any s.mayLoad then s
      else
        s.opTry c w.op (s.tileGeo c p f (u / f.splits)) fun q =>
          match q.1, p.ten f.aDesc, p.ten f.bDesc with
          | some g, some da, some db0 =>
            let db := db0.shift (g.grp * f.grpBBytes)
            let reads := chunkReads p f w u g
            let s := s.recoverRanges c reads errs
            if s.rebuildDue (s.physSpans c reads) then s
            else
              let ks := (List.range (k1 - k0)).map (· + k0)
              s.opTry c w.op (s.rdChunk c da true f g.row0 g.rows f.tm r.pad ks) fun a =>
                s.opTry c w.op (s.rdChunk c db false f g.col0 g.cols f.tn r.pad ks) fun b =>
                  s.opTry c w.op (if w.chunk = 0 then s.loadC c p f g (u % f.splits) else .ok ((w.acc, NumStat.zero), none)) fun e =>
                    match pFirst q.2 (pFirst e.2 (pFirst a.2 b.2)) with
                    | some pa => (s.opPoison c w.op (g.num f) pa).tileSet c pos (w.spoil sp.2)
                    | none =>
                      let fl := if modeFlush f.numMode then
                          chunkFlush da.format.ff g.rows a.1 + chunkFlush db.format.ff g.cols b.1 else 0
                      s.tileSet c pos { w with
                        chunk := w.chunk + 1, staged := w.staged ++ [(a.1, b.1)], acc := e.1.1,
                        num := (w.num.add e.1.2).addFlush fl }
          | _, _, _ => s

/-- A group's operand pairs for an element, read as the mode says. -/
def groupOps (fa fb : FloatFmt) (flush : Bool) (o n : Nat) (row col : List Nat) : List (FV × FV) :=
  (List.zip ((row.drop o).take n) ((col.drop o).take n)).map fun x => ((readFv fa flush x.1).1, (readFv fb flush x.2).1)

/-- One group enters a tile's accumulator (R46 to R50): `o` is its place in the chunk, `n` its products. -/
def groupStep (fa fb : FloatFmt) (flush : Bool) (tn o n : Nat) (a b : List (List Nat)) (acc : List Entry) : List Entry :=
  (enumFrom 0 acc).map fun e =>
    accAdd flush e.2 (groupSum fa fb flush (groupOps fa fb flush o n (a.getD (e.1 / tn) []) (b.getD (e.1 % tn) [])))

/-- Capture candidates of a group: the in-range entries that became NaN in it (R59). -/
def groupCaps (f : MatF) (g : Geo) (grp : Nat) (before after : List Entry) : Option Capture :=
  ((List.range g.rows).flatMap fun r => ((List.range g.cols).filter fun k =>
      isNan32 (entAt f.tn after r k).v && !isNan32 (entAt f.tn before r k).v).map fun k =>
    Capture.mk (if (entAt f.tn after r k).nin then 1 else 0) g.tm g.tn grp r k).foldl (fun m q => capMin m (some q)) none

/-- A failed check: recompute, or after the third attempt commit as poisoned (R88, R89). -/
def State.tileFail (s : State) (c pos : Nat) (f : MatF) (u core : Nat) (w : TileWork) : State :=
  let sp := f.span (u % f.splits)
  if w.attempt ≥ 2 then
    let k := f.coord (u / f.splits)
    let s := s.post 0x0302 c (leBytes 2 core ++ zeros 2 ++ leBytes 4 w.op ++ leBytes 4 k.1 ++ leBytes 4 k.2)
    ((s.detect core 1).unrecovered c).tileSet c pos (w.spoil sp.2)
  else (s.recompute c core 8).tileSet c pos (({ w with attempt := w.attempt + 1 } : TileWork).restart sp.1)

/-- TILE_GROUP_COMPLETE (R50, R53, R86, R88): a group that passes its check enters every entry whole; one that fails restarts the
attempt. -/
def execTileGroupComplete (c pos : Nat) (check : Check) (s : State) : Host.Outcome State Fault Refusal :=
  done <|
    match s.workOf c pos, s.coreOf c pos with
    | some (w, _, p, _, f, u), some core =>
      (match w.staged, p.ten f.aDesc, p.ten f.bDesc with
       | ab :: more, some da, some db =>
         (match check with
          | .fail => s.tileFail c pos f u core w
          | .word => (s.telAdd core 11 1).tileFail c pos f u core w
          | .pass =>
            s.opTry c w.op (s.tileGeo c p f (u / f.splits)) fun q =>
              match q.1 with
              | none => s
              | some g =>
                let sp := f.span (u % f.splits)
                let o := 32 * (w.group - sp.1) % 256
                let n := min 32 (f.k - 32 * w.group)
                let acc := groupStep da.format.ff db.format.ff (modeFlush f.numMode) f.tn o n ab.1 ab.2 w.acc
                let over8 := o + 32 ≥ 256 ∨ w.group + 1 ≥ sp.2
                s.tileSet c pos { w with
                  group := w.group + 1, acc := acc, staged := if over8 then more else w.staged,
                  num := { w.num with cap := capMin w.num.cap (groupCaps f g w.group w.acc acc) } })
       | _, _, _ => s)
    | _, _ => s

/-- The ranges that a tile's writeback stores to. -/
def State.tileWrites (s : State) (c : Nat) (p : Plan) (f : MatF) (u : Nat) : List (Nat × Nat) :=
  match s.tileGeo c p f (u / f.splits), p.ten f.outDesc with
  | .ok (some g, _), some d => ((List.range g.rows).map fun r => (d.at [g.row0 + r, g.col0], g.cols * d.format.size))
      ++ (match p.ten f.tstatDesc with | some t => [(t.addr + g.num f, 1)] | none => [])
      ++ (match p.ten f.rowstatDesc with
          | some t => if f.rowstat = 0 then [] else (List.range g.rows).map fun r => (t.at [g.row0 + r, 0], 4 * pop3 f.rowstat)
          | none => [])
  | _, _ => []

/-- A matrix commit (R76, R77, R87): the verdict is in; the accumulator's parity holds or fails the tile; the test-and-set of the
commit map grants the commit, or finds a duplicate whose results are discarded. Sectors that the writeback covers in part are read first
(R188), and a rebuild that this calls for is waited for (R186). Nothing goes out while the core's channels are turned inbound (R18). -/
def State.matCommit (s : State) (c pos : Nat) (check : Check) (errs : List SectorErr) : State :=
  match s.workOf c pos, s.coreOf c pos with
  | some (w, _, p, _, f, u), some core =>
    let out := s.physSpans c (s.tileWrites c p f u)
    let s := if w.group < (f.span (u % f.splits)).2 then s else s.recoverPartial c out errs
    if w.group < (f.span (u % f.splits)).2 || s.rebuildDue out || !s.mayStore core then s
    else if check ≠ .pass ∧ !w.poisoned then (s.telAdd core (checkCounter check 12) 1).tileFail c pos f u core w
    else
      match s.matOp c w.op with
      | none => s
      | some (_, _, _, _, pr) =>
        let r : Except OpErr State :=
          if pr.commit.contains u then .ok (s.opDo c w.op fun o => { o with dup := true })
          else
            match s.tileGeo c p f (u / f.splits) with
            | .error e => .error e
            | .ok (none, _) => .ok s
            | .ok (some g, _) => s.granted c w.op p f g u w
        s.opTry c w.op r fun s =>
          s.opTry c w.op (s.nextUnit c p f w w.claimed) fun w => (s.tileSet c pos w).matEnd c w.op
  | _, _ => s

end Sys2Proof.Machine
end

