-- ==== Sys2Proof/Machine/Vector.lean ====
section
/-! DEFINITION. The vector engine and the special function unit (04_vector_and_special_functions), and the generator KCG-64
(12_determinism_and_replay R298 to R300). -/
namespace Sys2Proof.Machine

/-! ## Streams and lanes (R90, R95) -/

/-- A vector instruction's 64 bits (R95). -/
def vwPack (w : VWord) (op : Nat) : Nat :=
  op + w.stream * 2 ^ 8 + w.d * 2 ^ 10 + w.a * 2 ^ 15 + w.b * 2 ^ 20 + w.c * 2 ^ 25 + w.p * 2 ^ 30 + b2n w.pall * 2 ^ 33
    + b2n w.range * 2 ^ 34 + w.fmt * 2 ^ 35 + b2n w.tensor * 2 ^ 38 + w.imm * 2 ^ 39

/-- The first word from `k` on that names a stream. -/
def nextWord (ws : List W64) (st k : Nat) : Option Nat :=
  ((List.range (ws.length - k)).map (· + k)).find? fun i => match ws[i]? with | some w => wordStream w == st | none => false

/-- Lane groups that each stream owns. -/
def VecF.groups (f : VecF) : Nat := 4 / f.streams

/-- Where a vector instruction runs. -/
structure VEnv where
  c : Nat
  i : Nat
  core : Nat
  idx : Nat
  part : Nat
  p : Plan
  r : Run
  f : VecF
  v : VecProg
  st : Nat
  t : VStream
  wi : Nat
  w : VWord

/-- Lanes of a stream: rank of the lane group, lane in it, lane number. -/
def VEnv.lanes (e : VEnv) : List (Nat × Nat × Nat) :=
  (List.range e.f.groups).flatMap fun g => (List.range 16).map fun l => (g, l, (e.st * e.f.groups + g) * 16 + l)

/-- The element index of a lane in this iteration (R95). -/
def VEnv.elem (e : VEnv) (x : Nat × Nat × Nat) : Nat := (e.t.iter * e.f.groups + x.1) * 16 + x.2.1

/-- Is this the last iteration? -/
def VEnv.last (e : VEnv) : Bool := decide (e.t.iter + 1 ≥ e.f.iter)

/-- Does the operation flush (R35)? -/
def VEnv.flush (e : VEnv) : Bool := modeFlush e.f.numMode

/-- The VECTOR operation in progress of a context. -/
def State.vecOp (s : State) (c : Nat) : Option (Nat × Ctx × Plan × Run × VecF × VecProg) :=
  match kvGet c s.ctxs with
  | none => none
  | some x =>
    match x.plan, x.run with
    | some p, some r =>
      (enumFrom 0 (List.zip p.ops r.ops)).findSome? fun e => match e.2.1, e.2.2.prog with
        | .vector f, .vec v => if e.2.2.st = .begun then some (e.1, x, p, r, f, v) else none
        | _, _ => none
    | _, _ => none

/-- The instruction that a stream executes next, if it is this one (R90, R95): position 0 is resident and no SFU result is due. -/
def State.vecEnv (s : State) (l : VLoc) (op : Nat) (w : VWord) : Option VEnv :=
  match s.vecOp l.ctx with
  | none => none
  | some (i, x, p, r, f, v) =>
    match v.streams[l.stream]?, (s.pos? l.ctx 0).bind Position.resident? with
    | some t, some (core, idx) =>
      (match nextWord f.words l.stream t.word with
       | some wi =>
         if s.running && !t.waitSfu && decide (t.iter < f.iter) && ((f.words[wi]?).map BitVec.toNat) == some (vwPack w op) then
           some { c := l.ctx, i := i, core := core, idx := idx, part := x.part, p := p, r := r, f := f, v := v, st := l.stream,
                  t := t, wi := wi, w := w }
         else none
       | none => none)
    | _, _ => none

/-- Change a VECTOR operation's progress. -/
def State.vecDo (s : State) (c i : Nat) (f : VecProg → VecProg) : State :=
  s.opDo c i fun q => match q.prog with
    | .vec v => { q with prog := .vec (f v) }
    | _ => q

/-! ## Registers (R91) -/

/-- The register file of a context's position 0. -/
def State.vecRegs (s : State) (c : Nat) : VecRegs := kvGetD (ckey c 0) s.vec { regs := [], preds := [] }

/-- Register `r` of a lane. -/
def VecRegs.get (v : VecRegs) (r lane : Nat) : Entry := kvGetD (lane * 32 + r) v.regs Entry.zero

/-- Predicate bit of a lane. -/
def VecRegs.pred (v : VecRegs) (p lane : Nat) : Bool := (v.preds.getD p 0).getLsbD lane

/-- Write a register of a lane. -/
def VecRegs.put (v : VecRegs) (r lane : Nat) (e : Entry) : VecRegs := { v with regs := kvSet (lane * 32 + r) e v.regs }

/-- Write a predicate bit. -/
def VecRegs.putPred (v : VecRegs) (p lane : Nat) (b : Bool) : VecRegs :=
  let ps := v.preds ++ List.replicate (8 - v.preds.length) 0
  let bit : W64 := BitVec.ofNat 64 (2 ^ lane)
  { v with preds := ps.set p (if b then ps.getD p 0 ||| bit else ps.getD p 0 &&& ~~~bit) }

/-- Store a register file. -/
def State.setRegs (s : State) (c : Nat) (v : VecRegs) : State := { s with vec := kvSet (ckey c 0) v s.vec }

/-- The lanes that an instruction is active in (R93). -/
def VEnv.active (e : VEnv) (v : VecRegs) : List (Nat × Nat × Nat) := e.lanes.filter fun x => e.w.pall || v.pred e.w.p x.2.2

/-- A 32-bit integer in a register: its value bits, flags clear (R95). -/
def intEnt (n : Nat) : Entry := ⟨BitVec.ofNat 32 n, 0#4, false⟩

/-- An instruction that computes registers lane by lane: `g` gives the entries written from D on. -/
def State.laneWise (s : State) (e : VEnv) (g : VecRegs → Nat × Nat × Nat → List Entry) : State :=
  let v := s.vecRegs e.c
  s.setRegs e.c ((e.active v).foldl (fun u x =>
    (enumFrom 0 (g v x)).foldl (fun u r => u.put (e.w.d + r.1) x.2.2 r.2) u) v)

/-- The element-wise forms of one, two and three operands. -/
def State.lane1 (s : State) (e : VEnv) (g : Bool → Entry → Entry) : State :=
  s.laneWise e fun v x => [g e.flush (v.get e.w.a x.2.2)]
def State.lane2 (s : State) (e : VEnv) (g : Bool → Entry → Entry → Entry) : State :=
  s.laneWise e fun v x => [g e.flush (v.get e.w.a x.2.2) (v.get e.w.b x.2.2)]
def State.lane3 (s : State) (e : VEnv) (g : Bool → Entry → Entry → Entry → Entry) : State :=
  s.laneWise e fun v x => [g e.flush (v.get e.w.a x.2.2) (v.get e.w.b x.2.2) (v.get e.w.c x.2.2)]

/-- An instruction that computes a predicate lane by lane. -/
def State.lanePred (s : State) (e : VEnv) (g : VecRegs → Nat → Bool) : State :=
  let v := s.vecRegs e.c
  s.setRegs e.c ((e.active v).foldl (fun u x => u.putPred e.w.d x.2.2 (g v x.2.2)) v)

/-- Write "into lane i of D" (R95), whatever the predicate. -/
def VEnv.putAt (e : VEnv) (v : VecRegs) (r i : Nat) (x : Entry) : VecRegs := v.put r ((e.st * e.f.groups + i / 16) * 16 + i % 16) x

/-! ## The end of an operation (R89, R117, R118, R281) -/

/-- Has a stream nothing left to execute? -/
def VecF.streamDone (f : VecF) (st : Nat) (t : VStream) : Bool := decide (f.iter ≤ t.iter) || (nextWord f.words st 0).isNone

/-- The tensor element's address range. -/
def TDesc.elemRange (d : TDesc) (e : Nat) : Nat × Nat := (d.atFlat e, d.format.size)

/-- Capture fields of a stored element (R109). -/
def TDesc.capture (d : TDesc) (kind e : Nat) : Capture := ⟨kind, e / d.lastDim, e % d.lastDim, noGroup, 0, 0⟩

/-- The bits of a PF32 store: the exact sum as the pair with hi = round(hi + lo), lo +0 beside a hi that is saturated or not finite (R42).
Subnormals are preserved under either mode (R44; log 32). -/
def storePf (mode : Nat) (a lo : Entry) : Wb :=
  let x := pfExact a.v lo.v
  let w := writeback ffFp32 (mode - mode % 2) x (a.fl ||| (if isInf32 lo.v then flINFIN else 0#4)) (a.nin || lo.nin)
  let hi := fv32 (BitVec.ofNat 32 w.pat)
  { w with pat := w.pat + (if w.sat || !hi.isFin then 0 else 2 ^ 32 * (round32 (fvAdd x (fvNeg hi))).toNat) }

/-- The bits a floating-point store writes, with what it counts (R55, R96). -/
def storeFv (fmt : Fmt) (mode : Nat) (scale : FV) (a lo : Entry) : Wb :=
  if fmt = .pf32 then storePf mode a lo else wbFmt fmt mode a scale

/-- Does a format keep its elements as integers (R96)? -/
def Fmt.isInt : Fmt → Bool
  | .vb8 | .i32 | .byte => true
  | .bf16 | .fp32 | .e4m3 | .e5m2 | .pf32 => false

/-- Store one element to a tensor (R55, R92, R96). -/
def State.storeElem (s : State) (c i mode : Nat) (d : TDesc) (ti e : Nat) (a lo : Entry) : Except OpErr State :=
  let note (v : VecProg) : VecProg := { v with stored := v.stored ++ [(ti, e)] }
  if d.format.isInt then
    match s.wrBytes c (d.atFlat e) (leBytes d.format.size a.v.toNat) with
    | .error x => .error x
    | .ok s => .ok (s.vecDo c i note)
  else
    match s.rdScale c d (e / d.lastDim) (e % d.lastDim) with
    | .error x => .error x
    | .ok (sc, q) =>
      let w := storeFv d.format mode sc a lo
      match s.wrBytes c (d.atFlat e) (leBytes d.format.size w.pat) with
      | .error x => .error x
      | .ok s =>
        let s := match q with | some pa => s.opPoison c i 0 pa | none => s
        .ok (s.vecDo c i fun v => note { v with num := v.num.count w (d.capture w.kind e), spoiled := v.spoiled || q.isSome })

/-- Keep what stands where the operation is about to store, so that a fault can put it back (R181). -/
def State.vecKeep (s : State) (c i : Nat) (l : List (Nat × Nat)) : State :=
  let at_ := (l.flatMap fun r => match s.reach c true r.1 r.2 with | .ok ps => ps | .error _ => []).flatMap fun p => (List.range p.2).map (· + p.1)
  s.vecDo c i fun v =>
    { v with undo := at_.foldl (fun u pa => if (kvGet pa u).isSome then u else kvSet pa (s.byteAt pa, s.poisoned pa, s.hwPoisoned pa) u) v.undo }

/-- The stores that waited for a measured scale: `SH_SCALE` first, then the elements (R281). -/
def State.vecDeferred (s : State) (c i mode : Nat) (p : Plan) (v : VecProg) : Except OpErr State :=
  wrAll (fun s (t : Nat × List (Nat × Entry)) =>
    match p.tenIdx t.1 with
    | none => .ok s
    | some d =>
      match s.rdBytes c d.shist 128 with
      | .error x => .error x
      | .ok (rec, _) =>
        let amax := t.2.foldl (fun m e => max32 m (abs32 e.2.v)) 0#32
        let s := s.vecKeep c i ((d.shist + 68, 4) :: t.2.map fun e => d.elemRange e.1)
        match s.wrBytes c (d.shist + 68) (leBytes 4 (shScaleFor d.fmt amax (field rec 67 1)).toNat) with
        | .error x => .error x
        | .ok s => wrAll (fun s e => s.storeElem c i mode d t.1 e.1 e.2 Entry.zero)
            (s.coverClear c (t.2.map fun e => d.elemRange e.1)) t.2) s v.deferred

/-- Record the sources' amaxes (R282). -/
def State.vecHist (s : State) (c i : Nat) (p : Plan) (v : VecProg) : Except OpErr State :=
  wrAll (fun s (t : Nat × Option W32 × W32) =>
    match p.tenIdx t.1 with
    | none => .ok s
    | some d => (s.vecKeep c i [(d.shist, 128)]).histDone c d t.2.2) s v.shist

/-- Mark the stored elements' sectors poisoned (R89, R118). -/
def State.vecSpoil (s : State) (c : Nat) (p : Plan) (v : VecProg) : State :=
  v.stored.foldl (fun s e => match p.tenIdx e.1 with
    | some d => s.vpoison c (d.elemRange e.2).1 (d.elemRange e.2).2
    | none => s) s

/-- The vector status block, for an operation with a variance step (R117). -/
def VecF.extra (f : VecF) (clamp : Nat) : List Byte := if f.hasVar then varBlock clamp else []

/-- End the operation once every stream has finished; its scale histories record their sources, poisoned or not (R282). -/
def State.vecEnd (s : State) (c : Nat) : State :=
  match s.vecOp c with
  | none => s
  | some (i, _, p, _, f, v) =>
    if !((enumFrom 0 v.streams).all fun t => f.streamDone t.1 t.2) then s
    else
      s.opTry c i (s.vecDeferred c i f.numMode p v) fun s =>
        match s.vecOp c with
        | none => s
        | some (_, _, _, _, _, v) =>
          s.opTry c i (s.vecHist c i p v) fun s =>
            if v.spoiled then ((s.vecSpoil c p v).opSpoil c i).opEnd c i .ok (f.extra 0)
            else (s.opCount c i v.num).opEnd c i .ok (f.extra v.varClamp)

/-- The stream's word is done: the next word, or the next iteration (R95). -/
def State.vecAdvance (s : State) (e : VEnv) : State :=
  let t : VStream := match nextWord e.f.words e.st (e.wi + 1) with
    | some k => { e.t with word := k, waitSfu := false, sfuDone := [] }
    | none => { word := 0, iter := e.t.iter + 1, waitSfu := false, sfuDone := [] }
  (s.vecDo e.c e.i fun v => { v with streams := v.streams.set e.st t }).vecEnd e.c

/-- Progress at the start of the first attempt, with the registers that the operation finds. -/
def VecProg.start (streams : Nat) (init : VecRegs) : VecProg :=
  { streams := List.replicate streams { word := 0, iter := 0, waitSfu := false, sfuDone := [] }, taken := [], attempt := 0,
    num := NumStat.zero, varClamp := 0, stored := [], spoiled := false, shist := [], deferred := [], init := init,
    undo := [] }

/-- The next attempt: counts, collected elements and measurements start afresh; chosen scales stand. -/
def VecProg.again (streams : Nat) (v : VecProg) : VecProg :=
  let z := VecProg.start streams v.init
  let h := kvMap (fun _ (t : Option W32 × W32) => (t.1, 0#32)) v.shist
  { z with attempt := v.attempt + 1, stored := v.stored, spoiled := v.spoiled, shist := h, undo := v.undo }

/-- Withdraw the SFU requests of a context's VECTOR operation, pending and granted. -/
def State.sfuDrop (s : State) (c : Nat) : State :=
  { s with sfu := s.sfu.map fun f => (f.1, { f.2 with reqs := f.2.reqs.filter fun q => q.ctx != c || q.att,
                                                       granted := f.2.granted.filter fun q => q.req.ctx != c || q.req.att }) }

/-- A failed attempt of the VECTOR operation of context `c` on a core (R118): it runs again from its start and from the registers that it
found, its SFU requests withdrawn; the third failure, and one that cannot run again, poisons its outputs. -/
def State.vecFail (s : State) (c core i : Nat) (f : VecF) (v : VecProg) : State :=
  if f.inplace = 1 ∨ v.attempt ≥ 2 then
    let s := s.post 0x0303 c (leBytes 2 core ++ zeros 2 ++ leBytes 4 i ++ leBytes 1 (if f.inplace = 1 then 1 else 0))
    ((s.detect core 1).unrecovered c).vecDo c i fun v => { v with spoiled := true, attempt := 3 }
  else
    (((s.recompute c core 9).sfuDrop c).setRegs c v.init).vecDo c i (VecProg.again f.streams)

/-- A step whose check fails (R118): an attempt that can run again does; an operation that has failed for good runs to its end. -/
def State.vecGuard (s : State) (e : VEnv) (check : Check) (act : State → State) : State :=
  if check = .pass ∨ e.v.attempt ≥ 3 then act s
  else if e.f.inplace = 1 ∨ e.v.attempt ≥ 2 then act ((s.wordSeen e.core check).vecFail e.c e.core e.i e.f e.v)
  else (s.wordSeen e.core check).vecFail e.c e.core e.i e.f e.v

/-- A vector instruction: the parity of the registers it reads (R118), its action, then the stream moves on. -/
def State.vecStep (s : State) (l : VLoc) (op : Nat) (w : VWord) (act : VEnv → State → Except OpErr State) :
    Host.Outcome State Fault Refusal :=
  done <|
    match s.vecEnv l op w with
    | none => s
    | some e => s.vecGuard e l.parity fun s => s.opTry e.c e.i (act e s) fun s => s.vecAdvance e

/-! ## VECTOR -/

/-- The stored tensors with a scale history, by table index. -/
def Plan.histStores (p : Plan) (f : VecF) : List (Nat × TDesc) :=
  (f.words.filterMap fun w =>
    if wordOp w = 0x29 ∧ wordSpace w = 1 then
      (match p.tenIdx (wordImm w % 2 ^ 20) with
       | some d => if d.shist != 0 && d.format.isFp8 then some (wordImm w % 2 ^ 20, d) else none
       | none => none)
    else none).dedup

/-- Choose the scales that histories give (R281). -/
def State.vecScales (s : State) (c i : Nat) (l : List (Nat × TDesc)) : Except OpErr State :=
  wrAll (fun s (t : Nat × TDesc) =>
    match s.rdBytes c t.2.shist 128 with
    | .error x => .error x
    | .ok (rec, _) =>
      let sc := shHistory t.2.fmt rec
      let s := s.vecDo c i fun v => { v with shist := kvSet t.1 (sc, 0#32) v.shist }
      match sc with
      | none => .ok s
      | some k => (s.vecKeep c i [(t.2.shist + 68, 4)]).wrBytes c (t.2.shist + 68) (leBytes 4 k.toNat)) s l

/-- VECTOR (R90, R95, R471): the operation begins on position 0, whose register file serves one VECTOR operation at a time. -/
def execVector (c i : Nat) (s : State) : Host.Outcome State Fault Refusal :=
  done <|
    match s.opOf c i with
    | some (_, p, _, .vector f, _) =>
      if !s.mayIssue c i || (s.vecOp c).isSome then s
      else
        let s := s.opBegin c i (.vec (VecProg.start f.streams (s.vecRegs c)))
        s.opTry c i (s.vecScales c i (p.histStores f)) fun s => s
    | _ => s

/-! ## Element-wise instructions (R92, R96) -/

def execVadd (l : VLoc) (w : VWord) (s : State) : Host.Outcome State Fault Refusal := s.vecStep l 0x01 w fun e s => .ok (s.lane2 e eAdd)
def execVsub (l : VLoc) (w : VWord) (s : State) : Host.Outcome State Fault Refusal := s.vecStep l 0x02 w fun e s => .ok (s.lane2 e eSub)
def execVmul (l : VLoc) (w : VWord) (s : State) : Host.Outcome State Fault Refusal := s.vecStep l 0x03 w fun e s => .ok (s.lane2 e eMul)
def execVfma (l : VLoc) (w : VWord) (s : State) : Host.Outcome State Fault Refusal := s.vecStep l 0x04 w fun e s => .ok (s.lane3 e eFma)
def execVmin (l : VLoc) (w : VWord) (s : State) : Host.Outcome State Fault Refusal := s.vecStep l 0x05 w fun e s => .ok (s.lane2 e eMin)
def execVmax (l : VLoc) (w : VWord) (s : State) : Host.Outcome State Fault Refusal := s.vecStep l 0x06 w fun e s => .ok (s.lane2 e eMax)
def execVabs (l : VLoc) (w : VWord) (s : State) : Host.Outcome State Fault Refusal := s.vecStep l 0x07 w fun e s => .ok (s.lane1 e eAbs)
def execVneg (l : VLoc) (w : VWord) (s : State) : Host.Outcome State Fault Refusal := s.vecStep l 0x08 w fun e s => .ok (s.lane1 e eNeg)

/-- IEEE comparison of two entries as read (R96). -/
def eCmp (flush : Bool) (cond : Nat) (a b : Entry) : Bool := condHolds cond (fvCmp (opnd flush a).1 (opnd flush b).1)

/-- VCMP (R96). -/
def execVcmp (l : VLoc) (w : VWord) (s : State) : Host.Outcome State Fault Refusal :=
  s.vecStep l 0x10 w fun e s => .ok (s.lanePred e fun v n => eCmp e.flush (w.imm % 8) (v.get w.a n) (v.get w.b n))

/-- VSEL (R92, R96): the operand selected with its flags alone. -/
def execVsel (l : VLoc) (w : VWord) (s : State) : Host.Outcome State Fault Refusal :=
  s.vecStep l 0x11 w fun e s => .ok (s.laneWise e fun v x =>
    [if v.pred (w.imm % 8) x.2.2 then v.get w.a x.2.2 else v.get w.b x.2.2])

/-- VPAND and VPOR (R96). -/
def execVpand (l : VLoc) (w : VWord) (s : State) : Host.Outcome State Fault Refusal :=
  s.vecStep l 0x12 w fun e s => .ok (s.lanePred e fun v n => v.pred (w.a % 8) n && (v.pred (w.b % 8) n != bitOf w.imm 0))
def execVpor (l : VLoc) (w : VWord) (s : State) : Host.Outcome State Fault Refusal :=
  s.vecStep l 0x13 w fun e s => .ok (s.lanePred e fun v n => v.pred (w.a % 8) n || (v.pred (w.b % 8) n != bitOf w.imm 0))

/-- VTWOSUM and VTWOPROD (R43). -/
def execVtwosum (l : VLoc) (w : VWord) (s : State) : Host.Outcome State Fault Refusal :=
  s.vecStep l 0x20 w fun e s => .ok (s.laneWise e fun v x =>
    let r := twoSum (v.get w.a x.2.2) (v.get w.b x.2.2)
    [r.entHi, r.entLo])
def execVtwoprod (l : VLoc) (w : VWord) (s : State) : Host.Outcome State Fault Refusal :=
  s.vecStep l 0x21 w fun e s => .ok (s.laneWise e fun v x =>
    let r := twoProd (v.get w.a x.2.2) (v.get w.b x.2.2)
    [r.entHi, r.entLo])

/-! ## VCVT (R37, R40, R96) -/

/-- Kind 0: A, or the quotient A / C for FP8, rounded to a format and widened exactly; a register is never saturated (log 24). -/
def cvtRound (fmt : Fmt) (flush : Bool) (a c : Entry) : Entry :=
  let x := opnd flush a
  let y := opnd flush c
  let q := if fmt.isFp8 then fvDiv x.1 y.1 else x.1
  let ops := if fmt.isFp8 then [a, c] else [a]
  let r := roundTo fmt.ff flush q
  { v := w32 r.v,
    fl := ops.foldl (fun f o => f ||| o.fl) 0#4 ||| (if r.ovf then flOVF else 0#4)
      ||| (if ops.any (fun o => isInf32 o.v) || (q.isInf && !r.ovf) then flINFIN else 0#4) ||| (if q.isNan then flINV else 0#4)
      ||| (if r.flush || x.2 || (fmt.isFp8 && y.2) then flFLUSH else 0#4),
    nin := q.isNan && ops.any fun o => isNan32 o.v && o.nin }

/-- Kind 1: to a 32-bit integer, nearest even, saturating at ±(2^31 - 1); NaN gives 0. -/
def cvtInt (a : Entry) : Nat :=
  match fv32 a.v with
  | .nan => 0
  | .inf n => uInt 32 (if n then -(2 ^ 31 - 1) else 2 ^ 31 - 1)
  | .fin n m e => uInt 32 (let k : Int := min (roundAt m e 0) (2 ^ 31 - 1); if n then -k else k)

/-- Kind 2: from a 32-bit integer. -/
def cvtFp (a : Entry) : Entry := ⟨w32 (roundTo ffFp32 false (fvInt (sInt 32 a.v.toNat))).v, a.fl, false⟩

/-- What VCVT writes. -/
def cvtEnt (w : VWord) (flush : Bool) (a c : Entry) : Entry :=
  match w.imm % 4 with
  | 0 => if w.fmt = 4 then intEnt (uInt 32 ((vb8Of (opnd flush a).1 ((w.imm / 4 : Nat) - 149)).getD (-128))) else cvtRound (fmtOf w.fmt) flush a c
  | 1 => intEnt (cvtInt a)
  | _ => cvtFp a

/-- VCVT (R96): kind 1 counts each NaN it converts, with no candidate (R58). -/
def execVcvt (l : VLoc) (w : VWord) (s : State) : Host.Outcome State Fault Refusal :=
  s.vecStep l 0x18 w fun e s =>
    let v := s.vecRegs e.c
    let nans := if w.imm % 4 = 1 then ((e.active v).filter fun x => isNan32 (v.get w.a x.2.2).v).length else 0
    let s := s.laneWise e fun v x => [cvtEnt w e.flush (v.get w.a x.2.2) (v.get w.c x.2.2)]
    .ok (s.vecDo e.c e.i fun g => { g with num := { g.num with inv := stick48 (g.num.inv + nans) } })

/-! ## Loads and stores (R93, R96) -/

/-- A loaded FP32 pattern with the flags that its value brings (R54, R92); a NaN as the canonical one (R30). -/
def loadEnt (w : W32) : Entry :=
  ⟨if isNan32 w then nan32 else w, (if isInf32 w then flINFIN else 0#4) ||| (if isNan32 w then flINV else 0#4), isNan32 w⟩

/-- The register entries that a stored element loads as (R36, R37, R96). The halves of a PF32 element are read exactly under either mode:
the spec does not say that R36 reaches them, and R44 preserves subnormals in PF32 steps (log 32). -/
def loadBits (fmt : Fmt) (flush : Bool) (n : Nat) (scale : FV) : List Entry :=
  if fmt = .vb8 then [intEnt (uInt 32 (sInt 8 n))]
  else if fmt.isInt then [intEnt n]
  else if fmt = .pf32 then [loadEnt (BitVec.ofNat 32 n), loadEnt (BitVec.ofNat 32 (n / 2 ^ 32))]
  else
    let x := readFv fmt.ff flush n
    let y := if fmt.isFp8 then fvMul x.1 scale else x.1
    let r := roundTo ffFp32 (flush && fmt.isFp8) y
    [{ v := w32 r.v,
       fl := (if r.ovf then flOVF else 0#4) ||| (if x.1.isInf || (fmt.isFp8 && scale.isInf) then flINFIN else 0#4)
         ||| (if y.isNan then flINV else 0#4) ||| (if x.2 || r.flush then flFLUSH else 0#4),
       nin := x.1.isNan || (fmt.isFp8 && scale.isNan) }]

/-- The padding value as a stored element of a format (R79); formats that R79 does not name take its FP32 bits. -/
def padBits (fmt : Fmt) (pad : W32) : Nat := if fmt.isFloat then padElem fmt.ff pad else pad.toNat % 2 ^ (8 * fmt.size)

/-- Bytes with free values in place of what a poisoned read gave (R187). -/
def State.hidePoison (s : State) (r : List Byte × Option Nat) : List Byte × State :=
  if r.2.isSome then freshBytes r.1.length s else (r.1, s)

/-- Recovery of one element's range. -/
def State.elemRecover (s : State) (c : Nat) (d : TDesc) (e : Nat) (errs : List SectorErr) : State :=
  s.recoverRanges c [d.elemRange e] errs

/-- Load one tensor element into a lane. -/
def State.loadElem (s : State) (e : VEnv) (d : TDesc) (lane el : Nat) : Except OpErr State :=
  match s.rdBytes e.c (d.atFlat el) d.format.size, (if d.format.isFp8 then s.rdScale e.c d (el / d.lastDim) (el % d.lastDim)
      else .ok (.fin false 1 0, none)) with
  | .error x, _ => .error x
  | .ok _, .error x => .error x
  | .ok r, .ok sc =>
    let h := s.hidePoison r
    let s := match pFirst r.2 sc.2 with
      | some pa => (h.2.opPoison e.c e.i 0 pa).vecDo e.c e.i fun v => { v with spoiled := true }
      | none => h.2
    .ok (s.setRegs e.c ((enumFrom 0 (loadBits d.format e.flush (leNat h.1) sc.1)).foldl
      (fun u x => u.put (e.w.d + x.1) lane x.2) (s.vecRegs e.c)))

/-- A tensor load: out-of-range positions are inactive, or take the padding value (R79, R93). The spec gives a padded FP8 position no row or
column, and so no scale: it takes the padding value converted, unscaled (log 111). -/
def State.vldTensor (s : State) (e : VEnv) (d : TDesc) : Except OpErr State :=
  wrAll (fun s (x : Nat × Nat × Nat) =>
    if e.elem x < d.elems then s.loadElem e d x.2.2 (e.elem x)
    else if e.w.range then .ok s
    else
      .ok (s.setRegs e.c ((enumFrom 0 (loadBits d.format e.flush (padBits d.format e.r.pad) (.fin false 1 0))).foldl
        (fun u y => u.put (e.w.d + y.1) x.2.2 y.2) (s.vecRegs e.c)))) s (e.active (s.vecRegs e.c))

/-- The scratchpad byte offset of a lane's element (R96). -/
def VEnv.spOffset (e : VEnv) (x : Nat × Nat × Nat) : Nat :=
  let sz := (fmtOf e.w.fmt).size
  (bits e.w.imm 0 15 + e.t.iter * bits e.w.imm 15 10) * 64 + 16 * sz * x.1 + sz * x.2.1

/-- The first offset at which an active lane reaches beyond the partition: a fault of kind 2 (R181). -/
def VEnv.spFault (e : VEnv) (act : List (Nat × Nat × Nat)) : Option MFault :=
  let sz := (fmtOf e.w.fmt).size
  (act.find? fun x => decide (partSp e.part < e.spOffset x + sz)).map fun x => ⟨max (e.spOffset x) (partSp e.part), 2, 1⟩

/-- The spans of the scratchpad that the active lanes reach. -/
def VEnv.spSpans (e : VEnv) (act : List (Nat × Nat × Nat)) : List (Nat × Nat) :=
  act.map fun x => (spAddr e.core e.part e.idx + e.spOffset x, (fmtOf e.w.fmt).size)

/-- A scratchpad load: FP8 and VB8 unscaled (R96). -/
def State.vldScratch (s : State) (e : VEnv) : Except OpErr State :=
  let act := e.active (s.vecRegs e.c)
  match e.spFault act with
  | some f => .error (.fault f)
  | none =>
    let fmt := fmtOf e.w.fmt
    .ok (s.setRegs e.c (act.foldl (fun u x =>
      (enumFrom 0 (loadBits fmt e.flush (leNat (s.physRead (spAddr e.core e.part e.idx + e.spOffset x) fmt.size)) (.fin false 1 0))).foldl
        (fun u y => u.put (e.w.d + y.1) x.2.2 y.2) u) (s.vecRegs e.c)))

/-- VLD (R96): the errors of the sectors it reads are recovered first (R185), and a rebuild holds it up (R186); a scratchpad word that
fails its check fails the attempt (R189). -/
def execVld (l : VLoc) (w : VWord) (errs : List SectorErr) (s : State) : Host.Outcome State Fault Refusal :=
  done <|
    match s.vecEnv l 0x28 w with
    | none => s
    | some e =>
      if !w.tensor then
        s.vecGuard e (if errs.any (inSpans (e.spSpans (e.active (s.vecRegs e.c)))) then .word else .pass) fun s =>
          s.opTry e.c e.i (s.vldScratch e) fun s => s.vecAdvance e
      else
        match e.p.tenIdx (w.imm % 2 ^ 20) with
        | none => s
        | some d =>
          let rs := ((e.active (s.vecRegs e.c)).filter fun x => decide (e.elem x < d.elems)).map fun x => d.elemRange (e.elem x)
          let s := s.recoverRanges e.c rs errs
          if s.rebuildDue (s.physSpans e.c rs) || !s.mayLoad e.core then s
          else s.opTry e.c e.i (s.vldTensor e d) fun s => s.vecAdvance e

/-- A scratchpad store: converted as a tensor store would, nothing counted (R92). -/
def State.vstScratch (s : State) (e : VEnv) : Except OpErr State :=
  let v := s.vecRegs e.c
  let act := e.active v
  match e.spFault act with
  | some f => .error (.fault f)
  | none =>
    let fmt := fmtOf e.w.fmt
    let one : FV := .fin false 1 0
    let pat (n : Nat) : Nat :=
      if fmt.isInt then (v.get e.w.a n).v.toNat else (storeFv fmt e.f.numMode one (v.get e.w.a n) (v.get (e.w.a + 1) n)).pat
    let s := s.clearCovered (act.map fun x => (spAddr e.core e.part e.idx + e.spOffset x, fmt.size))
    .ok (act.foldl (fun s x => s.physWrite (spAddr e.core e.part e.idx + e.spOffset x) (leBytes fmt.size (pat x.2.2))) s)

/-- A tensor store; one whose scale waits for the measurement is kept (R281). -/
def State.vstTensor (s : State) (e : VEnv) (ti : Nat) (d : TDesc) : Except OpErr State :=
  let v := s.vecRegs e.c
  let act := (e.active v).filter fun x => decide (e.elem x < d.elems)
  let waits : Bool := match kvGet ti e.v.shist with | some (none, _) => true | _ => false
  let amax := act.foldl (fun m x => max32 m (abs32 (v.get e.w.a x.2.2).v)) 0#32
  let s := if d.shist != 0 && d.format.isFp8 then
      s.vecDo e.c e.i fun g => { g with shist := kvSet ti ((kvGetD ti g.shist (none, 0#32)).1, max32 (kvGetD ti g.shist (none, 0#32)).2 amax) g.shist }
    else s
  if waits then
    .ok (s.vecDo e.c e.i fun g =>
      { g with deferred := kvSet ti (kvGetD ti g.deferred [] ++ act.map fun x => (e.elem x, v.get e.w.a x.2.2)) g.deferred })
  else wrAll (fun s x => s.storeElem e.c e.i e.f.numMode d ti (e.elem x) (v.get e.w.a x.2.2) (v.get (e.w.a + 1) x.2.2))
    ((s.vecKeep e.c e.i (act.map fun x => d.elemRange (e.elem x))).coverClear e.c (act.map fun x => d.elemRange (e.elem x))) act

/-- VST (R96, R118): a sector of a tensor that it writes in part is read first (R188). -/
def execVst (l : VLoc) (w : VWord) (errs : List SectorErr) (s : State) : Host.Outcome State Fault Refusal :=
  done <|
    match s.vecEnv l 0x29 w with
    | none => s
    | some e =>
      if !w.tensor then s.vecGuard e l.parity fun s => s.opTry e.c e.i (s.vstScratch e) fun s => s.vecAdvance e
      else
        match e.p.tenIdx (w.imm % 2 ^ 20) with
        | none => s.vecGuard e l.parity fun s => s.vecAdvance e
        | some d =>
          let rs := ((e.active (s.vecRegs e.c)).filter fun x => decide (e.elem x < d.elems)).map fun x => d.elemRange (e.elem x)
          let s := s.recoverPartial e.c (s.physSpans e.c rs) errs
          if s.rebuildDue (s.physSpans e.c rs) || !s.mayStore e.core then s
          else s.vecGuard e l.parity fun s => s.opTry e.c e.i (s.vstTensor e (w.imm % 2 ^ 20) d) fun s => s.vecAdvance e

/-- VLDA (R96, R174, R175): accumulator entries with their flags, from the core window; beyond the partition it faults. -/
def execVlda (l : VLoc) (w : VWord) (s : State) : Host.Outcome State Fault Refusal :=
  s.vecStep l 0x2A w fun e s =>
    let act := e.active (s.vecRegs e.c)
    let ent (x : Nat × Nat × Nat) : Nat := bits w.imm 0 16 + 16 * (bits w.imm 16 9 * e.t.iter + x.1) + x.2.1
    match act.find? fun x => decide (partEnt e.part ≤ ent x) with
    | some x => .error (.fault ⟨ent x, 2, 2⟩)
    | none =>
      .ok (s.setRegs e.c (act.foldl (fun u x =>
        let n := ent x
        let v := BitVec.ofNat 32 (leNat (s.physRead (accAddr e.core e.part e.idx + 4 * n) 4))
        let b := s.byteAt (accFlagAddr e.core e.part e.idx + n / 2)
        u.put w.d x.2.2 ⟨v, if n % 2 = 0 then b.setWidth 4 else (b >>> 4).setWidth 4, isNan32 v⟩) (s.vecRegs e.c)))

/-! ## Reductions (R97, R98, R116) -/

/-- The fixed order of R97: 64 virtual lanes by ascending element index, then the tree. -/
def treeReduce {α : Type} (op : α → α → α) (ident : α) (xs : List (Nat × α)) : α :=
  let acc := (List.range 64).map fun v => (xs.filter fun x => x.1 % 64 == v).foldl (fun a x => op a x.2) ident
  let fin := [32, 16, 8, 4, 2, 1].foldl (fun acc w => (List.range w).map fun v => op (acc.getD v ident) (acc.getD (v + w) ident)) acc
  fin.getD 0 ident

/-- One FP32 addition inside a reduction: its own overflow and flush, no INFIN of intermediate values. -/
def redAdd (flush : Bool) (a b : Entry) : Entry :=
  let r := roundTo ffFp32 flush (fvAdd (fv32 a.v) (fv32 b.v))
  { v := w32 r.v, fl := a.fl ||| b.fl ||| (if r.ovf then flOVF else 0#4) ||| (if r.flush then flFLUSH else 0#4)
      ||| (if r.v.isNan then flINV else 0#4),
    nin := if isNan32 a.v then a.nin else if isNan32 b.v then b.nin else false }

/-- An element as a reduction reads it: flushed under the mode, with INFIN for an infinity (R92). -/
def redIn (flush : Bool) (a : Entry) : Entry :=
  let x := flushIn flush a.v
  ⟨x.1, a.fl ||| (if x.2 then flFLUSH else 0#4) ||| (if isInf32 a.v then flINFIN else 0#4), a.nin⟩

/-- The flags of a PF32 reduction's hi (R92, R99). -/
def pfRedFlags (o : BitVec 4) (infin : Bool) (hi : W32) : BitVec 4 :=
  o ||| (if infin then flINFIN else 0#4) ||| (if isNan32 hi then flINV else 0#4) ||| (if isInf32 hi && !infin then flOVF else 0#4)

/-- A picked extreme value with the elements' flags. -/
def redPick (xs : List (Nat × Entry)) (w : W32) : Entry :=
  let o := xs.foldl (fun f x => f ||| x.2.fl) 0#4
  { v := w, fl := o ||| (if isNan32 w then flINV else 0#4), nin := isNan32 w && xs.any fun x => isNan32 x.2.v && x.2.nin }

/-- argmax and argmin: first in the order of R31, ties to the lower index, any NaN before every number. -/
def argPick (low : Bool) : Option (Nat × W32) → Nat × Entry → Option (Nat × W32)
  | none, x => some (x.1, x.2.v)
  | some b, x =>
    if isNan32 b.2 then some b
    else if isNan32 x.2.v then some (x.1, x.2.v)
    else if (if low then decide (ordKey x.2.v < ordKey b.2) else decide (ordKey b.2 < ordKey x.2.v)) then some (x.1, x.2.v)
    else some b

/-- VRED's results over the active elements, with the entry for D + 1 where the operation has one (R97, R98). The identity of an empty max or min
carries no flag, the infinity of an empty argmax or argmin INFIN (log 121). -/
def vredOf (op : Nat) (flush : Bool) (raw : List (Nat × Entry)) : List Entry :=
  let xs := raw.map fun x => (x.1, redIn flush x.2)
  let o := raw.foldl (fun f x => f ||| x.2.fl) 0#4
  let infin := raw.any fun x => isInf32 x.2.v
  let pf (ys : List (Nat × PF)) : List Entry :=
    let r := treeReduce pfAdd pfZero ys
    let fl := pfRedFlags o infin r.hi
    [⟨r.hi, fl, isNan32 r.hi && raw.any fun x => isNan32 x.2.v && x.2.nin⟩, ⟨r.lo, fl, false⟩]
  match op with
  | 0 => [treeReduce (redAdd flush) Entry.zero xs]
  | 1 => pf (raw.map fun x => (x.1, pfOf x.2))
  | 2 => pf (raw.map fun x => (x.1, twoProd x.2 x.2))
  | 3 => [redPick xs (xs.foldl (fun m x => max32 m x.2.v) (inf32 true))]
  | 4 => [redPick xs (xs.foldl (fun m x => min32 m x.2.v) (inf32 false))]
  | 5 => [redPick xs (xs.foldl (fun m x => max32 m (abs32 x.2.v)) 0#32)]
  | _ =>
    match xs.foldl (argPick (op == 7)) none with
    | some b => [redPick xs b.2, intEnt b.1]
    | none => [⟨inf32 (op == 6), flINFIN, false⟩, intEnt 0xFFFFFFFF]

/-- The elements that a collecting word takes in this iteration: index and the entries of A and B. -/
def VEnv.take (e : VEnv) (v : VecRegs) : List (Nat × Entry × Entry) :=
  (e.active v).map fun x => (e.elem x, v.get e.w.a x.2.2, v.get e.w.b x.2.2)

/-- Collect this iteration's elements; at the last iteration hand over all of them. -/
def State.collect (s : State) (e : VEnv) (out : List (Nat × Entry × Entry) → State → State) : State :=
  let all := kvGetD e.wi e.v.taken [] ++ e.take (s.vecRegs e.c)
  if e.last then out all (s.vecDo e.c e.i fun v => { v with taken := kvDel e.wi v.taken })
  else s.vecDo e.c e.i fun v => { v with taken := kvSet e.wi all v.taken }

/-- Write results into lane 0 of D, D + 1. -/
def State.putLane0 (s : State) (e : VEnv) (l : List Entry) : State :=
  s.setRegs e.c ((enumFrom 0 l).foldl (fun u x => e.putAt u (e.w.d + x.1) 0 x.2) (s.vecRegs e.c))

/-- VRED (R96 to R98). -/
def execVred (l : VLoc) (w : VWord) (s : State) : Host.Outcome State Fault Refusal :=
  s.vecStep l 0x30 w fun e s =>
    .ok (s.collect e fun all s => s.putLane0 e (vredOf (w.imm % 16) e.flush (all.map fun x => (x.1, x.2.1))))

/-- A count as an FP32 entry. -/
def natEnt (n : Nat) : Entry := ⟨w32 (roundTo ffFp32 false (fvInt n)).v, 0#4, false⟩

/-- The variance step (R116): mean, variance, whether it clamped. -/
def varianceOf (flush : Bool) (ddof : Nat) (raw : List (Nat × Entry)) : Entry × Entry × Bool :=
  match raw with
  | [] => (⟨nan32, flINV, false⟩, ⟨nan32, flINV, false⟩, false)
  | (_, c) :: _ =>
    let n := raw.length
    let o := raw.foldl (fun f x => f ||| x.2.fl) 0#4
    let infin := raw.any fun x => isInf32 x.2.v
    let nin := raw.any fun x => isNan32 x.2.v && x.2.nin
    let ds := raw.map fun x => (x.1, eSub flush x.2 c)
    let s1 := treeReduce pfAdd pfZero (ds.map fun x => (x.1, pfOf x.2))
    let s2 := treeReduce pfAdd pfZero (ds.map fun x => (x.1, twoProd x.2 x.2))
    let rn := sfuFn 4 flush (natEnt n)
    let mean := eFma flush s1.entHi rn c
    let nn := pfOf (natEnt n)
    let t := pfSub (pfMul s2 nn) (pfMul s1 s1)
    let clamp := fvCmp (fv32 t.hi) fvZero = some .lt
    let th : Entry := if clamp then Entry.zero else t.entHi
    let var := if n = ddof then ⟨nan32, flINV, false⟩
      else eMul flush (eMul flush th rn) (sfuFn 4 flush (natEnt (n - ddof)))
    let fin (x : Entry) : Entry :=
      { v := x.v,
        fl := o ||| (x.fl &&& flFLUSH) ||| (if infin then flINFIN else 0#4) ||| (if isNan32 x.v then flINV else 0#4)
          ||| (if isInf32 x.v && !infin then flOVF else 0#4),
        nin := isNan32 x.v && nin }
    (fin mean, fin var, clamp)

/-- VVAR (R116, R117). -/
def execVvar (l : VLoc) (w : VWord) (s : State) : Host.Outcome State Fault Refusal :=
  s.vecStep l 0x50 w fun e s =>
    .ok (s.collect e fun all s =>
      let r := varianceOf e.flush e.f.ddof (all.map fun x => (x.1, x.2.1))
      (s.putLane0 e [r.1, r.2.1]).vecDo e.c e.i fun v => { v with varClamp := v.varClamp + b2n r.2.2 })

/-! ## Sorting (R100, R101) -/

/-- The order of keys (R100): FP32 values in the order of R31, or 32-bit unsigned integers. -/
def sortKeyOf (int : Bool) (w : W32) : Int := if int then w.toNat else ordKey w

/-- Are a word's keys integers? The spec names no field that says so; the model takes `VI_FMT` = 6, the code of a 32-bit integer (log 111). -/
def intKeys (w : VWord) : Bool := w.fmt = 6

/-- Does a pair come strictly before another by its key? -/
def sortsBefore (int desc : Bool) (a b : Entry) : Bool :=
  if desc then decide (sortKeyOf int b.v < sortKeyOf int a.v) else decide (sortKeyOf int a.v < sortKeyOf int b.v)

/-- Insert behind those that do not come after it: equal keys keep their order. -/
def insPair (int desc : Bool) (a : Entry × Entry) : List (Entry × Entry) → List (Entry × Entry)
  | [] => [a]
  | b :: t => if sortsBefore int desc a.1 b.1 then a :: b :: t else b :: insPair int desc a t

/-- Sort pairs, equal keys in ascending element index. -/
def sortPairs (int desc : Bool) (l : List (Entry × Entry)) : List (Entry × Entry) := l.foldl (fun r a => insPair int desc a r) []

/-- Write pairs into the active lanes in order, keys from register `d`. -/
def putPairs (d : Nat) (v : VecRegs) (xs : List ((Nat × Nat × Nat) × (Entry × Entry))) : VecRegs :=
  xs.foldl (fun u x => (u.put d x.1.2.2 x.2.1).put (d + 1) x.1.2.2 x.2.2) v

/-- VSORT (R96, R101): the active pairs of this iteration, sorted over the active lanes. The spec tells of 64 pairs in 64 lanes; with fewer
active lanes or lane groups the model sorts what there is (log 111). -/
def execVsort (l : VLoc) (w : VWord) (s : State) : Host.Outcome State Fault Refusal :=
  s.vecStep l 0x38 w fun e s =>
    let v := s.vecRegs e.c
    .ok (s.setRegs e.c (putPairs w.d v (List.zip (e.active v) (sortPairs (intKeys w) (w.imm % 2 == 1) ((e.take v).map Prod.snd)))))

/-- Is a run sorted in a direction? -/
def sortedRun (int desc : Bool) : List (Entry × Entry) → Bool
  | a :: b :: t => !sortsBefore int desc b.1 a.1 && sortedRun int desc (b :: t)
  | _ => true

/-- Free entries: what a merge of runs that are not sorted gives. -/
def freshEnts : Nat → State → List (Entry × Entry) × State
  | 0, s => ([], s)
  | n + 1, s =>
    let a := s.fresh
    let b := a.2.fresh
    let t := freshEnts n b.2
    ((⟨a.1.setWidth 32, (a.1 >>> 32).setWidth 4, false⟩, ⟨b.1.setWidth 32, (b.1 >>> 32).setWidth 4, false⟩) :: t.1, t.2)

/-- VMERGE (R96, R101): two sorted runs into one, of equal keys the first run's pair first, which the spec leaves open (log 111); runs that are
not sorted give free values (log 25). -/
def execVmerge (l : VLoc) (w : VWord) (s : State) : Host.Outcome State Fault Refusal :=
  s.vecStep l 0x39 w fun e s =>
    let v := s.vecRegs e.c
    let act := e.active v
    let desc := w.imm % 2 == 1
    let run (r : Nat) := act.map fun x => (v.get r x.2.2, v.get (r + 1) x.2.2)
    let r := if sortedRun (intKeys w) desc (run w.a) && sortedRun (intKeys w) desc (run w.b) then (sortPairs (intKeys w) desc (run w.a ++ run w.b), s)
      else freshEnts (2 * act.length) s
    .ok (r.2.setRegs e.c (putPairs (w.d + 2) (putPairs w.d v (List.zip act r.1)) (List.zip act (r.1.drop act.length))))

/-- VTOPK (R96, R101): the k largest of all iterations, descending, into lanes 0 to k - 1. -/
def execVtopk (l : VLoc) (w : VWord) (s : State) : Host.Outcome State Fault Refusal :=
  s.vecStep l 0x3A w fun e s =>
    .ok (s.collect e fun all s =>
      let k := w.imm % 64 + 1
      let top := (sortPairs (intKeys w) true (all.map Prod.snd)).take k
      let fill := top ++ List.replicate (k - top.length) (⟨inf32 true, flINFIN, false⟩, intEnt 0xFFFFFFFF)
      s.setRegs e.c ((enumFrom 0 fill).foldl (fun u x => e.putAt (e.putAt u w.d x.1 x.2.1) (w.d + 1) x.1 x.2.2) (s.vecRegs e.c)))

/-! ## KCG-64 (R298 to R300) -/

/-- One round. -/
def kcgRound (k : Nat → W32) (v : W32 × W32 × W32 × W32) (r : Nat) : W32 × W32 × W32 × W32 :=
  let v0 := v.1 + (v.2.1 ^^^ k (r % 4)); let v3 := (v.2.2.2 ^^^ v0).rotateLeft 13
  let v2 := v.2.2.1 + v3;                let v1 := (v.2.1 ^^^ v2).rotateLeft 9
  let v0 := v0 + v1 + BitVec.ofNat 32 r; let v3 := (v3 ^^^ v0).rotateLeft 11
  let v2 := v2 + (v3 ^^^ k ((r + 2) % 4)); let v1 := (v1 ^^^ v2).rotateLeft 5
  (v0, v1, v2, v3)

/-- kcg64: seed, step, stream, element index, draw. -/
def kcg64 (seed : W64) (step stream x d : Nat) : W64 :=
  let k (i : Nat) : W32 := match i with
    | 0 => seed.setWidth 32
    | 1 => (seed >>> 32).setWidth 32
    | 2 => BitVec.ofNat 32 stream
    | _ => 0x5F3AC96D#32
  let v := (List.range 8).foldl (kcgRound k)
    (BitVec.ofNat 32 x, BitVec.ofNat 32 (d % 2 ^ 16 * 2 ^ 16 + bits x 32 16), BitVec.ofNat 32 step, BitVec.ofNat 32 (step / 2 ^ 32))
  (v.2.1 ^^^ v.2.2.2) ++ (v.1 ^^^ v.2.2.1)

/-- VKCG's result for one element (R300). -/
def kcgEnt (kind dropP32 : Nat) (scale : W32) (flush : Bool) (out : W64) (a : Entry) : Entry :=
  match kind with
  | 0 => ⟨w32 (.fin false (bits out.toNat 40 24) (-24)), 0#4, false⟩
  | 1 => if bits out.toNat 32 32 < dropP32 then ⟨0#32, a.fl, false⟩ else eMul flush a ⟨scale, 0#4, isNan32 scale⟩
  | _ => intEnt (bits out.toNat 0 32)

/-- The index X of an element of the tensor that VKCG names (R299): over the whole sequence for a context-parallel slice. -/
def State.kcgIndex (s : State) (c : Nat) (d : Option TDesc) (el : Nat) : Nat :=
  match d, s.eddyOf c with
  | some d, some g => sliceIndex g.2.f d el
  | _, _ => el

/-- VKCG (R96, R298 to R300). -/
def execVkcg (l : VLoc) (w : VWord) (s : State) : Host.Outcome State Fault Refusal :=
  s.vecStep l 0x48 w fun e s =>
    let d := e.p.tenIdx (w.imm / 4 % 2 ^ 20)
    let u := (d.map TDesc.stream).getD 0
    .ok (s.laneWise e fun v x =>
      [kcgEnt (w.imm % 4) e.f.dropP32 e.f.dropScale e.flush
        (kcg64 e.r.seed e.r.step u (s.kcgIndex e.c d (e.elem x)) ((v.get w.c x.2.2).v.toNat % 65536)) (v.get w.a x.2.2)])

/-! ## The special function unit (R102 to R104, R110 to R113) -/

/-- The SFU of a core. -/
def State.sfuAt (s : State) (core : Nat) : Sfu := kvGetD core s.sfu { ptr := 0, reqs := [], granted := [] }
def State.sfuSet (s : State) (core : Nat) (f : Sfu) : State := { s with sfu := kvSet core f s.sfu }

/-- The lane groups of a stream that have active lanes. -/
def VEnv.sfuGroups (e : VEnv) (v : VecRegs) : List Nat :=
  (List.range e.f.groups).filter fun g => (e.active v).any fun x => x.1 == g

/-- VSFU (R96, R102): one request per lane group that has active lanes and no result yet; the stream waits for their results. -/
def execVsfu (l : VLoc) (w : VWord) (s : State) : Host.Outcome State Fault Refusal :=
  done <|
    match s.vecEnv l 0x40 w with
    | none => s
    | some e =>
      s.vecGuard e l.parity fun s =>
      let v := s.vecRegs e.c
      let gs := (e.sfuGroups v).filter fun g => !e.t.sfuDone.contains g
      if gs.isEmpty then s.vecAdvance e
      else
        let f := s.sfuAt e.core
        let req (g : Nat) : SfuReq :=
          let ls := ((e.active v).filter fun x => x.1 == g).map fun x => x.2.2
          { ctx := e.c, op := e.i, pos := 0, att := false, stream := e.st, group := e.st * e.f.groups + g, slot := w.imm % 64, d := w.d, lanes := ls,
            args := ls.map fun n => (v.get w.a n, v.get w.b n, v.get (w.b + 1) n) }
        (s.sfuSet e.core { f with reqs := f.reqs ++ gs.map req }).vecDo e.c e.i fun g =>
          { g with streams := g.streams.set e.st { e.t with word := e.wi, waitSfu := true } }

/-- The request that round-robin grants: the first pending at or after the pointer (R103). -/
def Sfu.pick (f : Sfu) : Option SfuReq :=
  ((List.range 4).map fun k => (f.ptr + k) % 4).findSome? fun g => f.reqs.find? fun r => r.group == g

/-- The micro-program in a plan slot. -/
def State.mpOf (s : State) (q : SfuReq) : Option MicroProg := if q.slot < 32 then none else kvGet (q.ctx * 64 + q.slot) s.mpStore

/-- Is the operation that a request belongs to in flush mode? -/
def State.sfuFlush (s : State) (q : SfuReq) : Bool := match s.vecOp q.ctx with | some (_, _, _, _, f, _) => modeFlush f.numMode | none => false

/-- The lanes of a granted request's micro-program; a NaN operand enters none (R109). -/
def sfuLanes (flush : Bool) (q : SfuReq) : List MpLane :=
  q.args.map fun a =>
    let l := MpLane.start flush (flushIn flush a.1.v).1
    if isNan32 a.1.v then { l with pc := 64 } else l

/-- A parity error in the vector registers that a granted request carries fails its VECTOR operation (R118); does it run again? -/
def State.grantFail (s : State) (core : Nat) (q : SfuReq) : State × Bool :=
  match s.vecOp q.ctx with
  | none => (s, false)
  | some (i, _, _, _, f, v) => if v.attempt ≥ 3 then (s, false) else (s.vecFail q.ctx core i f v, !(f.inplace == 1 || decide (v.attempt ≥ 2)))

/-- SFU_GRANT (R102, R103, R118): the SFU is free and grants; requests granted before may be in flight. A parity error in the micro-program
store reloads the program and leaves the request pending. -/
def execSfuGrant (core : Nat) (g : GrantIn) (s : State) : Host.Outcome State Fault Refusal :=
  done <|
    if !s.running then s
    else
      match (s.sfuAt core).pick with
      | none => s
      | some q =>
        if !g.storeOk then s.recompute q.ctx core 13
        else
          let r := if g.parity = .fail ∧ !q.att then s.grantFail core q else (s, false)
          if r.2 then r.1
          else
            let s := r.1
            let f := s.sfuAt core
            s.sfuSet core { ptr := (q.group + 1) % 4, reqs := f.reqs.erase q,
                            granted := f.granted ++ [⟨q, if (s.mpOf q).isSome then sfuLanes (s.sfuFlush q) q else []⟩] }

/-- A lane's results of a micro-program with the flags of R92. -/
def mpResults (flush : Bool) (results : Nat) (a : Entry) (l : MpLane) : List Entry :=
  (List.range results).map fun k =>
    if isNan32 a.v then sfuNan a
    else
      let e := l.outs.getD k Entry.zero
      { e with fl := e.fl ||| a.fl ||| (if isInf32 a.v then flINFIN else 0#4) ||| (if (flushIn flush a.v).2 then flFLUSH else 0#4) }

/-- Free results of a slot that holds no program (log 22). -/
def freshResult (n : Nat) (s : State) : List (List Entry) × State :=
  let r := freshEnts n s
  (r.1.map fun x => [x.1], r.2)

/-- What a granted request returns, lane by lane. -/
def State.sfuResults (s : State) (f : SfuRun) : List (List Entry) × State :=
  let q := f.req
  let fl := s.sfuFlush q
  if q.slot ≤ 10 then (q.args.map fun a => [sfuFn q.slot fl a.1], s)
  else if q.slot = 11 then (q.args.map fun a => let r := sfuRot fl a.1 a.2.1 a.2.2; [r.1, r.2], s)
  else
    match s.mpOf q with
    | some p => ((List.zip q.args f.lanes).map fun x => mpResults fl p.results x.1.1 x.2, s)
    | none => freshResult q.lanes.length s

/-- Has a granted micro-program run to its end? -/
def State.sfuRan (s : State) (f : SfuRun) : Bool :=
  match s.mpOf f.req with
  | some p => f.lanes.all fun l => decide (p.steps.length ≤ l.pc)
  | none => true

/-- A request's results are in its registers: the stream moves on when every active lane group has its result; a stream whose other
requests were withdrawn issues them again (R104). -/
def State.sfuReturn (s : State) (q : SfuReq) (left : List SfuReq) : State :=
  match s.vecOp q.ctx with
  | none => s
  | some (i, x, p, r, f, v) =>
    match v.streams[q.stream]? with
    | none => s
    | some t =>
      let g := q.group - q.stream * f.groups
      let t := { t with sfuDone := insNat g t.sfuDone, waitSfu := left.any fun o => o.ctx == q.ctx && o.stream == q.stream }
      let s := s.vecDo q.ctx i fun v => { v with streams := v.streams.set q.stream t }
      match nextWord f.words q.stream t.word, f.words[t.word]? with
      | some wi, some w =>
        let e : VEnv :=
          { c := q.ctx, i := i, core := 0, idx := 0, part := x.part, p := p, r := r, f := f, v := v, st := q.stream, t := t, wi := wi,
            w := { stream := q.stream, d := wordD w, a := wordA w, b := wordB w, c := wordC w, p := bits w.toNat 30 3, pall := bitOf w.toNat 33,
                   range := bitOf w.toNat 34, fmt := wordFmt w, tensor := bitOf w.toNat 38, imm := wordImm w } }
        if (e.sfuGroups (s.vecRegs q.ctx)).all t.sfuDone.contains then s.vecAdvance e else s
      | _, _ => s

/-- An attention unit has the exp2 results of a request (R124). -/
def State.attResult (s : State) (q : SfuReq) : State :=
  match kvGet (ckey q.ctx q.pos) s.att with
  | none => s
  | some w =>
    if w.unit = q.d then { s with att := kvSet (ckey q.ctx q.pos) { w with sfu := w.sfu.map fun l => l.filter fun k => !q.lanes.contains k } s.att } else s

/-- SFU_RESULT (R102, R104): the earliest granted request that is complete returns, and its results reach their registers. -/
def execSfuResult (core : Nat) (s : State) : Host.Outcome State Fault Refusal :=
  done <|
    let f := s.sfuAt core
    match f.granted.find? s.sfuRan with
    | none => s
    | some g =>
      if s.halted then s
      else
        let q := g.req
        let f := { f with granted := f.granted.erase g }
        if q.att then (s.sfuSet core f).attResult q
        else
          let r := s.sfuResults g
          let s := r.2.setRegs q.ctx ((List.zip q.lanes r.1).foldl (fun u x =>
            (enumFrom 0 x.2).foldl (fun u y => u.put (q.d + y.1) x.1 y.2) u) (r.2.vecRegs q.ctx))
          (s.sfuSet core f).sfuReturn q (f.reqs ++ f.granted.map SfuRun.req)

/-- A step word's 32 bits (R113). -/
def swPack (w : StepWord) (op : Nat) : Nat := op + w.d * 2 ^ 4 + w.a * 2 ^ 7 + w.b * 2 ^ 10 + w.c * 2 ^ 13 + w.imm * 2 ^ 16

/-- The earliest step that a lane of a run has still to execute. -/
def runPc (steps : Nat) (l : List MpLane) : Option Nat :=
  ((l.map MpLane.pc).filter fun k => decide (k < steps)).foldl (fun m k => some (match m with | none => k | some j => min j k)) none

/-- The step that a granted micro-program executes next, if it is this one: the program, the step's index and its word. -/
def State.mpDue (s : State) (w : Nat) (g : SfuRun) : Option (MicroProg × Nat × BitVec 32) :=
  (s.mpOf g.req).bind fun p => (runPc p.steps.length g.lanes).bind fun k =>
    (p.steps[k]?).bind fun word => if word.toNat = w then some (p, k, word) else none

/-- Let the first granted request whose turn it is execute a step. -/
def mpFirst (due : SfuRun → Option (MicroProg × Nat × BitVec 32)) (act : MicroProg → BitVec 32 → MpLane → MpLane) :
    List SfuRun → List SfuRun
  | [] => []
  | g :: t =>
    match due g with
    | none => g :: mpFirst due act t
    | some (p, k, word) =>
      { g with lanes := g.lanes.map fun l => if l.pc = k then { act p word l with pc := k + mpAdvance word l } else l } :: t

/-- One basic step of the earliest granted micro-program whose next step it is, on the lanes that stand at it (R111, R113). -/
def State.mpCommand (s : State) (core op : Nat) (w : StepWord) (act : MicroProg → BitVec 32 → MpLane → MpLane) :
    Host.Outcome State Fault Refusal :=
  done <|
    let f := s.sfuAt core
    if f.granted.isEmpty || s.halted then s else s.sfuSet core { f with granted := mpFirst (s.mpDue (swPack w op)) act f.granted }

def execMsSplite (core : Nat) (w : StepWord) (s : State) : Host.Outcome State Fault Refusal := s.mpCommand core 0 w fun _ x l => mpSplite x l
def execMsSpliti (core : Nat) (w : StepWord) (s : State) : Host.Outcome State Fault Refusal := s.mpCommand core 1 w fun _ x l => mpSpliti x l
def execMsSeg (core : Nat) (w : StepWord) (s : State) : Host.Outcome State Fault Refusal := s.mpCommand core 2 w mpSeg
def execMsHorner (core : Nat) (w : StepWord) (s : State) : Host.Outcome State Fault Refusal := s.mpCommand core 3 w mpHorner
def execMsFadd (core : Nat) (w : StepWord) (s : State) : Host.Outcome State Fault Refusal := s.mpCommand core 4 w fun _ x l => mpFadd x l
def execMsFmul (core : Nat) (w : StepWord) (s : State) : Host.Outcome State Fault Refusal := s.mpCommand core 5 w fun _ x l => mpFmul x l
def execMsFfma (core : Nat) (w : StepWord) (s : State) : Host.Outcome State Fault Refusal := s.mpCommand core 6 w fun _ x l => mpFfma x l
def execMsScale (core : Nat) (w : StepWord) (s : State) : Host.Outcome State Fault Refusal := s.mpCommand core 7 w fun _ x l => mpScale x l
def execMsCmp (core : Nat) (w : StepWord) (s : State) : Host.Outcome State Fault Refusal := s.mpCommand core 8 w fun _ x l => mpCmp x l
def execMsSel (core : Nat) (w : StepWord) (s : State) : Host.Outcome State Fault Refusal := s.mpCommand core 9 w fun _ x l => mpSel x l
def execMsSkip (core : Nat) (w : StepWord) (s : State) : Host.Outcome State Fault Refusal := s.mpCommand core 10 w fun _ _ l => l
def execMsClamp (core : Nat) (w : StepWord) (s : State) : Host.Outcome State Fault Refusal := s.mpCommand core 11 w mpClamp
def execMsSeamclamp (core : Nat) (w : StepWord) (s : State) : Host.Outcome State Fault Refusal := s.mpCommand core 12 w mpSeamclamp
def execMsCall (core : Nat) (w : StepWord) (s : State) : Host.Outcome State Fault Refusal := s.mpCommand core 13 w fun _ x l => mpCall x l
def execMsOut (core : Nat) (w : StepWord) (s : State) : Host.Outcome State Fault Refusal := s.mpCommand core 14 w fun _ x l => mpOut x l

end Sys2Proof.Machine
end

