-- ==== Sys2Proof/Machine/Circulation.lean ====
section
/-! DEFINITION. What an attention operation is made of: its units, positions and masks (05_attention R119 to R133), and the Eddy
ring's schedule (06_eddy_ring R153 to R161). -/
namespace Sys2Proof.Machine

/-! ## An operation in progress -/

/-- An attention operation in progress: context, index, plan, fields, progress, its Eddy group if keys circulate. -/
structure AEnv where
  c : Nat
  i : Nat
  p : Plan
  f : AttF
  g : AttProg
  eg : Option Eddy

/-- The attention operation of a context with this index. -/
def State.attOp (s : State) (c i : Nat) : Option AEnv :=
  match s.opOf c i with
  | some (_, p, _, .attention f, q) =>
    (match q.st, q.prog with
     | .begun, .att g => some ⟨c, i, p, f, g, if f.kvSrc = 1 then (s.eddyOf c).map Prod.snd else none⟩
     | _, _ => none)
  | _ => none

/-- Change an attention operation's progress. -/
def State.attDo (s : State) (c i : Nat) (f : AttProg → AttProg) : State :=
  s.opDo c i fun q => match q.prog with
    | .att g => { q with prog := .att (f g) }
    | _ => q

/-- Query heads of one key/value head. -/
def AttF.group (f : AttF) : Nat := f.qHeads / f.kvHeads

/-- Is the document mask selected (R129)? -/
def AttF.docs (f : AttF) : Bool := bitOf f.mask 2

/-! ## Positions (R129, R144, R153) -/

/-- The runs of positions that a member's slice covers. -/
def eddyRuns (g : EddyFields) (r : Nat) : List (Nat × Nat) :=
  if g.layout = 0 then [(eddyPos g r 0, eddyPos g r (g.slice - 1))]
  else [(eddyPos g r 0, eddyPos g r (g.slice / 2 - 1)), (eddyPos g r (g.slice / 2), eddyPos g r (g.slice - 1))]

/-- Depth of each node of a tree given by its parents (R144). -/
def treeDepths (l : List Nat) : List Nat := l.foldl (fun ds p => ds ++ [if p = 0xFF then 1 else nth ds p + 1]) []

/-- Is node `k` node `q` or one of its ancestors (R129)? -/
def isAncestor (tree : List Nat) (k : Nat) : Nat → Nat → Bool
  | 0, q => q == k
  | n + 1, q => q == k || (let p := tree.getD q 0xFF; p != 0xFF && isAncestor tree k n p)

/-- Position of query row `i`. -/
def AEnv.qPos (e : AEnv) (i : Nat) : Nat :=
  match e.eg with
  | some g => eddyPos g.f g.f.rank i
  | none =>
    if e.f.op = 2 then ((e.g.ring.map RingHdr.next).getD 0) + nth (treeDepths e.g.tree) i - 1 else e.f.qPos0 + i

/-! ## Masks (R129, R130) -/

/-- A pad token's document ID. -/
def noDoc : Nat := 0xFFFFFFFF

/-- A key of a block: its slot in the block, its index in the source, position, document ID, and its node if it is staged. -/
structure KeyRef where
  slot : Nat
  idx : Nat
  pos : Nat
  doc : Nat
  node : Option Nat
  deriving DecidableEq, Repr

/-- The causal and window masks on positions. -/
def AttF.sees (f : AttF) (pq pk : Nat) : Bool :=
  (!bitOf f.mask 0 || decide (pk ≤ pq))
    && (!bitOf f.mask 1 || (if bitOf f.mask 0 then decide (pq < pk + f.window) else decide (pq < pk + f.window ∧ pk < pq + f.window)))

/-- Is a key visible to a query row with this position, document and node (R129)? Staged keys pass only the tree mask (R145), where `MASK`
bit 3 selects it (log 120). -/
def AEnv.visible (e : AEnv) (pq dq node : Nat) (k : KeyRef) : Bool :=
  match k.node with
  | some n => !bitOf e.f.mask 3 || isAncestor e.g.tree n 64 node
  | none => e.f.sees pq k.pos && (!e.f.docs || (dq == k.doc && dq != noDoc))

/-- Least and greatest of a list. -/
def minMax : List Nat → Option (Nat × Nat)
  | [] => none
  | a :: t => match minMax t with
    | none => some (a, a)
    | some m => some (min a m.1, max a m.2)

/-- Can the masks on positions pass for some pair of a query in [a, b] and a key in [lo, hi] (R130)? -/
def AttF.boundsMeet (f : AttF) (a b lo hi : Nat) : Bool :=
  (!bitOf f.mask 0 || decide (lo ≤ b))
    && (!bitOf f.mask 1 || (decide (a < hi + f.window) && (bitOf f.mask 0 || decide (lo < b + f.window))))

/-- The bound test (R130): is the pair of blocks skipped? `docs`: the document IDs read clean, so they may skip it. -/
def AttF.skips (f : AttF) (docs : Bool) (qp qd : List Nat) (ks : List KeyRef) : Bool :=
  if ks.any (fun k => k.node.isSome) then false
  else
    match minMax qp, minMax (ks.map KeyRef.pos) with
    | some q, some k =>
      !f.boundsMeet q.1 q.2 k.1 k.2
        || (f.docs && docs && (match minMax (qd.filter (· != noDoc)), minMax ((ks.map KeyRef.doc).filter (· != noDoc)) with
            | some a, some b => decide (a.2 < b.1 ∨ b.2 < a.1)
            | _, _ => true))
    | _, _ => true

/-! ## Blocks in block order (R125, R143, R155) -/

/-- Where a block's keys lie: rows of the tensors from an index on, slots of the ring, the staging area, or the landed blocks of a
rotation from a local index on. -/
inductive KSrc where
  | mem (first : Nat)
  | ring (blk : Nat)
  | staging
  | landed (t first : Nat)
  deriving DecidableEq, Repr

/-- Number of `n`-key blocks. -/
def AEnv.blocks (e : AEnv) (n : Nat) : Nat :=
  match e.eg, e.g.ring with
  | some g, _ => g.f.size * (g.f.slice / n)
  | none, some r => r.w / n + (if e.f.op = 2 then 1 else 0)
  | none, none => ceilDiv e.f.kvLen n

/-- The source of block `b` in block order. -/
def AEnv.src (e : AEnv) (n b : Nat) : KSrc :=
  match e.eg, e.g.ring with
  | some g, _ =>
    let per := g.f.slice / n
    if b / per = 0 then .mem (n * b) else .landed (b / per) (n * (b % per))
  | none, some r => if b < r.w / n then .ring ((r.next % r.w / n + b) % (r.w / n)) else .staging
  | none, none => .mem (n * b)

/-- The 32-key blocks of part `r` in ascending order (R134, R155). -/
def AEnv.partBlocks (e : AEnv) (r : Nat) : List Nat :=
  let per := match e.eg with
    | some g => g.f.slice / 32
    | none => e.blocks 32
  (List.range (e.blocks 32)).filter fun b => (b % per) * e.f.dqParts / per == r

/-! ## Eddy blocks (R156, R157, R161) -/

/-- The rank that owns the slice of rotation `t` (R155). -/
def Eddy.owner (g : Eddy) (t : Nat) : Nat := (g.f.rank + g.f.size - t % g.f.size) % g.f.size

/-- Bytes of a block (R157). -/
def eddyBytes (kind d : Nat) (docs : Bool) : Nat :=
  64 + (if kind = 2 then 0 else 256 * d) + (if docs then 256 else 0) + (if kind = 1 ∨ kind = 2 then 576 * d else 0)

/-- The reach of block `u` of the slice that rank `o` owns (R161), by the masks on positions (log 34). -/
def Eddy.reach (g : Eddy) (f : AttF) (o u : Nat) : Nat :=
  let lo := eddyPos g.f o (64 * u)
  (List.range g.f.size).foldl (fun r h =>
    if (eddyRuns g.f ((o + h) % g.f.size)).any (fun q => f.boundsMeet q.1 q.2 lo (lo + 63)) then h else r) 0

/-- Does block `u` of rotation `t` land here: within its reach in forward, every travelling block in backward, the last time at its
owner (R161, R162)? -/
def Eddy.lands (g : Eddy) (f : AttF) (t u : Nat) : Bool :=
  let r := g.reach f (g.owner t) u
  decide (1 ≤ t) && (if f.back then decide (1 ≤ r ∧ t ≤ g.f.size) else decide (t ≤ r))

/-- Rotations that land. -/
def Eddy.lastRot (g : Eddy) (f : AttF) : Nat := if f.back then g.f.size else g.f.size - 1

/-- Blocks of 64 keys in a slice. -/
def Eddy.per (g : Eddy) : Nat := g.f.slice / 64

/-- Places of rotation `t` that land, as (u, head) in order (log 33). -/
def Eddy.places (g : Eddy) (f : AttF) (t : Nat) : List (Nat × Nat) :=
  ((List.range g.per).filter fun u => t == 0 || g.lands f t u).flatMap fun u => (List.range f.kvHeads).map fun h => (u, h)

/-- Virtual address of a landed block (R159). -/
def Eddy.blockAddr (g : Eddy) (f : AttF) (t u h : Nat) : Nat :=
  g.f.landBase + (t - 1) % g.f.slots * g.f.slotBytes
    + (u * f.kvHeads + h) * eddyBytes (if f.back then 1 else 0) f.headDim f.docs

/-- A landed block. -/
def Eddy.find (g : Eddy) (t u h : Nat) : Option EBlock := g.blocks.find? fun b => b.rot == t && b.loc == u && b.head == h

/-- Change a landed block. -/
def Eddy.setBlock (g : Eddy) (t u h : Nat) (f : EBlock → EBlock) : Eddy :=
  { g with blocks := g.blocks.map fun b => if b.rot == t && b.loc == u && b.head == h then f b else b }

/-- Change a context's Eddy group. -/
def State.eddyDo (s : State) (c : Nat) (f : Eddy → Eddy) : State :=
  { s with eddy := s.eddy.map fun e => if e.1 / 2 ^ 32 == c then (e.1, f e.2) else e }

/-! ## Landing slots (R159) -/

/-- Does a unit use the landed blocks of rotation `t`? -/
def AEnv.unitUses (e : AEnv) (g : Eddy) (un t : Nat) : Bool :=
  if t ≥ g.f.size then false
  else if e.f.back then (e.partBlocks (un % e.f.dqParts)).any fun b => b / (g.f.slice / 32) == t
  else
    let a := e.qPos (32 * (un % e.f.bq))
    let b := e.qPos (min (32 * (un % e.f.bq) + 31) (e.f.qLen - 1))
    (List.range g.per).any fun u =>
      let lo := eddyPos g.f (g.owner t) (64 * u)
      e.f.boundsMeet a b lo (lo + 63)

/-- Has a unit's work passed rotation `t`? -/
def AEnv.workPast (e : AEnv) (g : Eddy) (w : AttWork) (t : Nat) : Bool :=
  w.fin || (if e.f.back then
      decide (((e.partBlocks (w.unit % e.f.dqParts)).filter fun b => decide (b / (g.f.slice / 32) ≤ t)).length ≤ w.blk)
    else decide ((t + 1) * g.per ≤ w.blk))

/-- The units in hand: at positions and set aside. -/
def State.attWorks (s : State) (e : AEnv) : List AttWork :=
  (s.att.filter fun w => w.1 / 1024 == e.c && w.2.op == e.i).map Prod.snd ++ e.g.parked

/-- Has every local unit that uses rotation `t` applied it? -/
def State.rotApplied (s : State) (e : AEnv) (g : Eddy) (t : Nat) : Bool :=
  let ws := s.attWorks e
  (List.range e.f.units).all fun un =>
    e.g.commit.contains un || !e.unitUses g un t || ws.any fun w => w.unit == un && e.workPast g w t

/-- Free slots in order: a rotation's blocks have all landed, been forwarded or dropped, and been applied; `fuel` rotations. -/
def State.eddyFree (s : State) (e : AEnv) : Nat → Eddy → Eddy
  | 0, g => g
  | n + 1, g =>
    let t := g.freed + 1
    let done := (g.places e.f t).all fun x => match g.find t x.1 x.2 with | some b => b.sent && !b.asked | none => false
    if decide (t ≤ g.lastRot e.f) && done && s.rotApplied e g t then
      s.eddyFree e n { g with freed := t, blocks := g.blocks.filter fun b => b.rot != t }
    else g

/-- Is the circulation complete here: the own slice passed, every rotation's slot free again, every travelling gradient back (R155,
R163)? -/
def Eddy.complete (g : Eddy) (f : AttF) : Bool :=
  decide (g.per * f.kvHeads ≤ g.ownSent) && decide (g.lastRot f ≤ g.freed)

/-- The circulation ends, of operation `i` in a step: the next has the next number (R156), which stays at its largest value, since no counter wraps
(R325). -/
def Eddy.next (g : Eddy) (i step : Nat) : Eddy :=
  { g with circ := min (g.circ + 1) (2 ^ 32 - 1), op := none, blocks := [], ownSent := 0, granted := 0, freed := 0, prev := some (i, step) }

end Sys2Proof.Machine
end

