-- ==== Sys2Proof/Machine/Attention.lean ====
section
/-! DEFINITION. Block attention, the window ring and speculative verification (05_attention), and the claims and commits that matrix
and attention units share (R73, R76, R125). -/
namespace Sys2Proof.Machine

/-! ## Reading (R120, R129, R140, R141, R157) -/

/-- A row of elements: the stored bits. -/
def State.rdRow (s : State) (c : Nat) (d : TDesc) (idx : List Nat) (n : Nat) : Rd (List Nat) :=
  match s.rdBytes c (d.at (idx ++ [0])) (n * d.format.size) with
  | .error e => .error e
  | .ok r => .ok ((List.range n).map fun k => field r.1 (k * d.format.size) d.format.size, r.2)

/-- Exact values of a row as the mode reads them, and how many were flushed on the load (R36, R58). -/
def wide (ff : FloatFmt) (flush : Bool) (l : List Nat) : List FV × Nat :=
  let r := l.map (readFv ff flush)
  (r.map Prod.fst, (r.filter Prod.snd).length)

/-- A row of a tensor as exact values, subnormals read as zero or not, and the number so read. -/
def AEnv.rowAs (e : AEnv) (s : State) (flush : Bool) (desc : Nat) (idx : List Nat) : Rd (List FV × Nat) :=
  match e.p.ten desc with
  | none => .ok (([], 0), none)
  | some d =>
    match s.rdRow e.c d idx e.f.headDim with
    | .error x => .error x
    | .ok r => .ok (wide d.format.ff flush r.1, r.2)

/-- A row of a tensor as the mode reads it. -/
def AEnv.row (e : AEnv) (s : State) (desc : Nat) (idx : List Nat) : Rd (List FV × Nat) := e.rowAs s (modeFlush e.f.numMode) desc idx

/-- The document ID of an index of `DOC_DESC`; a pad token's at or beyond its extent (R129). -/
def AEnv.docAt (e : AEnv) (s : State) (k : Nat) : Rd Nat :=
  if !e.f.docs then .ok (0, none)
  else match e.p.ten e.f.docDesc with
    | none => .ok (noDoc, none)
    | some d => if d.dim 0 ≤ k then .ok (noDoc, none) else s.rdNat e.c (d.at [k]) 4

/-- The document index of query row `i`: its local index in an Eddy group, its position otherwise. -/
def AEnv.docIdx (e : AEnv) (i : Nat) : Nat := if e.eg.isSome then i else e.qPos i

/-- Planes of head `h` (R140): key, value, scale and tag planes, of the ring or of the staging area. -/
def RingHdr.planes (r : RingHdr) (staging : Bool) (h : Nat) : Nat × Nat × Nat × Nat :=
  let w := if staging then 64 else r.w
  let b := r.base + (if staging then r.heads * r.w * (2 * r.d + 8) else 0) + h * w * (2 * r.d + 8)
  (b, b + w * r.d, b + 2 * w * r.d, b + 2 * w * r.d + 4 * w)

/-- The keys of block `b` for head `h` in its source, with the first poisoned address among tags and document IDs; positions of
landed keys come from the schedule, their document IDs from the block. -/
def AEnv.keyRefs (e : AEnv) (s : State) (n b h : Nat) (docs : Bool) : Rd (List KeyRef) :=
  let doc (k : Nat) : Rd Nat := if docs then e.docAt s k else .ok (noDoc, none)
  let ref (slot idx pos node di : Nat) : Rd (Option KeyRef) :=
    match doc di with
    | .error x => .error x
    | .ok r => .ok (some ⟨slot, idx, pos, r.1, if node = 0 then none else some (node - 1)⟩, r.2)
  let r : Rd (List (Option KeyRef)) := match e.src n b with
    | .mem first => rdAll (fun k =>
        let pos := match e.eg with | some g => eddyPos g.f g.f.rank (first + k) | none => e.f.kvPos0 + first + k
        ref k (first + k) pos 0 (if e.eg.isSome then first + k else pos)) (List.range (min n (e.f.kvLen - first)))
    | .ring blk => (match e.g.ring with
        | none => .ok ([], none)
        | some r => rdAll (fun k =>
            match s.rdNat e.c ((r.planes false h).2.2.2 + 4 * (n * blk + k)) 4 with
            | .error x => .error x
            | .ok t =>
              if t.1 = noDoc then .ok (none, t.2)
              else match ref k (n * blk + k) t.1 0 t.1 with
                | .error x => .error x
                | .ok q => .ok (q.1, pFirst t.2 q.2)) (List.range n))
    | .staging => .ok ((List.range e.f.qLen).map fun k => some ⟨k, k, 0, noDoc, some k⟩, none)
    | .landed t first => (match e.eg with
        | none => .ok ([], none)
        | some g => rdAll (fun k =>
            let pos := eddyPos g.f (g.owner t) (first + k)
            if docs && e.f.docs then
              (match s.rdNat e.c (g.blockAddr e.f t (first / 64) h + 64 + 256 * e.f.headDim + 4 * ((first + k) % 64)) 4 with
               | .error x => .error x
               | .ok r => .ok (some ⟨k, first + k, pos, r.1, none⟩, r.2))
            else .ok (some ⟨k, first + k, pos, noDoc, none⟩, none)) (List.range n))
  match r with
  | .error x => .error x
  | .ok l => .ok (l.1.filterMap id, l.2)

/-- An FP8 row of a ring's planes widened (R141): the element as the mode reads it (R36), its exact product rounded once to BF16. -/
def widenRow (flush : Bool) (scale : Nat) (l : List Byte) : List FV × Nat :=
  let r := l.map fun q =>
    let x := readFv ffE4m3 flush q.toNat
    let y := roundTo ffBf16 flush (fvMul x.1 (fvOf ffBf16 scale))
    (y.v, x.2 || y.flush)
  (r.map Prod.fst, (r.filter Prod.snd).length)

/-- The key and value rows of a key of block `b`, with the elements flushed on their load. -/
def AEnv.keyRow (e : AEnv) (s : State) (n b h : Nat) (k : KeyRef) : Rd (List FV × List FV × Nat) :=
  let d := e.f.headDim
  let fl := modeFlush e.f.numMode
  let pair (a b : Rd (List FV × Nat)) : Rd (List FV × List FV × Nat) := match a, b with
    | .ok x, .ok y => .ok ((x.1.1, y.1.1, x.1.2 + y.1.2), pFirst x.2 y.2)
    | .error x, _ => .error x
    | .ok _, .error y => .error y
  let fromRing (r : RingHdr) (staging : Bool) : Rd (List FV × List FV × Nat) :=
    let q := r.planes staging h
    match s.rdNat e.c (q.2.2.1 + 4 * k.idx) 4 with
    | .error x => .error x
    | .ok sc =>
      let plane (base lo : Nat) : Rd (List FV × Nat) := match s.rdBytes e.c (base + k.idx * r.d) r.d with
        | .error x => .error x
        | .ok l => .ok (widenRow fl (bits sc.1 lo 16) l.1, pFirst l.2 sc.2)
      pair (plane q.1 0) (plane q.2.1 16)
  match e.src n b with
  | .mem _ => pair (e.row s e.f.kDesc [h, k.idx]) (e.row s e.f.vDesc [h, k.idx])
  | .ring _ => (match e.g.ring with | some r => fromRing r false | none => .ok (([], [], 0), none))
  | .staging => (match e.g.ring with | some r => fromRing r true | none => .ok (([], [], 0), none))
  | .landed t first => (match e.eg with
      | none => .ok (([], [], 0), none)
      | some g =>
        let a := g.blockAddr e.f t (first / 64) h + 64
        let plane (o : Nat) : Rd (List FV × Nat) := match s.rdBytes e.c (a + o + k.idx % 64 * 2 * d) (2 * d) with
          | .error x => .error x
          | .ok l => .ok (wide ffBf16 fl ((List.range d).map fun j => field l.1 (2 * j) 2), l.2)
        pair (plane 0) (plane (128 * d)))

/-- Where block `b` may be landed: its rotation, local block and whether it may be read now; true for every other source. -/
def AEnv.present (e : AEnv) (n b h : Nat) : Bool :=
  match e.src n b, e.eg with
  | .landed t first, some g => (match g.find t (first / 64) h with | some x => !x.asked && x.kind != 2 | none => false)
  | _, _ => true

/-- The landed block that block `b` is read from. -/
def AEnv.landedAt (e : AEnv) (n b : Nat) : Option (Nat × Nat) :=
  match e.src n b with
  | .landed t first => some (t, first / 64)
  | .mem _ => none
  | .ring _ => none
  | .staging => none

/-! ## Scores and rows (R122 to R128) -/

/-- Operand pairs of group `g` of a product over `d` columns. -/
def pairsAt (g : Nat) (a b : List FV) : List (FV × FV) := List.zip ((a.drop (32 * g)).take 32) ((b.drop (32 * g)).take 32)

/-- A product over columns in groups of 32, with the first group in which it became NaN (R122). -/
def rowDot (flush : Bool) (a b : List FV) : Entry × Option Nat :=
  (List.range (ceilDiv a.length 32)).foldl (fun x g =>
    let y := accAdd flush x.1 (groupSum ffBf16 ffBf16 flush (pairsAt g a b))
    (y, if isNan32 y.v && !isNan32 x.1.v then some g else x.2)) (Entry.zero, none)

/-- One datapath rounding to FP32: the pattern and whether it flushed (R123). -/
def dp (flush : Bool) (x : FV) : W32 × Bool := let r := roundTo ffFp32 flush x; (w32 r.v, r.flush)

/-- exp2 of a pattern by the SFU (R105), with whether it flushed. -/
def exp2Of (flush : Bool) (w : W32) : W32 × Bool :=
  let r := sfuFn 0 flush ⟨w, 0#4, false⟩
  (r.v, hasFl r.fl flFLUSH)

/-- A probability: BF16 of exp2(round(z - m)), exactly, and whether a rounding flushed (R123). -/
def probOf (flush : Bool) (z m : W32) : FV × Bool :=
  let t := dp flush (fvAdd (fv32 z) (fvNeg (fv32 m)))
  let x := exp2Of flush t.1
  let r := roundTo ffBf16 flush (fv32 x.1)
  (r.v, t.2 || x.2 || r.flush)

/-- The score multiplier as read (R36). -/
def AttF.mult (f : AttF) : FV := fv32 (flushIn (modeFlush f.numMode) f.scale2).1

/-- A scaled score (R123). -/
def AttF.scaled (f : AttF) (s : Entry) : W32 × Bool := dp (modeFlush f.numMode) (fvMul (fv32 s.v) f.mult)

/-- A fresh row (R126). -/
def Row.start (d : Nat) : Row :=
  { m := ⟨inf32 true, 0#4, false⟩, l := Entry.zero, o := List.replicate d Entry.zero, seen := false, invalid := false, flushed := false,
    lse := Entry.zero }

/-- A NaN entry. -/
def nanEnt (nin : Bool) : Entry := ⟨nan32, flINV, nin⟩

/-- An entry becomes NaN and keeps the flags it has (R54). -/
def Entry.toNan (nin : Bool) (x : Entry) : Entry := ⟨nan32, x.fl ||| flINV, nin⟩

/-- The datapath's mark in `CAP_KGROUP` and the first value group (R125). -/
def dpGroup : Nat := 0xFFFFFFFE
def valGroup : Nat := 0x80000000

/-- Rescale an output entry by a (R126): its own overflow, no INFIN of intermediate values (log 36). -/
def rescale (flush : Bool) (a : W32) (x : Entry) : Entry × Bool :=
  let v := fvMul (fv32 a) (fv32 x.v)
  let r := roundTo ffFp32 flush v
  (⟨w32 r.v, x.fl ||| (if r.ovf then flOVF else 0#4) ||| (if v.isNan then flINV else 0#4), x.nin⟩, r.flush)

/-- A key as a row meets it: its slot, key and value. -/
abbrev KeyVal := Nat × List FV × List FV

/-- attend(i, b) of R126 for one row over its visible keys; `cap` makes a candidate from kind, group and column. -/
def rowAttend (f : AttF) (cap : Nat → Nat → Nat → Capture) (q : List FV) (vis : List KeyVal) (row : Row) : Row × Option Capture :=
  let fl := modeFlush f.numMode
  if vis.isEmpty then (row, none)
  else
    let sc := vis.map fun k => (k.1, rowDot fl q k.2.1)
    let zs := sc.map fun x => f.scaled x.2.1
    let row := { row with seen := true, flushed := row.flushed || zs.any Prod.snd }
    if row.invalid then (row, none)
    else
      let infPos (w : W32) : Bool := isNan32 w || w == inf32 false
      let c1 := sc.foldl (fun m x => match x.2.2 with
        | some g => capMin m (some (cap (if x.2.1.nin then 1 else 0) g x.1))
        | none => m) none
      let c2 := (List.zip sc zs).foldl (fun m x =>
        if infPos x.2.1 && !isNan32 x.1.2.1.v then capMin m (some (cap 0 dpGroup x.1.1)) else m) c1
      if zs.any fun z => infPos z.1 then
        let nin := sc.any fun x => x.2.1.nin
        ({ row with invalid := true, m := row.m.toNan nin, l := row.l.toNan nin, o := row.o.map (Entry.toNan nin) }, c2)
      else
        let mn := zs.foldl (fun m z => max32 m z.1) row.m.v
        if mn = inf32 true then (row, none)
        else
          let t := dp fl (fvAdd (fv32 row.m.v) (fvNeg (fv32 mn)))
          let a := exp2Of fl t.1
          let gone := (fv32 row.m.v).isFin && a.1 == 0#32
          let ps := zs.map fun z => probOf fl z.1 mn
          let lb := ps.foldl (fun x p => let y := dp fl (fvAdd (fv32 x.1) p.1); (y.1, x.2 || y.2)) ((0#32, false) : W32 × Bool)
          let os := row.o.map (rescale fl a.1)
          let al := rescale fl a.1 row.l
          let l2 := roundTo ffFp32 fl (fvAdd (fv32 al.1.v) (fv32 lb.1))
          let l : Entry := ⟨w32 l2.v, al.1.fl ||| (if l2.ovf then flOVF else 0#4) ||| (if l2.v.isNan then flINV else 0#4), false⟩
          let kvp := List.zip vis ps
          let add (x : Entry) (col g : Nat) : Entry :=
            accAdd fl x (groupSum ffBf16 ffBf16 fl ((kvp.filter fun k => k.1.1 / 32 == g).map fun k => (k.2.1, k.1.2.2.getD col fvZero)))
          let cols := enumFrom 0 (List.zip row.o (os.map Prod.fst))
          let news := cols.map fun x => let y := add x.2.2 x.1 0; (y, add y x.1 1)
          let mk (old new : Entry) (kind g col : Nat) (m : Option Capture) : Option Capture :=
            if isNan32 new.v && !isNan32 old.v then capMin m (some (cap kind g col)) else m
          let kindOf (x : Entry) : Nat := if x.nin then 1 else 0
          let c3 := (List.zip cols news).foldl (fun m x =>
            mk x.2.1 x.2.2 (kindOf x.2.2) (valGroup + 1) x.1.1
              (mk x.1.2.2 x.2.1 (kindOf x.2.1) valGroup x.1.1 (mk x.1.2.1 x.1.2.2 0 dpGroup x.1.1 m))) c2
          let flushed := gone || t.2 || a.2 || lb.2 || al.2 || l2.flush || ps.any Prod.snd || os.any Prod.snd
          ({ row with
              m := ⟨mn, row.m.fl, false⟩, l := l, o := news.map Prod.snd, flushed := row.flushed || flushed }, c3)

/-- A row's output element with the row's FLUSH (R123, R127). -/
def Row.mark (r : Row) (x : Entry) : Entry := if r.flushed then { x with fl := x.fl ||| flFLUSH } else x

/-- finish(i) of R128. -/
def rowFinish (f : AttF) (cap : Nat → Capture) (row : Row) : Row × Option Capture :=
  let fl := modeFlush f.numMode
  if row.invalid then ({ row with o := row.o.map row.mark, lse := nanEnt false }, none)
  else if !row.seen then ({ row with o := row.o.map fun _ => Entry.zero, lse := ⟨inf32 true, flINFIN, false⟩ }, none)
  else if row.m.v = inf32 true then
    ({ row with o := row.o.map fun x => row.mark (x.toNan false), lse := nanEnt false }, some (cap 0))
  else
    let r := sfuFn 4 fl ⟨row.l.v, 0#4, false⟩
    let g := sfuFn 2 fl ⟨row.l.v, 0#4, false⟩
    let outs := row.o.map fun x =>
      let v := fvMul (fv32 x.v) (fv32 r.v)
      let q := roundTo ffFp32 fl v
      row.mark ⟨w32 q.v, x.fl ||| (r.fl &&& flFLUSH) ||| (if q.ovf then flOVF else 0#4) ||| (if v.isNan then flINV else 0#4)
        ||| (if q.flush then flFLUSH else 0#4), x.nin⟩
    let bad := (enumFrom 0 (List.zip row.o outs)).filter fun x => isNan32 x.2.2.v && !isNan32 x.2.1.v
    let z := fvAdd (fv32 row.m.v) (fv32 g.v)
    let y := roundTo ffFp32 fl z
    let lse : Entry := ⟨w32 y.v, (row.l.fl &&& (flOVF ||| flINV)) ||| (if y.ovf then flOVF else 0#4) ||| (if y.v.isNan then flINV else 0#4)
      ||| (if y.flush then flFLUSH else 0#4), false⟩
    ({ row with o := outs, lse := lse }, bad.foldl (fun m x => capMin m (some (cap x.1))) none)

/-! ## Units -/

/-- A position's attention unit. -/
def State.attWork (s : State) (c pos : Nat) : Option (AttWork × AEnv × Nat) :=
  match kvGet (ckey c pos) s.att, s.coreOf c pos with
  | some w, some core => (s.attOp c w.op).map fun e => (w, e, core)
  | _, _ => none

/-- A unit's accumulator entries with the entry they begin at: rows of d rounded up to 32 entries, the maxima and sums of the 32 rows behind
them; in backward the resident block's key gradients, then its value gradients (log 116). -/
def AttWork.entries (w : AttWork) : List (Nat × List Entry) :=
  let pad (l : List Entry) : List Entry := l ++ List.replicate (alignUp l.length 32 - l.length) Entry.zero
  let n := match w.rows with | r :: _ => alignUp r.o.length 32 | [] => 0
  [(0, w.rows.flatMap fun r => pad r.o), (32 * n, w.rows.map Row.m), (32 * n + 32, w.rows.map Row.l), (0, w.dk), (alignUp w.dk.length 1024, w.dv)]

/-- Store a position's unit. -/
def State.attSet (s : State) (c pos : Nat) (w : AttWork) : State :=
  let s := w.entries.foldl (fun s x => s.showEntries c pos x.1 x.2) s
  { s with att := kvSet (ckey c pos) w s.att }

/-- A unit as it starts. -/
def AttWork.start (op unit rows d : Nat) : AttWork :=
  { op := op, unit := unit, rows := List.replicate rows (Row.start d), blk := 0, qb := 0, dk := [], dv := [], loaded := false, hit := false,
    attempt := 0, num := NumStat.zero, poisoned := false, fin := false, sfu := none }

/-- The exp2 requests of a step with `n` probabilities (R102, R124): 16 operands a request, dealt in turn to the four lane groups, which its
stream owns; the step is computed once their results are back, at once where it has none. A request's number in its step stands in its
lanes. -/
def State.attSfu (s : State) (c pos core n : Nat) (w : AttWork) (act : AttWork → State) : State :=
  match w.sfu with
  | some [] => act { w with sfu := none }
  | some (_ :: _) => s
  | none =>
    if n = 0 then act w
    else
      let f := s.sfuAt core
      let req (k : Nat) : SfuReq :=
        { ctx := c, op := w.op, pos := pos, att := true, stream := 0, group := k % 4, slot := 0, d := w.unit, lanes := [k], args := [] }
      let l := List.range (ceilDiv n 16)
      (s.sfuSet core { f with reqs := f.reqs ++ l.map req }).attSet c pos { w with sfu := some l }

/-- Rows of a query block of `n`. -/
def AttF.rowsIn (f : AttF) (n qb : Nat) : List Nat := (List.range (min n (f.qLen - n * qb))).map (· + n * qb)

/-- The unit has finished poisoned (R89, R187). -/
def AttWork.spoil (w : AttWork) : AttWork := { w with poisoned := true, fin := true }

/-- A failed check re-runs the step; the third failure poisons the unit (R138). -/
def State.attFail (s : State) (c pos core blk : Nat) (w : AttWork) : State :=
  if w.attempt ≥ 2 then
    let s := s.post 0x0302 c (leBytes 2 core ++ zeros 2 ++ leBytes 4 w.op ++ leBytes 4 w.unit ++ leBytes 4 blk)
    (((s.detect core 1).unrecovered c).opSpoil c w.op).attSet c pos w.spoil
  else (s.recompute c core 8).attSet c pos { w with attempt := w.attempt + 1 }

/-- Ask a block's owner for it again (R166), with the sectors whose errors call for it: a control message on the reverse direction of an in-port that is up. -/
def State.askAgain (s : State) (e : AEnv) (g : Eddy) (t u h : Nat) (bad : List Nat) : State :=
  let s := s.eddyDo e.c fun g => g.setBlock t u h fun b => { b with asked := true, bad := bad }
  match s.sharePort (g.f.portIn.take g.f.ports) u with
  | some p => s.sendUnit p 0 e.c g.f.tag (ctlMsg msgResend (leBytes 2 (g.owner t) ++ leBytes 2 h ++ leBytes 4 u ++ leBytes 2 g.f.rank ++ leBytes 4 g.circ))
  | none => s

/-- Is a landed block poisoned where the step reads it? -/
def State.landedBad (s : State) (e : AEnv) (g : Eddy) (t u h : Nat) : Bool :=
  match s.rdBytes e.c (g.blockAddr e.f t u h) (eddyBytes 0 e.f.headDim e.f.docs) with
  | .ok r => r.2.isSome
  | .error _ => false

/-- Ranges of rows of a tensor of head `h`. -/
def AEnv.rowRanges (e : AEnv) (desc h : Nat) (rows : List Nat) : List (Nat × Nat) :=
  match e.p.ten desc with
  | some d => rows.map fun i => (d.at [h, i, 0], e.f.headDim * d.format.size)
  | none => []

/-- Ranges of the document IDs of query rows. -/
def AEnv.docRanges (e : AEnv) (rows : List Nat) : List (Nat × Nat) :=
  match e.p.ten e.f.docDesc with
  | some d => if e.f.docs then rows.map fun i => (d.at [e.docIdx i], 4) else []
  | none => []

/-- The ranges a step reads of key block `b`. -/
def AEnv.keyRanges (e : AEnv) (n b h : Nat) : List (Nat × Nat) :=
  match e.src n b with
  | .mem first => [e.f.kDesc, e.f.vDesc].flatMap fun o => e.rowRanges o h ((List.range (min n (e.f.kvLen - first))).map (· + first))
  | .ring blk => (match e.g.ring with
      | some r => let p := r.planes false h
          [(p.1 + n * blk * r.d, n * r.d), (p.2.1 + n * blk * r.d, n * r.d), (p.2.2.1 + 4 * n * blk, 4 * n),
           (p.2.2.2 + 4 * n * blk, 4 * n)]
      | none => [])
  | .staging => (match e.g.ring with | some r => [((r.planes true h).1, 64 * (2 * r.d + 8))] | none => [])
  | .landed t first => (match e.eg with
      | some g => [(g.blockAddr e.f t (first / 64) h, eddyBytes 0 e.f.headDim e.f.docs)]
      | none => [])

/-- The ranges that an ATTEND_BLOCK reads: query rows of head `h`, their document IDs, key block `b` of key/value head `g`. -/
def AEnv.fwdReads (e : AEnv) (h g b : Nat) (rows : List Nat) : List (Nat × Nat) :=
  e.rowRanges e.f.qDesc h rows ++ e.docRanges rows ++ e.keyRanges 64 b g

/-- Is an error one that only a block's owner can mend (R185 step 2)? -/
def lastingErr (x : SectorErr) : Bool := decide (3 ≤ x.fails) && x.syndrome != 0 && x.syndrome != 0x5A5A

/-- The physical spans of a landed block that its owner can send again (R157, R166): all but the travelling partials. -/
def State.planeSpans (s : State) (e : AEnv) (g : Eddy) (t u h : Nat) : List (Nat × Nat) :=
  let n := match g.find t u h with
    | some x => if x.kind = 2 then 64 + (if e.f.docs then 256 else 0) else eddyBytes 0 e.f.headDim e.f.docs
    | none => 0
  s.physSpans e.c [(g.blockAddr e.f t u h, n)]

/-- Errors on a landed block (R185, R166): its owner is the source of its keys, values and document IDs, and is asked for it again. -/
def State.landedErrs (s : State) (e : AEnv) (g : Eddy) (t u h : Nat) (errs : List SectorErr) : State :=
  let mine := errs.filter fun x => lastingErr x && inSpans (s.planeSpans e g t u h) x
  let asked := match g.find t u h with | some x => x.asked || x.poisoned | none => true
  if mine.isEmpty || asked then s
  else (mine.foldl (fun s x => s.detect ((s.memUnit (64 * x.sector)).getD 0) 1) s).askAgain e g t u h (mine.map SectorErr.sector)

/-- Detected errors on what a step reads (R185, R186); a landed block that stays bad is asked for again (R166). -/
def State.attRecover (s : State) (e : AEnv) (n b h : Nat) (reads : List (Nat × Nat)) (errs : List SectorErr) : State :=
  match e.eg, e.landedAt n b with
  | some g, some (t, u) =>
    let s := (s.recoverRanges e.c reads (errs.filter fun x => !(lastingErr x && inSpans (s.planeSpans e g t u h) x))).landedErrs e g t u h errs
    let lost := match g.find t u h with | some x => x.poisoned | none => false
    if e.present n b h && !lost && s.landedBad e g t u h then s.askAgain e g t u h [] else s
  | _, _ => s.recoverRanges e.c reads errs

/-! ## The end of an operation -/

/-- The attention status block (R133), for forward and verify. -/
def AttProg.extra (f : AttF) (g : AttProg) : List Byte := if f.counts then emptyBlock g.empty else []

/-- End the operation when every unit has committed, backward has combined, and a circulation is complete here. -/
def State.attEnd (s : State) (c i : Nat) : State :=
  match s.attOp c i with
  | none => s
  | some e =>
    let s := match e.eg with
      | some g => let g2 := s.eddyFree e (g.f.size + 1) g; s.eddyDo c fun _ => g2
      | none => s
    let done := match e.eg with
      | some _ => (match s.eddyOf c with | some g => g.2.complete e.f | none => false)
      | none => true
    if (List.range e.f.units).all e.g.commit.contains && (!e.f.back || e.g.combined) && done then
      let s := if e.eg.isSome then s.eddyDo c fun g => g.next i (s.runStep c) else s
      s.opEnd c i .ok (e.g.extra e.f)
    else s

/-- Write one output element and count it (R55, R58, R59); no candidate where its NaN has offered one already. -/
def State.wrOut (s : State) (c i mode : Nat) (d : TDesc) (idx : List Nat) (x : Entry) (cap : Nat → Option Capture) : Except OpErr State :=
  let w := wbEntry d.format.ff mode x
  match s.wrElem c d idx w.pat with
  | .error e => .error e
  | .ok s => .ok (s.opCount c i (match cap w.kind with
      | some k => (NumStat.zero).count w k
      | none => (NumStat.zero).countOnly w))

/-- Poison a unit's output rows (R89): output and log-sum-exp. -/
def State.attPoisonRows (s : State) (e : AEnv) (h : Nat) (rows : List Nat) : State :=
  rows.foldl (fun s i =>
    let s := match e.p.ten e.f.oDesc with
      | some d => s.vpoison e.c (d.at [h, i, 0]) (e.f.headDim * d.format.size)
      | none => s
    match e.p.ten e.f.lseDesc with
    | some d => s.vpoison e.c (d.at [h, i]) 4
    | none => s) s

/-- Write a finished unit's rows (R128, R131). -/
def State.attWrite (s : State) (e : AEnv) (w : AttWork) (h qb : Nat) : Except OpErr State :=
  let rows := List.zip (e.f.rowsIn 32 qb) w.rows
  let spans (desc n : Nat) (idx : Nat → List Nat) : List (Nat × Nat) := match e.p.ten desc with
    | none => []
    | some d => rows.map fun x => (d.at (idx x.1), n * d.format.size)
  let s := s.coverClear e.c (spans e.f.oDesc e.f.headDim (fun i => [h, i, 0]) ++ spans e.f.lseDesc 1 (fun i => [h, i]))
  wrAll (fun s (x : Nat × Row) =>
    let cap (col kind : Nat) : Option Capture := some ⟨kind, w.unit, 0xFFFFFFFF, noGroup, x.1 % 32, col⟩
    let r : Except OpErr State := match e.p.ten e.f.oDesc with
      | none => .ok s
      | some d => wrAll (fun s (o : Nat × Entry) => s.wrOut e.c e.i e.f.numMode d [h, x.1, o.1] o.2 (cap o.1)) s (enumFrom 0 x.2.o)
    match r with
    | .error er => .error er
    | .ok s =>
      let s := if x.2.seen then s else s.attDo e.c e.i fun g => { g with empty := g.empty + 1 }
      match e.p.ten e.f.lseDesc with
      | none => .ok s
      | some d => s.wrOut e.c e.i e.f.numMode d [h, x.1] x.2.lse (cap 0)) s rows

/-! ## Commands: ATTEND_BLOCK -/

/-- The keys of a block that query row `i` with document `dq` sees (R129). -/
def AEnv.seen (e : AEnv) (i dq : Nat) (refs : List KeyRef) (kv : List (List FV × List FV × Nat)) : List KeyVal :=
  ((List.zip refs kv).filter fun k => e.visible (e.qPos i) dq i k.1).map fun k => (k.1.slot, k.2.1, k.2.2.1)

/-- The probabilities that a row forms of its visible keys: none where it is or becomes invalid, or every score so far is -∞ (R126). -/
def rowProbs (f : AttF) (q : List FV) (vis : List KeyVal) (row : Row) : Nat :=
  let zs := vis.map fun k => (f.scaled (rowDot (modeFlush f.numMode) q k.2.1).1).1
  if row.invalid || zs.any (fun z => isNan32 z || z == inf32 false) || zs.foldl max32 row.m.v == inf32 true then 0 else vis.length

/-- The probabilities of a forward step. -/
def AEnv.probs (e : AEnv) (w : AttWork) (rows : List Nat) (qs : List (List FV × Nat)) (qd : List Nat) (refs : List KeyRef)
    (kv : List (List FV × List FV × Nat)) : Nat :=
  ((List.zip (List.zip rows qs) (List.zip qd w.rows)).map fun x => rowProbs e.f x.1.2.1 (e.seen x.1.1 x.2.1 refs kv) x.2.2).sum

/-- The verdict on a computed pair: the rows as updated, and after the last block finished (R126, R128). -/
def AEnv.attended (e : AEnv) (w : AttWork) (rows : List Nat) (qs : List (List FV × Nat)) (qd : List Nat) (refs : List KeyRef)
    (kv : List (List FV × List FV × Nat)) : AttWork :=
  let rs := (List.zip (List.zip rows qs) (List.zip qd w.rows)).map fun x =>
    rowAttend e.f (fun kind g col => ⟨kind, w.unit, w.blk, g, x.1.1 % 32, col⟩) x.1.2.1 (e.seen x.1.1 x.2.1 refs kv) x.2.2
  { w with
    rows := rs.map Prod.fst, attempt := 0,
    num := { (w.num.addFlush ((kv.map fun k => k.2.2).sum)) with cap := rs.foldl (fun m r => capMin m r.2) w.num.cap } }

/-- The next place in block order; past the last the rows finish (R128). -/
def AEnv.advance (e : AEnv) (w : AttWork) : AttWork :=
  let w := { w with blk := w.blk + 1 }
  if w.blk < e.blocks 64 then w
  else
    let rs := (enumFrom 0 w.rows).map fun r => rowFinish e.f (fun col => ⟨0, w.unit, 0xFFFFFFFF, noGroup, r.1, col⟩) r.2
    { w with rows := rs.map Prod.fst, fin := true, num := { w.num with cap := rs.foldl (fun m r => capMin m r.2) w.num.cap } }

/-- ATTEND_BLOCK (R126, R130, R136 to R138): the next key block in block order, skipped by its bounds, or applied once it is here. A query row
that reads as poison poisons its unit at once (R187; log 120). -/
def execAttendBlock (c pos : Nat) (check : Check) (errs : List SectorErr) (s : State) : Host.Outcome State Fault Refusal :=
  done <|
    match s.attWork c pos with
    | none => s
    | some (w, e, core) =>
      if w.fin || e.f.back then s
      else
        let h := w.unit / e.f.bq
        let g := h / e.f.group
        let rows := e.f.rowsIn 32 (w.unit % e.f.bq)
        let reads := e.fwdReads h g w.blk rows
        let s := s.attRecover e 64 w.blk g reads errs
        if s.rebuildDue (s.physSpans c reads) || !s.mayLoad core then s
        else
          s.opTry c w.op (rdAll (fun i => e.row s e.f.qDesc [h, i]) rows) fun qs =>
          s.opTry c w.op (rdAll (fun i => e.docAt s (e.docIdx i)) rows) fun qd =>
          s.opTry c w.op (e.keyRefs s 64 w.blk g false) fun near =>
            let w1 := if w.loaded then w else { w with loaded := true, num := w.num.addFlush ((qs.1.map Prod.snd).sum) }
            let qp := rows.map e.qPos
            match qs.2 with
            | some pa => (s.opPoison c w.op w.unit pa).attSet c pos w1.spoil
            | none =>
              if near.2.isNone && e.f.skips false qp [] near.1 then (s.telAdd core 10 1).attSet c pos (e.advance w1)
              else
                match s.attOp c w.op with
                | none => s
                | some e2 =>
                  if !e2.present 64 w.blk g then s
                  else
                    s.opTry c w.op (e.keyRefs s 64 w.blk g true) fun refs =>
                      let bad := pFirst qd.2 refs.2
                      if bad.isNone && e.f.skips true qp qd.1 refs.1 then (s.telAdd core 10 1).attSet c pos (e.advance w1)
                      else
                        s.opTry c w.op (rdAll (e.keyRow s 64 w.blk g) refs.1) fun kv =>
                          match pFirst bad kv.2 with
                          | some pa => (s.opPoison c w.op w.unit pa).attSet c pos w1.spoil
                          | none => s.attSfu c pos core (e.probs w1 rows qs.1 qd.1 refs.1 kv.1) w1 fun w1 =>
                            match check with
                            | .fail | .word => (s.wordSeen core check).attFail c pos core w.blk w1
                            | .pass => s.attSet c pos (e.advance (e.attended w1 rows qs.1 qd.1 refs.1 kv.1))

/-! ## Backward (R134, R135) -/

/-- One visible pair of a backward step: query row and key slot in their blocks, probability and ds, and whether a rounding of the
first or of the second flushed. -/
structure BPair where
  i : Nat
  j : Nat
  p : FV
  ds : FV
  pf : Bool
  df : Bool
  cap : Option Capture

/-- A query row as a backward step holds it. -/
structure BRow where
  i : Nat
  q : List FV
  o : List FV
  lse : W32
  delta : W32

/-- delta(h, i) of R134: pfsum over columns of twoprod, the hi part. -/
def deltaOf (a out : List FV) : W32 :=
  (treeReduce pfAdd pfZero (enumFrom 0 ((List.zip a out).map fun x => twoProd ⟨w32 x.1, 0#4, false⟩ ⟨w32 x.2, 0#4, false⟩))).hi

/-- The probability and ds of a visible pair (R123, R134). -/
def backPair (f : AttF) (cap : Nat → Nat → Capture) (r : BRow) (j : Nat) (k v : List FV) : BPair :=
  let fl := modeFlush f.numMode
  let s := rowDot fl r.q k
  let z := f.scaled s.1
  let p := probOf fl z.1 r.lse
  let d := rowDot fl r.o v
  let x := dp fl (fvAdd (fv32 d.1.v) (fvNeg (fv32 r.delta)))
  let y := dp fl (fvMul p.1 (fv32 x.1))
  let ds := roundTo ffBf16 fl (fv32 y.1)
  let c (e : Entry × Option Nat) : Option Capture := e.2.map fun g => cap (if e.1.nin then 1 else 0) g
  let own := ds.v.isNan && !isNan32 s.1.v && !isNan32 d.1.v
  let cd := if own || (p.1.isNan && !isNan32 s.1.v) then some (cap (if isNan32 r.lse then 1 else 0) dpGroup) else none
  ⟨r.i, j, p.1, ds.v, z.2 || p.2, x.2 || y.2 || ds.flush, capMin (c s) (capMin (c d) cd)⟩

/-- One group enters an entry; a group without a product adds +0 (R48). -/
def addGroup (flush : Bool) (x : Entry) (ops : List (FV × FV)) : Entry := accAdd flush x (groupSum ffBf16 ffBf16 flush ops)

/-- The query row that a NaN of a group of products names (R125): the first whose own product is NaN, else the first of the group. -/
def nanRow (l : List (Nat × FV × FV)) : Nat :=
  match l.find? fun x => (fvMul x.2.1 x.2.2).isNan with
  | some x => x.1
  | none => match l with | x :: _ => x.1 | [] => 0

/-- Add a step's pairs to a resident gradient: two groups of 32 query rows for each key and column (R134); a candidate names a query row of the
group and the column (R125; log 120). -/
def gradAdd (f : AttF) (cap : Nat → Nat → Nat → Nat → Capture) (ps : List BPair) (left : BPair → FV) (fl : BPair → Bool)
    (right : Nat → List FV) (acc : List Entry) : List Entry × Option Capture :=
  let d := f.headDim
  let flush := modeFlush f.numMode
  let r := (enumFrom 0 acc).map fun x =>
    let mine := ps.filter fun p => p.j == x.1 / d
    let ops (g : Nat) := (mine.filter fun p => p.i / 32 == g).map fun p => (p.i, left p, (right p.i).getD (x.1 % d) fvZero)
    let y := addGroup flush x.2 ((ops 0).map Prod.snd)
    let z := addGroup flush y ((ops 1).map Prod.snd)
    let z := if mine.any fl then { z with fl := z.fl ||| flFLUSH } else z
    let c := if isNan32 x.2.v || !isNan32 z.v then none
      else
        let g := if isNan32 y.v then 0 else 1
        some (cap (if z.nin then 1 else 0) (valGroup + g) (nanRow (ops g)) (x.1 % d))
    (z, c)
  (r.map Prod.fst, r.foldl (fun m x => capMin m x.2) none)

/-- Add a step's pairs to a query-gradient row: one group of 32 keys (R134). -/
def dqAdd (f : AttF) (cap : Nat → Nat → Nat → Capture) (ps : List BPair) (keys : Nat → List FV) (acc : List Entry) :
    List Entry × Option Capture :=
  let flush := modeFlush f.numMode
  let r := (enumFrom 0 acc).map fun x =>
    let y := addGroup flush x.2 (ps.map fun p => (p.ds, (keys p.j).getD x.1 fvZero))
    (y, if isNan32 y.v && !isNan32 x.2.v then some (cap (if y.nin then 1 else 0) valGroup x.1) else none)
  (r.map Prod.fst, r.foldl (fun m x => capMin m x.2) none)

/-- The row of a query-gradient partial (R134). -/
def AEnv.dqRow (e : AEnv) (h r i : Nat) : Nat := (r * e.f.qHeads + h) * e.f.qLen + i

/-- A query-gradient partial as the accumulator takes it: a value without flags (log 37). -/
def AEnv.rdPartial (e : AEnv) (s : State) (h r i : Nat) : Rd (List Entry) :=
  match e.p.ten e.f.dqpDesc with
  | none => .ok ([], none)
  | some d =>
    match s.rdRow e.c d [e.dqRow h r i] e.f.headDim with
    | .error x => .error x
    | .ok l => .ok (l.1.map fun n => loadEnt (BitVec.ofNat 32 n), l.2)

/-- Write a query-gradient partial through R55 (R56). -/
def AEnv.wrPartial (e : AEnv) (s : State) (h r i : Nat) (l : List Wb) : Except OpErr State :=
  match e.p.ten e.f.dqpDesc with
  | none => .ok s
  | some d => s.wrBytes e.c (d.at [e.dqRow h r i, 0]) (l.flatMap fun w => leBytes 4 w.pat)

/-- The keyed place of a stored partial: head and block. -/
def partKey (h b : Nat) : Nat := h * 2 ^ 32 + b

/-- A gradient of the resident key block: +0 until a step adds to it (R134). -/
def AttF.gradOr (f : AttF) (l : List Entry) : List Entry := if l.isEmpty then List.replicate (32 * f.headDim) Entry.zero else l

/-- The next query block, and past the last the next key block with its partials stored (R134); in a circulation, a member without a visible pair
has none (R162). -/
def AEnv.backNext (e : AEnv) (s : State) (pos h b : Nat) (last : Bool) (w : AttWork) : State :=
  let w := { w with qb := w.qb + 1, attempt := 0 }
  if w.qb < ceilDiv e.f.qLen 64 then s.attSet e.c pos w
  else
    let s := if w.hit || e.eg.isNone then
        s.attDo e.c e.i fun g => { g with parts := kvSet (partKey h b) (e.f.gradOr w.dk, e.f.gradOr w.dv) g.parts }
      else s
    s.attSet e.c pos { w with qb := 0, blk := w.blk + 1, dk := [], dv := [], loaded := false, hit := false, fin := last }

/-- The rows a backward step reads of its query block; the PF32 sum of delta takes `do` and `out` exactly, subnormals and all (R44, R134), and the
products take `do` as the mode reads it. -/
def AEnv.backRow (e : AEnv) (s : State) (h i : Nat) : Rd (BRow × Nat) :=
  match e.row s e.f.qDesc [h, i], e.row s e.f.doDesc [h, i], e.rowAs s false e.f.oDesc [h, i], e.p.ten e.f.lseDesc with
  | .ok q, .ok d, .ok o, some l =>
    (match s.rdNat e.c (l.at [h, i]) 4, e.rowAs s false e.f.doDesc [h, i] with
     | .ok z, .ok dx =>
       let lse := flushIn (modeFlush e.f.numMode) (BitVec.ofNat 32 z.1)
       .ok ((⟨i % 64, q.1.1, d.1.1, lse.1, deltaOf dx.1.1 o.1.1⟩, q.1.2 + d.1.2 + b2n lse.2), pFirst q.2 (pFirst d.2 (pFirst o.2 z.2)))
     | .error x, _ => .error x
     | .ok _, .error x => .error x)
  | .error x, _, _, _ => .error x
  | .ok _, .error x, _, _ => .error x
  | .ok _, .ok _, .error x, _ => .error x
  | .ok _, .ok _, .ok _, none => .ok ((⟨i % 64, [], [], 0#32, 0#32⟩, 0), none)

/-- The visible pairs of a backward step. -/
def AEnv.pairs (e : AEnv) (rows qd : List Nat) (refs : List KeyRef) : Nat :=
  ((List.zip rows qd).map fun x => (refs.filter fun k => e.visible (e.qPos x.1) x.2 x.1 k).length).sum

/-- The gradients of a step: the visible pairs enter dk, dv and the query-gradient rows, whose writing is the last act (R134). -/
def AEnv.backApply (e : AEnv) (s : State) (pos h r b : Nat) (last : Bool) (w : AttWork) (rows qd : List Nat) (rs : List (BRow × Nat))
    (refs : List KeyRef) (kv : List (List FV × List FV × Nat)) (dqs : List (List Entry)) : Except OpErr State :=
  let cap (kind g row col : Nat) : Capture := ⟨kind, w.unit, b, g, row, col⟩
  let ks := List.zip refs kv
  let ps := (List.zip (List.zip rows qd) rs).flatMap fun x =>
    (ks.filter fun k => e.visible (e.qPos x.1.1) x.1.2 x.1.1 k.1).map fun k =>
      backPair e.f (fun kind g => cap kind g x.2.1.i k.1.slot) x.2.1 k.1.slot k.2.1 k.2.2.1
  let qs := rs.map fun x => x.1.q
  let dos := rs.map fun x => x.1.o
  let dv := gradAdd e.f cap ps BPair.p BPair.pf (fun i => dos.getD i []) (e.f.gradOr w.dv)
  let dk := gradAdd e.f cap ps BPair.ds BPair.df (fun i => qs.getD i []) (e.f.gradOr w.dk)
  let dq := (List.zip rows dqs).map fun x =>
    let mine := ps.filter fun p => p.i == x.1 % 64
    (x.1, dqAdd e.f (fun kind g col => cap kind g (x.1 % 64) col) mine (fun j => match ks.find? (fun k => k.1.slot == j) with
      | some k => k.2.1
      | none => []) x.2)
  let caps := dq.foldl (fun m x => capMin m x.2.2) (capMin dv.2 (capMin dk.2 (ps.foldl (fun m p => capMin m p.cap) none)))
  let loads := (rs.map Prod.snd).sum + (if w.loaded then 0 else (kv.map fun k => k.2.2).sum)
  let wbs := dq.map fun x => (x.1, x.2.1.map (wbEntry ffFp32 e.f.numMode))
  let stored := (wbs.flatMap Prod.snd).foldl NumStat.countOnly w.num
  let w2 : AttWork := { w with
    dk := dk.1, dv := dv.1, loaded := true, hit := w.hit || !ps.isEmpty,
    num := { (stored.addFlush loads) with cap := capMin w.num.cap caps } }
  wrAll (fun s (x : Nat × List Wb) => e.wrPartial s h r x.1 x.2) (e.backNext s pos h b last w2) wbs

/-- The ranges of query-gradient partial rows of part `r`. -/
def AEnv.partialRanges (e : AEnv) (h r : Nat) (rows : List Nat) : List (Nat × Nat) :=
  match e.p.ten e.f.dqpDesc with
  | some d => rows.map fun i => (d.at [e.dqRow h r i, 0], 4 * e.f.headDim)
  | none => []

/-- The ranges that a BACKWARD_STEP reads: rows of the query block, their log-sum-exp, document IDs and partials, and the key block. -/
def AEnv.backReads (e : AEnv) (h r g b : Nat) (rows : List Nat) : List (Nat × Nat) :=
  [e.f.qDesc, e.f.doDesc, e.f.oDesc].flatMap (fun o => e.rowRanges o h rows)
    ++ (match e.p.ten e.f.lseDesc with | some d => rows.map fun i => (d.at [h, i], 4) | none => [])
    ++ e.docRanges rows ++ e.partialRanges h r rows ++ e.keyRanges 32 b g

/-- BACKWARD_STEP (R134, R136 to R138): one key block against one query block, skipped by their bounds or computed once the block is
here. -/
def execBackwardStep (c pos : Nat) (check : Check) (errs : List SectorErr) (s : State) : Host.Outcome State Fault Refusal :=
  done <|
    match s.attWork c pos with
    | none => s
    | some (w, e, core) =>
      if w.fin || !e.f.back then s
      else
        let h := w.unit / e.f.dqParts
        let r := w.unit % e.f.dqParts
        let g := h / e.f.group
        let bl := e.partBlocks r
        match bl[w.blk]? with
        | none => s.attSet c pos { w with fin := true }
        | some b =>
          let last := decide (bl.length ≤ w.blk + 1)
          let rows := e.f.rowsIn 64 w.qb
          let qp := rows.map e.qPos
          let reads := e.backReads h r g b rows
          let s := s.attRecover e 32 b g reads errs
          if s.rebuildDue (s.physSpans c reads) || !s.mayLoad core || !s.mayStore core then s
          else
            s.opTry c w.op (e.keyRefs s 32 b g false) fun near =>
            s.opTry c w.op (rdAll (fun i => e.docAt s (e.docIdx i)) rows) fun qd =>
              if near.2.isNone && e.f.skips false qp [] near.1 then e.backNext (s.telAdd core 10 1) pos h b last w
              else
                match s.attOp c w.op with
                | none => s
                | some e2 =>
                  if !e2.present 32 b g then s
                  else
                    s.opTry c w.op (e.keyRefs s 32 b g true) fun refs =>
                      let bad := pFirst qd.2 refs.2
                      if bad.isNone && e.f.skips true qp qd.1 refs.1 then e.backNext (s.telAdd core 10 1) pos h b last w
                      else
                        s.opTry c w.op (rdAll (e.backRow s h) rows) fun rs =>
                        s.opTry c w.op (rdAll (e.keyRow s 32 b g) refs.1) fun kv =>
                        s.opTry c w.op (rdAll (e.rdPartial s h r) rows) fun dqs =>
                          match pFirst bad (pFirst rs.2 (pFirst kv.2 dqs.2)) with
                          | some pa => (s.opPoison c w.op w.unit pa).attSet c pos w.spoil
                          | none => s.attSfu c pos core (e.pairs rows qd.1 refs.1) w fun w =>
                            match check with
                            | .fail | .word => (s.wordSeen core check).attFail c pos core b w
                            | .pass => s.opTry c w.op (e.backApply s pos h r b last w rows qd.1 rs.1 refs.1 kv.1 dqs.1) fun s => s

/-- The sum of partials in order, starting from the first (R135). -/
def sumParts (flush : Bool) : List (List Entry) → List Entry
  | [] => []
  | a :: t => t.foldl (fun x y => (List.zip x y).map fun z => accAdd flush z.1 ⟨z.2.v, z.2.fl, z.2.nin⟩) a

/-- A gradient times the softmax scale (R135). -/
def AttF.scaleEnt (f : AttF) (x : Entry) : Entry :=
  let fl := modeFlush f.numMode
  let v := fvMul (fv32 x.v) (fv32 (flushIn fl f.scale).1)
  let r := roundTo ffFp32 fl v
  ⟨w32 r.v, x.fl ||| (if r.ovf then flOVF else 0#4) ||| (if v.isNan then flINV else 0#4) ||| (if r.flush then flFLUSH else 0#4), x.nin⟩

/-- Write a row of results, or poison it. -/
def AEnv.wrRow (e : AEnv) (s : State) (desc : Nat) (idx : List Nat) (bad : Bool) (cap : Nat → Nat → Option Capture) (l : List Entry) :
    Except OpErr State :=
  match e.p.ten desc with
  | none => .ok s
  | some d =>
    if bad then .ok ((s.vpoison e.c (d.at (idx ++ [0])) (e.f.headDim * d.format.size)).opSpoil e.c e.i)
    else
      wrAll (fun s (x : Nat × Entry) => s.wrOut e.c e.i e.f.numMode d (idx ++ [x.1]) x.2 (cap x.1))
        (s.coverClear e.c [(d.at (idx ++ [0]), l.length * d.format.size)]) (enumFrom 0 l)

/-- The query heads of a key/value head. -/
def AttF.heads (f : AttF) (g : Nat) : List Nat := (List.range f.group).map (· + g * f.group)

/-- Which elements of a key block are NaN in some partial of this member already, and have offered their candidate there (R59, R125). -/
def AEnv.partNan (e : AEnv) (g b : Nat) : List Bool × List Bool :=
  let l := (e.f.heads g).filterMap fun h => kvGet (partKey h b) e.g.parts
  let nan (f : List Entry × List Entry → List Entry) : List Bool :=
    (List.range (32 * e.f.headDim)).map fun k => l.any fun x => match (f x)[k]? with | some y => isNan32 y.v | none => false
  (nan Prod.fst, nan Prod.snd)

/-- Write the gradients of a key block's rows from its summed partials (R135, R163); a NaN that the combination makes is a candidate of the
first unit (log 120). -/
def AEnv.wrBlock (e : AEnv) (s : State) (g b first : Nat) (bad : Bool) (dk dv : List Entry) : Except OpErr State :=
  let d := e.f.headDim
  let old := e.partNan g b
  let cap (old : List Bool) (row col kind : Nat) : Option Capture :=
    if old.getD (row * d + col) false then none else some ⟨kind, g * e.f.group * e.f.dqParts, b, noGroup, row, col⟩
  let n := min (dk.length / max d 1) (e.f.kvLen - first)
  let spans (desc : Nat) : List (Nat × Nat) := match e.p.ten desc with
    | none => []
    | some t => (List.range n).map fun k => (t.at [g, first + k, 0], d * t.format.size)
  wrAll (fun s k =>
    match e.wrRow s e.f.dkDesc [g, first + k] bad (cap old.1 k) (((dk.drop (k * d)).take d).map e.f.scaleEnt) with
    | .error x => .error x
    | .ok s => e.wrRow s e.f.dvDesc [g, first + k] bad (cap old.2 k) ((dv.drop (k * d)).take d))
    (if bad then s else s.coverClear e.c ((spans e.f.dkDesc) ++ spans e.f.dvDesc)) (List.range n)

/-- This member's contribution to a key block: the sum over the query heads of its group (R135, R162); none without a visible pair. -/
def AEnv.contrib (e : AEnv) (g b : Nat) : Option (List Entry × List Entry) :=
  match (e.f.heads g).filterMap fun h => kvGet (partKey h b) e.g.parts with
  | [] => none
  | l =>
    let fl := modeFlush e.f.numMode
    some (sumParts fl (l.map Prod.fst), sumParts fl (l.map Prod.snd))

/-- Is a unit that contributes to block `b` poisoned? -/
def AEnv.contribBad (e : AEnv) (g b : Nat) : Bool :=
  (List.range e.f.dqParts).any fun r => (e.partBlocks r).contains b && (e.f.heads g).any fun h => e.g.poisoned.contains (h * e.f.dqParts + r)

/-- The gradients of query row (h, i) (R135); a NaN of a part has offered its candidate where it arose, one that the combination makes is a
candidate of the first unit (log 120). -/
def AEnv.dqFinal (e : AEnv) (s : State) (h i : Nat) : Except OpErr State :=
  let us := (List.range e.f.dqParts).map fun r => h * e.f.dqParts + r
  match rdAll (fun r => e.rdPartial s h r i) (List.range e.f.dqParts) with
  | .error x => .error x
  | .ok l =>
    let s := match l.2 with | some pa => s.opPoison e.c e.i (h * e.f.dqParts) pa | none => s
    e.wrRow s e.f.dqDesc [h, i] (l.2.isSome || us.any e.g.poisoned.contains)
      (fun col kind => if l.1.any fun p => (match p[col]? with | some x => isNan32 x.v | none => false) then none
        else some ⟨kind, h * e.f.dqParts, 0xFFFFFFFF, noGroup, i % 64, col⟩)
      ((sumParts (modeFlush e.f.numMode) l.1).map e.f.scaleEnt)

/-- The gradients of every query row. -/
def AEnv.combineQueries (e : AEnv) (s : State) : Except OpErr State :=
  wrAll (fun s (x : Nat × Nat) => e.dqFinal s x.1 x.2) s
    ((List.range e.f.qHeads).flatMap fun h => (List.range e.f.qLen).map fun q => (h, q))

/-- The gradients of the key blocks whose partials do not travel. -/
def AEnv.combineBlocks (e : AEnv) (s : State) : Except OpErr State :=
  let own : List Nat := match e.eg with
    | none => List.range (e.blocks 32)
    | some g => (List.range (g.f.slice / 32)).filter fun b => g.reach e.f g.f.rank (b / 2) == 0
  let zero := List.replicate (32 * e.f.headDim) Entry.zero
  wrAll (fun s (x : Nat × Nat) =>
    let r := (e.contrib x.1 x.2).getD (zero, zero)
    e.wrBlock s x.1 x.2 (32 * x.2) (e.contribBad x.1 x.2) r.1 r.2) s
    ((List.range e.f.kvHeads).flatMap fun g => own.map fun b => (g, b))

/-- BACKWARD_COMBINE (R135): the query gradients, and the key and value gradients of blocks whose partials do not travel. Errors of the partials
that it reads, and of sectors that it writes in part, come first (R185, R188). -/
def execBackwardCombine (c : Nat) (o : OpAt) (s : State) : Host.Outcome State Fault Refusal :=
  done <|
    let i := o.op
    match s.attOp c i with
    | none => s
    | some e =>
      let ins := s.physSpans c (e.p.rangesOf [e.f.dqpDesc])
      let outs := s.physSpans c (e.p.rangesOf [e.f.dqDesc, e.f.dkDesc, e.f.dvDesc])
      let due := e.f.back && !e.g.combined && (List.range e.f.units).all e.g.commit.contains
      let s := if due then (s.recover c ins o.errs).recoverPartial c outs o.errs else s
      if !due || s.rebuildDue (ins ++ outs) then s
      else
        s.opTry c i (e.combineQueries s) fun s =>
          s.opTry c i (e.combineBlocks s) fun s => (s.attDo c i fun g => { g with combined := true }).attEnd c i

/-! ## The window ring (R139 to R147) -/

/-- The header at `RING_DESC`. -/
def State.ringHeader (s : State) (c va : Nat) : Rd RingHdr :=
  match s.rdBytes c va 64 with
  | .error e => .error e
  | .ok r =>
    let l := r.1
    .ok (⟨field l 0 4, field l 4 2, field l 6 2, field l 8 4, field l 12 1, field l 14 2, field l 16 4, field l 24 8⟩, r.2)

/-- Progress at the start. -/
def AttProg.start (ring : Option RingHdr) (tree : List Nat) : AttProg :=
  { commit := [], next := 0, empty := 0, parts := [], poisoned := [], parked := [], ring := ring, tree := tree, combined := false }

/-- End an operation that changes nothing, with its status. -/
def State.attStop (s : State) (c i : Nat) (f : AttF) (st : Status) : State :=
  s.opEnd c i st ((AttProg.start none []).extra f)

/-- End an operation whose header, tree or path reads as poisoned (R139). -/
def State.attPoisoned (s : State) (c i : Nat) (f : AttF) (pa : Nat) : State := (s.opPoison c i 0 pa).attStop c i f .ok

/-- Begin a ring operation: the header's checks in order (R139, R142), then the rest; a header whose `RING_W` no ring can have disagrees with
the loader's checks too (log 120). -/
def State.ringBegin (s : State) (c i : Nat) (f : AttF) (next : RingHdr → State → State) : State :=
  s.opTry c i (s.ringHeader c f.ringDesc) fun r =>
    match r.2 with
    | some pa => s.attPoisoned c i f pa
    | none =>
      let h := r.1
      if 3 ≤ f.op ∧ h.owner ≠ c then s.attStop c i f .ringOwner
      else if h.w % 64 ≠ 0 ∨ h.w = 0 ∨ h.w < f.window ∨ h.d ≠ f.headDim ∨ h.heads ≠ f.kvHeads then s.attStop c i f .planShape
      else next h s

/-- amax / 448 rounded toward +∞ to BF16, at least 2^-126 (R141): `m` x 2^`e`, m nonzero. -/
def ringScale (m : Nat) (e : Int) : Nat :=
  let n := bitLen m
  let num := m * 2 ^ (11 - n)
  let den := 7 * 2 ^ (n - 11)
  let q := e - 6 + n - 11
  let k := ceilDiv num den
  let x : FV := if k ≤ 256 then .fin false k q else .fin false (ceilDiv num (2 * den)) (q + 1)
  fvPattern ffBf16 (if fvCmp x (.fin false 1 (-126)) = some .lt then .fin false 1 (-126) else x)

/-- One row quantised (R141): the scale, the elements, how many flushed, and the kind of its invalid result if it is one. -/
def quantRow (flush : Bool) (l : List FV) : Nat × List Byte × Nat × Option Nat :=
  if l.any fun x => !x.isFin then
    (0x7FC0, l.map fun _ => 0x7F#8, 0, some (if l.any FV.isNan then 1 else 0))
  else
    let amax := l.foldl (fun a x => if fvCmp a (fvAbs x) = some .lt then fvAbs x else a) fvZero
    match amax with
    | .fin _ m e =>
      if m = 0 then (0x3F80, l.map fun x => if x.neg? then 0x80#8 else 0x00#8, 0, none)
      else
        let sc := ringScale m e
        let r := l.map fun x => roundTo ffE4m3 flush (fvDiv x (fvOf ffBf16 sc))
        (sc, r.map fun x => BitVec.ofNat 8 (fvPattern ffE4m3 x.v), (r.filter Rnd.flush).length, none)
    | _ => (0x3F80, [], 0, none)

/-- Store one token or node in a slot (R140 to R142): the key, value and scale planes, poisoned where a source row is and then without counts
(R60), then the tag. -/
def State.ringStore (s : State) (c i : Nat) (f : AttF) (r : RingHdr) (staging : Bool) (h slot n tag : Nat) (k v : Rd (List FV × Nat)) :
    Except OpErr State :=
  match k, v with
  | .error e, _ => .error e
  | .ok _, .error e => .error e
  | .ok k, .ok v =>
    let fl := modeFlush f.numMode
    let p := r.planes staging h
    let tagged (s : State) : Except OpErr State := s.wrBytes c (p.2.2.2 + 4 * slot) (leBytes 4 tag)
    match pFirst k.2 v.2 with
    | some pa =>
      let s := s.opPoison c i n pa
      tagged (((s.vpoison c (p.1 + slot * r.d) r.d).vpoison c (p.2.1 + slot * r.d) r.d).vpoison c (p.2.2.1 + 4 * slot) 4)
    | none =>
      let a := quantRow fl k.1.1
      let b := quantRow fl v.1.1
      let bad (x : Nat × List Byte × Nat × Option Nat) : Nat := if x.2.2.2.isSome then r.d else 0
      let cap (x : Nat × List Byte × Nat × Option Nat) (row : Nat) : Option Capture := x.2.2.2.map fun kind => ⟨kind, n, h, noGroup, row, 0⟩
      let s := s.opCount c i { sat := 0, flush := k.1.2 + v.1.2 + a.2.2.1 + b.2.2.1, inv := bad a + bad b, cap := capMin (cap a 0) (cap b 1) }
      match wrAll (fun s (x : Nat × List Byte) => s.wrBytes c x.1 x.2) s
          [(p.1 + slot * r.d, a.2.1), (p.2.1 + slot * r.d, b.2.1), (p.2.2.1 + 4 * slot, leBytes 2 a.1 ++ leBytes 2 b.1)] with
      | .error e => .error e
      | .ok s => tagged s

/-- A source row of an append or a verify. -/
def ringRow (s : State) (c : Nat) (p : Plan) (f : AttF) (desc h n : Nat) : Rd (List FV × Nat) :=
  (AEnv.mk c 0 p f (AttProg.start none []) none).row s desc [h, n]

/-- Store tokens or nodes: slot and tag of each, every head. -/
def State.ringStores (s : State) (c i : Nat) (p : Plan) (f : AttF) (r : RingHdr) (staging : Bool) (at_ : Nat → Nat × Nat) :
    Except OpErr State :=
  wrAll (fun s (x : Nat × Nat) => s.ringStore c i f r staging x.2 (at_ x.1).1 x.1 (at_ x.1).2 (ringRow s c p f f.kDesc x.2 x.1)
    (ringRow s c p f f.vDesc x.2 x.1)) s ((List.range f.qLen).flatMap fun n => (List.range f.kvHeads).map fun h => (n, h))

/-- The bytes of the planes that slots of every head take (R140). -/
def RingHdr.slotRanges (r : RingHdr) (staging : Bool) (slots : List Nat) : List (Nat × Nat) :=
  (List.range r.heads).flatMap fun h => slots.flatMap fun k =>
    let p := r.planes staging h
    [(p.1 + k * r.d, r.d), (p.2.1 + k * r.d, r.d), (p.2.2.1 + 4 * k, 4), (p.2.2.2 + 4 * k, 4)]

/-- Sectors of the ring that an operation writes in part are read first (R188). -/
def State.ringPartial (s : State) (c : Nat) (r : RingHdr) (staging : Bool) (slots : List Nat) (errs : List SectorErr) : State :=
  s.recoverPartial c (s.physSpans c (r.slotRanges staging slots)) errs

/-- Write fields of the header in order: (offset, bytes, value). -/
def State.ringFields (s : State) (c va : Nat) (l : List (Nat × Nat × Nat)) : Except OpErr State :=
  wrAll (fun s (x : Nat × Nat × Nat) => s.wrBytes c (va + x.1) (leBytes x.2.1 x.2.2)) s l

/-- ATTENTION_APPEND (R141, R142, R147). -/
def execAttentionAppend (c i : Nat) (errs : List SectorErr) (s : State) : Host.Outcome State Fault Refusal :=
  done <|
    let s := s.opRecover c i (PlanOp.isAtt 3) errs
    match s.opOf c i with
    | some (_, p, _, .attention f, _) =>
      if !s.mayIssue c i || f.op != 3 then s
      else
        (s.opBegin c i .none).ringBegin c i f fun r s =>
          if noDoc ≤ r.next + f.qLen - 1 then s.attStop c i f .ringPosition
          else
            s.opTry c i ((s.ringPartial c r false ((List.range f.qLen).map fun n => (r.next + n) % r.w) errs).ringStores c i p f r false
              fun n => ((r.next + n) % r.w, r.next + n)) fun s =>
            s.opTry c i (s.ringFields c f.ringDesc [(8, 4, r.next + f.qLen), (12, 1, 0)]) fun s => s.opEnd c i .ok []
    | _ => s

/-- Parents of a node table (R144). -/
def State.treeParents (s : State) (c : Nat) (p : Plan) (f : AttF) (n : Nat) : Rd (List Nat) :=
  match p.ten f.treeDesc with
  | none => .ok ([], none)
  | some d =>
    match s.rdBytes c d.addr (4 * n) with
    | .error e => .error e
    | .ok r => .ok ((List.range n).map fun k => field r.1 (4 * k) 1, r.2)

/-- Is a path valid (R146)? `l` is the record, `par` the parents. -/
def pathOk (r : RingHdr) (l : List Byte) (par : List Nat) : Bool :=
  let a := field l 0 1
  let ns := (List.range a).map fun t => field l (1 + t) 1
  decide (a ≤ 16) && ns.all (fun n => decide (n < r.staged)) && (l.drop (1 + a)).all (· == 0#8) && r.staged != 0
    && r.stagePos == r.next && (a == 0 || (decide (par.length = r.staged) && par.getD (nth ns 0) 0 == 0xFF
      && (List.range (a - 1)).all fun t => par.getD (nth ns (t + 1)) 0xFF == nth ns t))

/-- Copy one plane's part of a slot; a poisoned source poisons the copy (R187). -/
def State.planeCopy (s : State) (c i n src dst len : Nat) : Except OpErr State :=
  match s.rdBytes c src len with
  | .error e => .error e
  | .ok (l, none) => s.wrBytes c dst l
  | .ok (_, some pa) => .ok ((s.opPoison c i n pa).vpoison c dst len)

/-- Copy the nodes of a path from the staging area to the slots of their positions, every head and plane (R146). -/
def State.ringMoves (s : State) (c i : Nat) (r : RingHdr) (l : List Byte) : Except OpErr State :=
  let jobs := (List.range (field l 0 1)).flatMap fun t => (List.range r.heads).map fun h => (t, h)
  wrAll (fun s (x : Nat × Nat) =>
    let from_ := field l (1 + x.1) 1
    let to_ := (r.next + x.1) % r.w
    let u := r.planes true x.2
    let v := r.planes false x.2
    wrAll (fun s (y : Nat × Nat × Nat) => s.planeCopy c i x.1 (y.1 + from_ * y.2.2) (y.2.1 + to_ * y.2.2) y.2.2) s
      [(u.1, v.1, r.d), (u.2.1, v.2.1, r.d), (u.2.2.1, v.2.2.1, 4), (u.2.2.2, v.2.2.2, 4)]) s jobs

/-- ATTENTION_COMMIT (R142, R146, R147). -/
def execAttentionCommit (c i : Nat) (errs : List SectorErr) (s : State) : Host.Outcome State Fault Refusal :=
  done <|
    let s := s.opRecover c i (PlanOp.isAtt 4) errs
    match s.opOf c i with
    | some (_, p, _, .attention f, _) =>
      if !s.mayIssue c i || f.op != 4 then s
      else
        (s.opBegin c i .none).ringBegin c i f fun r s =>
          match p.ten f.pathDesc with
          | none => s.attStop c i f .verifyPath
          | some d =>
            s.opTry c i (s.rdBytes c d.addr 32) fun l =>
            s.opTry c i (if l.2.isNone && field l.1 0 1 != 0 then s.treeParents c p f r.staged else .ok ([], none)) fun par =>
              match pFirst l.2 par.2 with
              | some pa => s.attPoisoned c i f pa
              | none =>
                if !pathOk r l.1 par.1 then s.attStop c i f .verifyPath
                else
                  let a := field l.1 0 1
                  let to_ := (List.range a).map fun t => (r.next + t) % r.w
                  let from_ := r.slotRanges true ((List.range a).map fun t => field l.1 (1 + t) 1)
                  s.opTry c i (((s.recoverRanges c from_ errs).ringPartial c r false to_ errs).ringMoves c i r l.1) fun s =>
                  s.opTry c i (s.ringFields c f.ringDesc [(8, 4, r.next + a), (12, 1, 0)]) fun s => s.opEnd c i .ok []
    | _ => s

/-- The checks of a tree (R144): its status, if it fails. -/
def treeFails (r : RingHdr) (par : List Nat) : Option Status :=
  let ds := treeDepths par
  if (enumFrom 0 par).any (fun x => x.2 != 0xFF && decide (x.1 ≤ x.2)) || ds.any (fun d => decide (16 < d)) then some .verifyTree
  else if ds.any fun d => decide (noDoc ≤ r.next + d - 1) then some .ringPosition
  else none

/-- ATTENTION_VERIFY (R144, R145): the checks and the staging; its attention then runs by units. -/
def execAttentionVerify (c i : Nat) (errs : List SectorErr) (s : State) : Host.Outcome State Fault Refusal :=
  done <|
    let s := s.opRecover c i (PlanOp.isAtt 2) errs
    match s.opOf c i with
    | some (_, p, _, .attention f, _) =>
      if !s.mayIssue c i || f.op != 2 then s
      else
        (s.opBegin c i .none).ringBegin c i f fun r s =>
          s.opTry c i (s.treeParents c p f f.qLen) fun par =>
            match par.2, treeFails r par.1 with
            | some pa, _ => s.attPoisoned c i f pa
            | none, some st => s.attStop c i f st
            | none, none =>
              let ds := treeDepths par.1
              s.opTry c i ((s.ringPartial c r true (List.range f.qLen) errs).ringStores c i p f r true fun n => (n, r.next + nth ds n - 1)) fun s =>
              s.opTry c i (s.ringFields c f.ringDesc [(16, 4, r.next), (12, 1, f.qLen)]) fun s =>
                s.progSet c i (.att (AttProg.start (some r) par.1))
    | _ => s

/-- Begin an operation over keys in memory or in circulation; one whose group has not formed waits (R154), one whose group has failed
or is gone fails (R165, R368). -/
def State.attBegin (s : State) (c i : Nat) (f : AttF) : State :=
  if f.kvSrc = 1 then
    (match s.eddyOf c with
     | none => (s.opBegin c i .none).attStop c i f .eddyLink
     | some g =>
       if g.2.form.state = 2 then (s.opBegin c i .none).attStop c i f .eddyLink
       else if g.2.form.state = 1 ∧ g.2.op.isNone then
         (s.opBegin c i (.att (AttProg.start none []))).eddyDo c fun g => { g with op := some i }
       else s)
  else s.opBegin c i (.att (AttProg.start none []))

/-- ATTENTION_FORWARD (R119, R126, R139, R154). -/
def execAttentionForward (c i : Nat) (errs : List SectorErr) (s : State) : Host.Outcome State Fault Refusal :=
  done <|
    let s := s.opRecover c i (PlanOp.isAtt 0) errs
    match s.opOf c i with
    | some (_, _, _, .attention f, _) =>
      if !s.mayIssue c i || f.op != 0 then s
      else if f.kvSrc = 2 then
        (s.opBegin c i .none).ringBegin c i f fun r s => s.progSet c i (.att (AttProg.start (some r) []))
      else s.attBegin c i f
    | _ => s

/-- ATTENTION_BACKWARD (R134). -/
def execAttentionBackward (c i : Nat) (errs : List SectorErr) (s : State) : Host.Outcome State Fault Refusal :=
  done <|
    let s := s.opRecover c i (PlanOp.isAtt 1) errs
    match s.opOf c i with
    | some (_, _, _, .attention f, _) => if !s.mayIssue c i || f.op != 1 then s else s.attBegin c i f
    | _ => s

/-! ## Claims and commits -/

/-- Does a unit wait for a circulated block (R136): one that is not here and that its positions alone do not let it skip (R130)? -/
def AEnv.stalled (e : AEnv) (s : State) (w : AttWork) : Bool :=
  let waits (n b g : Nat) (rows : List Nat) : Bool := !e.present n b g && (match e.keyRefs s n b g false with
    | .ok near => !(near.2.isNone && e.f.skips false (rows.map e.qPos) [] near.1)
    | .error _ => true)
  if w.fin then false
  else if e.f.back then
    (match (e.partBlocks (w.unit % e.f.dqParts))[w.blk]? with
     | some b => waits 32 b (w.unit / e.f.dqParts / e.f.group) (e.f.rowsIn 64 w.qb)
     | none => false)
  else waits 64 w.blk (w.unit / e.f.bq / e.f.group) (e.f.rowsIn 32 (w.unit % e.f.bq))

/-- A new unit for a position; backward starts its query-gradient rows at +0. -/
def AEnv.newUnit (e : AEnv) (s : State) (pos : Nat) : Except OpErr State :=
  let u := e.g.next
  let s := s.attDo e.c e.i fun g => { g with next := u + 1 }
  if e.f.back then
    let h := u / e.f.dqParts
    wrAll (fun s q => e.wrPartial s h (u % e.f.dqParts) q (List.replicate e.f.headDim ⟨0, false, false, false, 0⟩))
      (s.attSet e.c pos (AttWork.start e.i u 0 0)) (List.range e.f.qLen)
  else .ok (s.attSet e.c pos (AttWork.start e.i u (e.f.rowsIn 32 (u % e.f.bq)).length e.f.headDim))

/-- An attention claim (R73, R125): the next unit in order. A unit that waits for a circulated block is set aside for another (log 38),
and its SFU requests are withdrawn. -/
def State.attClaim (s : State) (c pos i : Nat) : State :=
  match s.attOp c i, s.coreOf c pos with
  | some e, some _ =>
    let cur := kvGet (ckey c pos) s.att
    let free := match cur with | none => true | some w => w.op == i && e.stalled s w
    if !free || (kvGet (ckey c pos) s.tiles).isSome then s
    else
      let s := { s with sfu := kvMap (fun _ f => { f with reqs := f.reqs.filter fun q => !(q.att && q.ctx == c && q.pos == pos) }) s.sfu }
      let park (g : AttProg) : AttProg := match cur with | some w => { g with parked := g.parked ++ [{ w with sfu := none }] } | none => g
      let unpark (u : Nat) (g : AttProg) : AttProg := { g with parked := g.parked.filter fun w => w.unit != u }
      match e.g.parked.find? fun w => !e.stalled s w with
      | some w => (s.attDo c i fun g => park (unpark w.unit g)).attSet c pos w
      | none =>
        if e.g.next < e.f.units then s.opTry c i (e.newUnit (s.attDo c i park) pos) fun s => s
        else match cur, e.g.parked with
          | none, w :: _ => (s.attDo c i (unpark w.unit)).attSet c pos w
          | _, _ => s
  | _, _ => s

/-- The ranges that a unit's commit stores to. -/
def AEnv.unitWrites (e : AEnv) (unit : Nat) : List (Nat × Nat) :=
  if e.f.back then []
  else
    let h := unit / e.f.bq
    let rows := e.f.rowsIn 32 (unit % e.f.bq)
    e.rowRanges e.f.oDesc h rows ++ (match e.p.ten e.f.lseDesc with | some d => rows.map fun i => (d.at [h, i], 4) | none => [])

/-- The ranges that a unit's next step reaches: its rows and key block, or what its commit stores to (R126, R134, R76). -/
def AEnv.nextRanges (e : AEnv) (w : AttWork) : List (Nat × Nat) :=
  if w.fin then e.unitWrites w.unit
  else if e.f.back then
    let h := w.unit / e.f.dqParts
    match (e.partBlocks (w.unit % e.f.dqParts))[w.blk]? with
    | some b => e.backReads h (w.unit % e.f.dqParts) (h / e.f.group) b (e.f.rowsIn 64 w.qb)
    | none => []
  else
    let h := w.unit / e.f.bq
    e.fwdReads h (h / e.f.group) w.blk (e.f.rowsIn 32 (w.unit % e.f.bq))

/-- An attention commit (R76, R77, R138): the finished rows are written, a poisoned unit's are poisoned, a duplicate's discarded. Sectors written in
part are read first (R188). -/
def State.attCommit (s : State) (c pos : Nat) (check : Check) (errs : List SectorErr) : State :=
  match s.attWork c pos with
  | none => s
  | some (w, e, core) =>
    let out := s.physSpans c (e.unitWrites w.unit)
    let s := if w.fin then s.recoverPartial c out errs else s
    if !w.fin || s.rebuildDue out || !s.mayStore core then s
    else if check ≠ .pass ∧ !w.poisoned then (s.telAdd core (checkCounter check 12) 1).attFail c pos core w.blk w
    else
      let h := w.unit / e.f.bq
      let qb := w.unit % e.f.bq
      let clear (s : State) : State := { s with att := kvDel (ckey c pos) s.att }
      if e.g.commit.contains w.unit then (clear (s.opDo c w.op fun o => { o with dup := true })).attEnd c w.op
      else
        let s := s.attDo c w.op fun g =>
          { g with commit := insNat w.unit g.commit, poisoned := if w.poisoned then insNat w.unit g.poisoned else g.poisoned }
        let r : Except OpErr State :=
          if w.poisoned then .ok (if e.f.back then s.opSpoil c w.op else (s.opSpoil c w.op).attPoisonRows e h (e.f.rowsIn 32 qb))
          else
            let s := s.opCount c w.op w.num
            if e.f.back then .ok s else s.attWrite e w h qb
        s.opTry c w.op r fun s => (clear s).attEnd c w.op

/-- CLAIM_REPLY (R73 to R75, R125). -/
def execClaimReply (c pos i : Nat) (s : State) : Host.Outcome State Fault Refusal :=
  done (if (s.matOp c i).isSome then s.matClaim c pos i else s.attClaim c pos i)

/-- COMMIT_REPLY (R76, R77, R87, R138). -/
def execCommitReply (c pos : Nat) (g : CommitIn) (s : State) : Host.Outcome State Fault Refusal :=
  done (if (s.workOf c pos).isSome then s.matCommit c pos g.parity g.errs else s.attCommit c pos g.parity g.errs)

end Sys2Proof.Machine
end

