-- ==== Sys2Proof/Machine/Formation.lean ====
section
/-! DEFINITION. Formation of the groups that join modules (06_eddy_ring R149 to R151, 08 R225, 09 R232 and R233, 11 R287, 17 R407),
and the units that protocols hand to ports. -/
namespace Sys2Proof.Machine

/-- The first event code of a protocol: FORM; then BROKEN, then STALL (R417). -/
def protoEvent : Proto → Nat
  | .trade => 0x0501 | .eddy => 0x0511 | .expx => 0x0521 | .stage => 0x0531

/-- The create's opcode (R359). -/
def protoOpcode : Proto → Nat
  | .trade => 0x0510 | .eddy => 0x0520 | .expx => 0x0530 | .stage => 0x0540

def protoMismatch : Proto → Status
  | .trade => .tradeFormMismatch | .eddy => .eddyFormMismatch | .expx => .expxFormMismatch | .stage => .stageFormMismatch

def protoTimeout : Proto → Status
  | .trade => .tradeFormTimeout | .eddy => .eddyFormTimeout | .expx => .expxFormTimeout | .stage => .stageFormTimeout

/-- The key of a group: context and tag. -/
def gkey (ctx tag : Nat) : Nat := ctx * 2 ^ 32 + tag

/-! ## What formation sees of a group -/

/-- A member as formation sees it: in-ports with the rank and module expected there, ports that carry FORM, ports to the successor. -/
structure FormView where
  proto : Proto
  ctx : Nat
  tag : Nat
  size : Nat
  rank : Nat
  digest : BitVec 128
  ins : List (Nat × Nat × Nat)
  outs : List Nat
  succ : List Nat

/-- Packed fields as bytes (R361): values with their widths. -/
def packBytes (l : List (Nat × Nat)) : List Byte :=
  let ws := l.map Prod.snd
  let ps := (layout 0 ws).1
  leBytes (packedSize 0 ws) ((List.zip l ps).map fun x => x.1.1 * 2 ^ x.2.1).sum

/-- The first 128 bits of SHAKE256 over packed fields (R150; log 35). -/
def formDigest (l : List (Nat × Nat)) : BitVec 128 := (Config.shake256 (packBytes l)).setWidth 128

/-- Fields of 16 bits. -/
def members16 (l : List Nat) : List (Nat × Nat) := l.map fun m => (m, 16)

/-- In-ports with their sender. -/
def insOf (ports members : List Nat) (rank : Nat) : List (Nat × Nat × Nat) := ports.map fun p => (p, rank, nth members rank)

/-- R149, R150. -/
def eddyView (f : EddyFields) : FormView :=
  { proto := .eddy, ctx := f.ctx, tag := f.tag, size := f.size, rank := f.rank,
    digest := formDigest (members16 f.members ++ [(f.ports, 3), (f.layout, 2), (f.slice, 22), (f.pos0, 32)]),
    ins := insOf (f.portIn.take f.ports) f.members ((f.rank + f.size - 1) % f.size), outs := f.portOut.take f.ports,
    succ := f.portOut.take f.ports }

/-- R225: the digest covers the Eddy fields that remain. -/
def expxView (f : ExpxFields) : FormView :=
  { proto := .expx, ctx := f.ctx, tag := f.tag, size := f.size, rank := f.rank,
    digest := formDigest (members16 f.members ++ [(f.ports, 3), (f.pos0, 32)]),
    ins := insOf (f.portIn.take f.ports) f.members ((f.rank + f.size - 1) % f.size), outs := f.portOut.take f.ports,
    succ := f.portOut.take f.ports }

/-- Mesh ports with the ranks they lead to (R231). -/
def meshPorts (f : TradeFields) : List (Nat × Nat) :=
  if f.node ≤ 1 then []
  else ((List.range f.node).filter fun l => l != f.rank % f.node).map fun l => (nth f.mesh l, f.rank / f.node * f.node + l)

/-- R232, R233. -/
def tradeView (f : TradeFields) : FormView :=
  let mesh := meshPorts f
  { proto := .trade, ctx := f.ctx, tag := f.tag, size := f.size, rank := f.rank,
    digest := formDigest (members16 f.members ++ [(f.ports, 3), (f.node, 4), (f.gports, 3)]),
    ins := insOf (f.portIn.take f.ports) f.members ((f.rank + f.size - 1) % f.size)
      ++ insOf (f.gportIn.take f.gports) f.members ((f.rank + f.size - f.node) % f.size)
      ++ mesh.map fun m => (m.1, m.2, nth f.members m.2),
    outs := f.portOut.take f.ports ++ f.gportOut.take f.gports ++ mesh.map Prod.fst, succ := f.portOut.take f.ports }

/-- R287: the digest covers the fields that both ends share, each end's module and context in the producer's order. -/
def stageView (me : Nat) (f : StageFields) : FormView :=
  let ends := if f.consumer then [(f.peer, 16), (f.peerCtx, 10), (me, 16), (f.ctx, 10)] else [(me, 16), (f.ctx, 10), (f.peer, 16), (f.peerCtx, 10)]
  { proto := .stage, ctx := f.ctx, tag := f.tag, size := 2, rank := if f.consumer then 1 else 0,
    digest := formDigest (ends ++ [(f.ports, 3), (f.slots, 8), (f.itemBytes, 32)]),
    ins := (f.port.take f.ports).map fun p => (p, if f.consumer then 0 else 1, f.peer), outs := f.port.take f.ports,
    succ := f.port.take f.ports }

/-- A group's view and formation. -/
def State.formGet (s : State) (p : Proto) (ctx tag : Nat) : Option (FormView × Form) :=
  let k := gkey ctx tag
  match p with
  | .eddy => (kvGet k s.eddy).map fun g => (eddyView g.f, g.form)
  | .trade => (kvGet k s.trade).map fun g => (tradeView g.f, g.form)
  | .expx => (kvGet k s.expx).map fun g => (expxView g.f, g.form)
  | .stage => (kvGet k s.stageQ).map fun g => (stageView s.vl.moduleId g.f, g.form)

/-- Change a group's formation. -/
def State.formDo (s : State) (p : Proto) (ctx tag : Nat) (f : Form → Form) : State :=
  let k := gkey ctx tag
  match p with
  | .eddy => { s with eddy := kvMap (fun j g => if j = k then { g with form := f g.form } else g) s.eddy }
  | .trade => { s with trade := kvMap (fun j g => if j = k then { g with form := f g.form } else g) s.trade }
  | .expx => { s with expx := kvMap (fun j g => if j = k then { g with form := f g.form } else g) s.expx }
  | .stage => { s with stageQ := kvMap (fun j g => if j = k then { g with form := f g.form } else g) s.stageQ }

/-! ## Steps of formation -/

/-- The create completes with a status. -/
def State.formReply (s : State) (p : Proto) (ctx tag : Nat) (st : Status) : State :=
  match s.formGet p ctx tag with
  | some (_, f) =>
    (match f.pkt with
     | some (h, _) => (s.formDo p ctx tag fun f => { f with pkt := none }).replyWrite h (protoOpcode p) 1 st []
     | none => s)
  | none => s

/-! ## Lapse (R438) -/

/-- A schedule lapses. -/
def State.fwLapse (s : State) : State :=
  match s.fw.sched with
  | none => s
  | some x =>
    let d := leBytes 4 x.1 ++ zeros 4 ++ leBytes 8 x.2
    let s := s.post 0x0803 noCtx d
    let s := s.journal 0x0006 false noCtx (zeros 4 ++ leBytes 4 x.1 ++ leBytes 8 x.2)
    { s with fw := { s.fw with sched := none, schedDecided := false } }

/-- A schedule lapses with its ring, unless its calm point is already decided. -/
def State.ringLapse (s : State) (tag : Nat) : State :=
  match s.fw.sched with
  | some x => if x.1 = tag ∧ !s.fw.schedDecided then s.fwLapse else s
  | none => s

/-! ## The end of forming (R150, R151) -/

/-- Formation fails (R151): FAILED, the event, the create's status; with a Trade ring its schedule lapses (R438). -/
def State.formFail (s : State) (p : Proto) (ctx tag reason port : Nat) (st : Status) : State :=
  let s := s.formDo p ctx tag fun f => { f with state := 2 }
  let s := (s.post (protoEvent p) ctx (groupData tag reason port 0)).formReply p ctx tag st
  if p = .trade then s.ringLapse tag else s

/-- The member is FORMED (R150 step 4). -/
def State.formDone (s : State) (p : Proto) (ctx tag : Nat) : State :=
  (s.formDo p ctx tag fun f => { f with state := 1 }).formReply p ctx tag .ok

/-- Send a message to the successor. -/
def State.sendNext (s : State) (v : FormView) (kind : Nat) : State :=
  match v.succ with
  | [] => s
  | p :: _ => s.sendUnit p 0 v.ctx v.tag (ctlMsg kind (leBytes 4 v.tag))

/-- Send or forward SEAL once every in-port has passed: rank 0 on its own, the others when it has arrived (R150 step 3). -/
def State.formSeal (s : State) (p : Proto) (ctx tag : Nat) : State :=
  match s.formGet p ctx tag with
  | none => s
  | some (v, f) =>
    if f.state = 0 && !f.sealSent && v.ins.all (fun i => f.inOk.contains i.1) && (v.rank == 0 || f.sealIn) then
      (s.formDo p ctx tag fun f => { f with sealSent := true }).sendNext v msgSeal
    else s

/-- The ports of a group are UP with peers of the module's own class (R407): the port that is not, with its reason. -/
def State.portsBad (s : State) (l : List Nat) : Option (Nat × Nat) :=
  l.findSome? fun p => match s.ports[p]? with
    | none => some (p, 4)
    | some q => if q.state ≠ 3 then some (p, 4) else if q.peerClass ≠ s.ident.cls then some (p, 1) else none

/-- Is a port present and free (R149)? -/
def State.portFree (s : State) (p : Nat) : Bool :=
  match s.ports[p]? with
  | none => false
  | some q => q.state != 1 && q.use == 0

/-- Bind ports to a group, or free them (R411). -/
def State.bindPorts (s : State) (l : List (Nat × Nat)) (tag : Nat) : State :=
  l.foldl (fun s x => { s with ports := s.ports.modify x.1 fun q => { q with use := x.2, bind := tag } }) s

/-- Start formation (R150 step 1): FORM on every port, with the tag, N, the rank and the digest. -/
def State.formStart (s : State) (v : FormView) : State :=
  match s.portsBad (v.ins.map Prod.fst ++ v.outs) with
  | some (p, reason) => s.formFail v.proto v.ctx v.tag reason p (protoMismatch v.proto)
  | none =>
    let msg := ctlMsg msgForm (leBytes 4 v.tag ++ leBytes 2 v.size ++ leBytes 2 v.rank ++ leBytes 16 v.digest.toNat)
    (v.outs.foldl (fun s p => s.sendUnit p 0 v.ctx v.tag msg) s).formSeal v.proto v.ctx v.tag

/-- A group as its create leaves it. -/
def Form.new (h : PktHead) (since : Nat) : Form := { state := 0, inOk := [], sealIn := false, sealSent := false, pkt := some (h, since) }

/-! ## Commands -/

/-- The module at the other end of a port, as the identity exchange of its training gave it (R395, R406). -/
def State.portPeer (s : State) (p : Nat) : Option Nat := (s.ports[p]?).bind fun q => if q.peerValid then some q.peerId else none

/-- FORM_MESSAGE (R150 step 2, R151): tag, size and digest as its own, the sender's rank, and the sending module, which the training of the port named
(R406). -/
def execFormMessage (m : FormMsg) (s : State) : Host.Outcome State Fault Refusal :=
  done <|
    match (match s.formGet m.proto m.ctx m.tag with
      | some x => some x
      | none => ((match m.proto with
          | .eddy => s.eddy.map Prod.fst
          | .trade => s.trade.map Prod.fst
          | .expx => s.expx.map Prod.fst
          | .stage => s.stageQ.map Prod.fst).filter fun k => k / 2 ^ 32 == m.ctx).findSome? fun k =>
            (s.formGet m.proto m.ctx (k % 2 ^ 32)).filter fun x => x.1.ins.any fun i => i.1 == m.port) with
    | none => s
    | some (v, f) =>
      if f.state ≠ 0 then s
      else match v.ins.find? fun i => i.1 == m.port with
        | none => s
        | some i =>
          if m.tag ≠ v.tag ∨ m.size ≠ v.size ∨ m.digest ≠ v.digest then s.formFail v.proto v.ctx v.tag 0 m.port (protoMismatch v.proto)
          else if m.rank ≠ i.2.1 ∨ s.portPeer m.port ≠ some i.2.2 then s.formFail v.proto v.ctx v.tag 1 m.port (protoMismatch v.proto)
          else (s.formDo v.proto v.ctx v.tag fun f => { f with inOk := insNat m.port f.inOk }).formSeal v.proto v.ctx v.tag

/-- SEAL_MESSAGE (R150 step 3): forwarded, or back at rank 0, which sends SEALED. -/
def execSealMessage (p : Proto) (ctx tag : Nat) (s : State) : Host.Outcome State Fault Refusal :=
  done <|
    match s.formGet p ctx tag with
    | none => s
    | some (v, f) =>
      if f.state ≠ 0 then s
      else if v.rank = 0 then
        if f.sealSent && !f.sealIn then (s.formDo p ctx tag fun f => { f with sealIn := true }).sendNext v msgSealed else s
      else (s.formDo p ctx tag fun f => { f with sealIn := true }).formSeal p ctx tag

/-- SEALED_MESSAGE (R150 steps 3 and 4). -/
def execSealedMessage (p : Proto) (ctx tag : Nat) (s : State) : Host.Outcome State Fault Refusal :=
  done <|
    match s.formGet p ctx tag with
    | none => s
    | some (v, f) =>
      if f.state ≠ 0 ∨ !f.sealSent then s
      else if v.rank = 0 then (if f.sealIn then s.formDone p ctx tag else s)
      else (s.sendNext v msgSealed).formDone p ctx tag

/-- FORM_TIMEOUT (R151): a member that is not FORMED fails. -/
def execFormTimeout (p : Proto) (ctx tag : Nat) (s : State) : Host.Outcome State Fault Refusal :=
  done <|
    match s.formGet p ctx tag with
    | some (_, f) => if f.state = 0 then s.formFail p ctx tag 2 0xFF (protoTimeout p) else s
    | none => s

end Sys2Proof.Machine
end

