-- ==== Sys2Proof/Machine/Eddy.lean ====
section
/-! DEFINITION. The Eddy ring (06_eddy_ring): groups, landing, forwarding, credit, resends and failures. -/
namespace Sys2Proof.Machine

/-! ## Blocks as bytes (R156, R157) -/

/-- The body of a block: BF16 rows of keys and values by local index. -/
def AEnv.ownPlane (e : AEnv) (s : State) (desc h first : Nat) : Rd (List Byte) :=
  match e.p.ten desc with
  | none => .ok ([], none)
  | some d =>
    match rdAll (fun k => s.rdBytes e.c (d.at [h, first + k, 0]) (2 * e.f.headDim)) (List.range 64) with
    | .error x => .error x
    | .ok l => .ok (l.1.flatten, l.2)

/-- Document IDs of the own slice from a local index on. -/
def AEnv.ownDocs (e : AEnv) (s : State) (first : Nat) : Rd (List Nat) :=
  if e.f.docs then rdAll (fun k => e.docAt s (first + k)) (List.range 64) else .ok ([], none)

/-- The 64-byte header (R156). -/
def eddyHeader (g : Eddy) (step owner head u kind : Nat) (docs : List Nat) (lastHop : Bool) (dest : Nat) : List Byte :=
  let ps := (List.range 64).map fun k => eddyPos g.f owner (64 * u + k)
  let lo := (minMax ps).getD (0, 0)
  let dm := (minMax (docs.filter (· != noDoc))).getD (noDoc, noDoc)
  leBytes 4 g.circ ++ leBytes 8 step ++ leBytes 2 owner ++ leBytes 2 head ++ leBytes 4 u ++ leBytes 4 lo.1 ++ leBytes 4 lo.2
    ++ leBytes 4 dm.1 ++ leBytes 4 dm.2 ++ leBytes 1 kind ++ leBytes 1 (b2n (!docs.isEmpty) + 2 * b2n lastHop) ++ leBytes 2 dest ++ zeros 24

/-- Travelling partials as bytes: key gradients, value gradients, then their flags (R157). -/
def gradBytes (dk dv : List Entry) : List Byte :=
  ((dk ++ dv).flatMap fun x => leBytes 4 x.v.toNat) ++ packNib ((dk ++ dv).map Entry.fl)

/-- Travelling partials read back; `n` elements of each. -/
def gradOf (l : List Byte) (n : Nat) : List Entry × List Entry :=
  let ent (k : Nat) : Entry :=
    ⟨BitVec.ofNat 32 (field l (4 * k) 4), BitVec.ofNat 4 (bits (field l (8 * n + k / 2) 1) (4 * (k % 2)) 4), false⟩
  ((List.range n).map ent, (List.range n).map fun k => ent (n + k))

/-- Offset of the partials in a block of this kind. -/
def gradOffset (kind d : Nat) (docs : Bool) : Nat := eddyBytes (if kind = 2 then 2 else 0) d docs - (if kind = 2 then 576 * d else 0)

/-- This member's contribution to block (rotation t, u) of a head: its two halves; none without a visible pair (R162). -/
def AEnv.blockContrib (e : AEnv) (g : Eddy) (t u h : Nat) : Option (List Entry × List Entry) :=
  let b := t * (g.f.slice / 32) + 2 * u
  let zero := List.replicate (32 * e.f.headDim) Entry.zero
  match e.contrib h b, e.contrib h (b + 1) with
  | none, none => none
  | x, y =>
    let x := x.getD (zero, zero)
    let y := y.getD (zero, zero)
    some (x.1 ++ y.1, x.2 ++ y.2)

/-- Has every unit that contributes to a block passed it (R160)? -/
def State.contribDone (s : State) (e : AEnv) (g : Eddy) (t u h : Nat) : Bool :=
  let ws := s.attWorks e
  [0, 1].all fun k =>
    let b := t * (g.f.slice / 32) + 2 * u + k
    (List.range e.f.dqParts).all fun r =>
      let bl := e.partBlocks r
      !bl.contains b || (e.f.heads h).all fun q =>
        let un := q * e.f.dqParts + r
        e.g.commit.contains un || ws.any fun w => w.unit == un && (w.fin || decide ((bl.filter fun x => decide (x ≤ b)).length ≤ w.blk))

/-- Add a contribution to partials (R162 step 3). -/
def addContrib (flush : Bool) (x : List Entry) (c : List Entry) : List Entry :=
  (List.zip x c).map fun z => accAdd flush z.1 ⟨z.2.v, z.2.fl, z.2.nin⟩

/-! ## Failure (R158, R165) -/

/-- The group of a context fails, and with it the operation in progress, whose outputs stay as they have been written so far (R165; log 124). -/
def State.eddyFail (s : State) (c reason port : Nat) (st : Status) : State :=
  match s.eddyOf c with
  | none => s
  | some g =>
    let step := match (kvGet c s.ctxs).bind Ctx.run with | some r => r.step | none => 0
    let s := s.eddyDo c fun g => { g with form := { g.form with state := 2 } }
    let s := s.post 0x0512 c (groupData g.2.f.tag reason port step)
    match g.2.op with
    | none => s
    | some i =>
      match s.attOp c i with
      | none => s
      | some e => (s.abandonOp c i).opEnd c i st (e.g.extra e.f)

/-- After a port went DOWN: groups with no out-port or no in-port left fail (R165), and with one that still forms its create (log 39). -/
def State.eddyPorts (s : State) : State :=
  s.eddy.foldl (fun s e =>
    let g := e.2
    if g.form.state ≠ 2 && (!((g.f.portOut.take g.f.ports).any s.portAlive) || !((g.f.portIn.take g.f.ports).any s.portAlive)) then
      (s.eddyFail (e.1 / 2 ^ 32) 4 0xFF .eddyLink).formReply .eddy (e.1 / 2 ^ 32) g.f.tag .eddyLink
    else s) s

/-! ## Host commands (R149, R152) -/

/-- The limits of R148 and R149. -/
def EddyFields_ok (f : EddyFields) : Bool :=
  let n := f.size * f.slice
  decide (1 ≤ f.ctx ∧ f.ctx ≤ 1023 ∧ 2 ≤ f.size ∧ f.size ≤ 256 ∧ f.rank < f.size ∧ 1 ≤ f.ports ∧ f.ports ≤ 4 ∧ f.layout ≤ 1)
    && decide (64 ≤ f.slice ∧ f.slice ≤ 2 ^ 21) && f.slice % (if f.layout = 1 then 128 else 64) == 0
    && decide (n ≤ 2 ^ 24 ∧ f.pos0 + n ≤ 0xFFFFFFFF ∧ 2 ≤ f.slots ∧ f.slots ≤ 4) && f.landBase % 2 ^ 21 == 0
    && decide f.members.Nodup && decide (f.portOut.take f.ports ++ f.portIn.take f.ports).Nodup

/-- EDDY_GROUP_CREATE (R148 to R151): completes with formation. -/
def execEddyGroupCreate (h : PktHead) (f : EddyFields) (s : State) : Host.Outcome State Fault Refusal :=
  .next <| s.commit h 0x0520 1 fun s =>
    let ports := f.portOut.take f.ports ++ f.portIn.take f.ports
    if !EddyFields_ok f || (s.eddyOf f.ctx).isSome || decide (16 ≤ s.eddy.length) || !(ports.all s.portFree) then
      s.replyWrite h 0x0520 1 .eddyFormMismatch []
    else if (kvGet f.ctx s.ctxs).isNone then s.replyWrite h 0x0520 1 .ctxUnknown []
    else
      let g : Eddy := { f := f, form := Form.new h s.refCount, circ := 0, op := none, blocks := [], ownSent := 0, credit := 0,
                        granted := 0, freed := 0 }
      let s := { s with eddy := kvSet (gkey f.ctx f.tag) g s.eddy }
      (s.bindPorts (ports.map fun p => (p, 1)) f.tag).formStart (eddyView f)

/-- EDDY_GROUP_DESTROY (R152): a circulation in progress fails with ST_EDDY_LINK, and EV_EDDY_BROKEN is posted with reason 4 (DESIGN CHOICE: R152 names
the status alone; log 124); a create that still forms times out (log 39). -/
def execEddyGroupDestroy (h : PktHead) (tag ctx : Nat) (s : State) : Host.Outcome State Fault Refusal :=
  s.command h 0x0521 1 fun s =>
    match kvGet (gkey ctx tag) s.eddy with
    | none => refuse .eddyNoGroup s
    | some g =>
      let s := if g.op.isSome then s.eddyFail ctx 4 0xFF .eddyLink else s
      let s := s.formReply .eddy ctx tag .eddyFormTimeout
      let s := s.bindPorts ((g.f.portOut.take g.f.ports ++ g.f.portIn.take g.f.ports).map fun p => (p, 0)) 0
      (.ok, [], { s with eddy := kvDel (gkey ctx tag) s.eddy })

/-- The rotation in use: the first that some local unit has yet to apply (R152). -/
def State.curRotation (s : State) (c : Nat) (g : Eddy) : Nat :=
  match g.op.bind (s.attOp c) with
  | none => 0
  | some e => ((List.range g.f.size).find? fun t => !s.rotApplied e g t).getD (g.f.size - 1)

/-- EDDY_GROUP_QUERY (R152; 64 bits each, log 18): state, circulation, rotation, landing slots in use. -/
def execEddyGroupQuery (h : PktHead) (tag ctx : Nat) (s : State) : Host.Outcome State Fault Refusal :=
  s.command h 0x0522 1 fun s =>
    match kvGet (gkey ctx tag) s.eddy with
    | none => refuse .eddyNoGroup s
    | some g =>
      (.ok, leBytes 8 g.form.state ++ leBytes 8 g.circ ++ leBytes 8 (s.curRotation ctx g)
        ++ leBytes 8 ((g.blocks.map EBlock.rot).dedup).length, s)

/-! ## Circulation -/

/-- A circulation in progress on a context. -/
def State.circOf (s : State) (c : Nat) : Option (Eddy × AEnv × Run) :=
  match s.eddyOf c with
  | none => none
  | some g =>
    match g.2.op, (kvGet c s.ctxs).bind Ctx.run with
    | some i, some r => if g.2.form.state = 1 then (s.attOp c i).map fun e => (g.2, e, r) else none
    | _, _ => none

/-- Does the context's sequencer send and grant: it counts as saved once every position is (R167, R344)? -/
def State.circRuns (s : State) (c : Nat) : Bool := s.running && (match kvGet c s.ctxs with | some x => !x.countsSaved | none => false)

/-- A gradient block back at its owner: dk and dv are written (R163). -/
def State.eddyReturn (s : State) (g : Eddy) (e : AEnv) (u h kind : Nat) (bad : Bool) : Except OpErr State :=
  let n := 64 * e.f.headDim
  match s.rdBytes e.c (g.blockAddr e.f g.f.size u h + gradOffset kind e.f.headDim e.f.docs) (9 * n) with
  | .error x => .error x
  | .ok l =>
    let p := gradOf l.1 n
    let half (k : Nat) (x : List Entry) : List Entry := (x.drop (k * (n / 2))).take (n / 2)
    wrAll (fun s k => e.wrBlock s h (2 * u + k) (64 * u + 32 * k) (bad || l.2.isSome) (half k p.1) (half k p.2)) s [0, 1]

/-- Pass a resent block on (R166): a member between passes it on whether or not its own operation still runs. -/
def State.passResend (s : State) (c : Nat) (g : Eddy) (b : List Byte) (poisoned : Bool) : State :=
  match s.sharePort (g.f.portOut.take g.f.ports) (field b 16 4) with
  | some p => s.sendMarked p 2 c g.f.tag b poisoned
  | none => s

/-- The bytes of a resent block that a landed block takes: keys, values and document IDs, of which one of kind 2 holds the IDs only (R157, R166). -/
def EBlock.resent (x : EBlock) (d : Nat) (b : List Byte) : List Byte := if x.kind = 2 then b.drop (64 + 256 * d) else b.drop 64

/-- A resent block reaches the member that asked for it (R166): the refill of each sector in error from its source (R185 step 2, R413), or poison with it. -/
def State.takeResend (s : State) (c : Nat) (g : Eddy) (e : AEnv) (t u h : Nat) (b : List Byte) (poisoned : Bool) : State :=
  match g.find t u h with
  | none => s
  | some x =>
    if !x.asked then s
    else
      let a := g.blockAddr e.f t u h + 64
      let l := x.resent e.f.headDim b
      s.opTry c e.i (s.wrBytes c a l) fun s =>
        let s := if poisoned then s.vpoison c a l.length else x.bad.foldl (fun s k => (s.telAdd ((s.memUnit (64 * k)).getD 0) 9 1).recovered c) s
        s.eddyDo c fun g => g.setBlock t u h fun x => { x with asked := false, poisoned := x.poisoned || poisoned }

/-- Does a block differ from the circulation that the plan has reached (R158)? -/
def Eddy.skewed (g : Eddy) (f : AttF) (step : Nat) (b : List Byte) : Bool :=
  let kind := field b 36 1
  decide (field b 0 4 ≠ g.circ ∨ field b 4 8 ≠ step ∨ b.length ≠ eddyBytes kind f.headDim f.docs ∨ 3 < kind ∨ g.f.size ≤ field b 12 2
    ∨ g.per ≤ field b 16 4 ∨ f.kvHeads ≤ field b 14 2)

/-- The rotation in which a slice of a rank lands here; its own comes back in the last (R155, R162). -/
def Eddy.rotOf (g : Eddy) (own : Nat) : Nat := if own = g.f.rank then g.f.size else (g.f.rank + g.f.size - own) % g.f.size

/-- The errors that the owner meets where its own gradients have come back (R166, R185): in their landing slot, and in sectors of dk and dv that it
writes in part (R188). -/
def State.returnErrs (s : State) (g : Eddy) (e : AEnv) (u h kind : Nat) (errs : List SectorErr) : State :=
  let slot := s.physSpans e.c [(g.blockAddr e.f g.f.size u h, eddyBytes kind e.f.headDim e.f.docs)]
  (s.recoverErrs e.c slot errs).recoverPartial e.c (s.physSpans e.c (e.p.rangesOf [e.f.dkDesc, e.f.dvDesc])) errs

/-- A block of the circulation lands whole in its slot (R158, R159); its own back at the owner is written out (R163). -/
def State.landBlock (s : State) (c : Nat) (g : Eddy) (e : AEnv) (t u h : Nat) (b : List Byte) (l : Landing) : State :=
  let a := g.blockAddr e.f t u h
  let kind := field b 36 1
  if (g.find t u h).isSome ∨ t ≤ g.freed then s
  else
    s.opTry c e.i (s.wrBytes c a b) fun s =>
      let s := if l.poisoned then s.vpoison c (a + 64) (b.length - 64) else s
      let back := t == g.f.size
      let s := s.eddyDo c fun g =>
        { g with blocks := g.blocks ++ [{ rot := t, loc := u, head := h, kind := kind, hdr := b.take 64, sent := back, asked := false,
                                          poisoned := l.poisoned }] }
      if back then s.opTry c e.i ((s.returnErrs g e u h kind l.errs).eddyReturn g e u h kind l.poisoned) fun s => s.attEnd c e.i
      else s

/-- EDDY_BLOCK_LAND (R156 to R159, R163, R166, R402). -/
def execEddyBlockLand (c port : Nat) (b : List Byte) (poisoned : Landing) (s : State) : Host.Outcome State Fault Refusal :=
  done <| State.landed (c := c) (vc := 2) <|
    let s := s.progress 2 c 0
    let kind := field b 36 1
    let u := field b 16 4
    let h := field b 14 2
    match s.eddyOf c, s.circOf c with
    | none, _ => s
    | some g0, circ =>
      if kind = 3 && field b 38 2 != g0.2.f.rank then (if g0.2.form.state = 1 then s.passResend c g0.2 b poisoned.poisoned else s)
      else match circ with
        | none => s
        | some (g, e, r) =>
          let t := g.rotOf (field b 12 2)
          if g.skewed e.f r.step b then s.eddyFail c 3 port .eddySkew
          else if kind = 3 then s.takeResend c g e t u h b poisoned.poisoned
          else s.landBlock c g e t u h b poisoned

/-- Send a block to the successor, spending one landing credit (R159, R160). -/
def State.eddySend (s : State) (c : Nat) (g : Eddy) (u : Nat) (b : List Byte) (bad : Bool) : State :=
  match s.sharePort (g.f.portOut.take g.f.ports) u with
  | none => s
  | some p =>
    (s.eddyDo c fun g => { g with credit := g.credit - 1 }).sendMarked p 2 c g.f.tag b bad

/-- A block of the own slice in a kind (R157), with whether a source row reads as poisoned. -/
def AEnv.ownBlock (e : AEnv) (s : State) (g : Eddy) (step u h kind : Nat) (lastHop : Bool) (dest : Nat) : Rd (List Byte) :=
  match e.ownPlane s e.f.kDesc h (64 * u), e.ownPlane s e.f.vDesc h (64 * u), e.ownDocs s (64 * u) with
  | .ok k, .ok v, .ok d =>
    .ok (eddyHeader g step g.f.rank h u kind d.1 lastHop dest ++ k.1 ++ v.1 ++ d.1.flatMap (leBytes 4), pFirst k.2 (pFirst v.2 d.2))
  | .error x, _, _ => .error x
  | .ok _, .error x, _ => .error x
  | .ok _, .ok _, .error x => .error x

/-- Forward the own slice's next block (R160 to R162). -/
def State.forwardOwn (s : State) (c : Nat) (g : Eddy) (e : AEnv) (step : Nat) : State :=
  let u := g.ownSent / e.f.kvHeads
  let h := g.ownSent % e.f.kvHeads
  let rch := g.reach e.f g.f.rank u
  let pass (s : State) : State := s.eddyDo c fun g => { g with ownSent := g.ownSent + 1 }
  if rch = 0 then (pass s).attEnd c e.i
  else if g.credit = 0 ∨ (e.f.back ∧ !s.contribDone e g 0 u h) then s
  else
    let kind := if e.f.back then 1 else 0
    s.opTry c e.i (e.ownBlock s g step u h kind (!e.f.back && rch == 1) 0xFFFF) fun b =>
      let zero := List.replicate (64 * e.f.headDim) Entry.zero
      let fl := modeFlush e.f.numMode
      let c0 := e.blockContrib g 0 u h
      let grads := if e.f.back then
          (match c0 with
           | some x => gradBytes (addContrib fl zero x.1) (addContrib fl zero x.2)
           | none => gradBytes zero zero)
        else []
      let bad := b.2.isSome || (e.f.back && (e.contribBad h (2 * u) || e.contribBad h (2 * u + 1)))
      (pass (s.eddySend c g u (b.1 ++ grads) bad)).attEnd c e.i

/-- The landed block that leaves next: the first place in order that has not been forwarded or dropped. -/
def Eddy.nextOut (g : Eddy) (f : AttF) : Option (Nat × Nat × Nat) :=
  ((List.range (g.lastRot f - g.freed)).map (· + g.freed + 1)).findSome? fun t =>
    ((g.places f t).find? fun x => match g.find t x.1 x.2 with | some b => !b.sent | none => true).map fun x => (t, x.1, x.2)

/-- Forward or drop a landed block (R160 to R162, R166). -/
def State.forwardLanded (s : State) (c : Nat) (g : Eddy) (e : AEnv) (t u h : Nat) (x : EBlock) : State :=
  let rch := g.reach e.f (g.owner t) u
  let mark (s : State) : State := s.eddyDo c fun g => g.setBlock t u h fun b => { b with sent := true }
  let d := e.f.headDim
  let a := g.blockAddr e.f t u h
  if !e.f.back && (rch ≤ t || bitOf (field x.hdr 37 1) 1) then (mark s).attEnd c e.i
  else if g.credit = 0 ∨ x.asked then s
  else
    let body := eddyBytes (if x.kind = 2 then 2 else 0) d e.f.docs - (if x.kind = 2 then 576 * d else 0) - 64
    s.opTry c e.i (s.rdBytes c (a + 64) body) fun kv =>
      if kv.2.isSome && !x.poisoned then s.askAgain e g t u h []
      else if !e.f.back then
        let flags := field x.hdr 37 1 % 2 + (if rch = t + 1 then 2 else 0)
        let hdr := x.hdr.take 37 ++ leBytes 1 flags ++ x.hdr.drop 38
        (mark (s.eddySend c g u (hdr ++ kv.1) x.poisoned)).attEnd c e.i
      else if decide (t ≤ rch) && !s.contribDone e g t u h then s
      else
        s.opTry c e.i (s.rdBytes c (a + gradOffset x.kind d e.f.docs) (576 * d)) fun p =>
          let b := t * (g.f.slice / 32) + 2 * u
          let fl := modeFlush e.f.numMode
          let grads := if rch < t then p.1 else match e.blockContrib g t u h with
            | none => p.1
            | some q => let r := gradOf p.1 (64 * d); gradBytes (addContrib fl r.1 q.1) (addContrib fl r.2 q.2)
          let kind := if rch ≤ t then 2 else 1
          let hdr := x.hdr.take 36 ++ leBytes 1 kind ++ x.hdr.drop 37
          let bad := x.poisoned || p.2.isSome || (decide (t ≤ rch) && (e.contribBad h b || e.contribBad h (b + 1)))
          let kept := if kind = 2 then kv.1.drop (if x.kind = 2 then 0 else 256 * d) else kv.1
          (mark (s.eddySend c g u (hdr ++ kept ++ grads) bad)).attEnd c e.i

/-- EDDY_BLOCK_FORWARD (R160 to R162, R167). -/
def execEddyBlockForward (c : Nat) (errs : List SectorErr) (s : State) : Host.Outcome State Fault Refusal :=
  done <|
    match s.circOf c with
    | none => s
    | some (g, e, r) =>
      if !s.circRuns c then s
      else if g.ownSent < g.per * e.f.kvHeads then
        let own := opReads e.p (.attention e.f)
        let s := s.recoverRanges c own errs
        if s.rebuildDue (s.physSpans c own) then s else s.forwardOwn c g e r.step
      else
        match g.nextOut e.f with
        | none => s.attEnd c e.i
        | some (t, u, h) =>
          match g.find t u h with
          | none => s
          | some x =>
            let reads := [(g.blockAddr e.f t u h, eddyBytes x.kind e.f.headDim e.f.docs)]
            let s := (s.recoverRanges c reads (errs.filter fun y => !(lastingErr y && inSpans (s.planeSpans e g t u h) y))).landedErrs e g t u h errs
            match s.circOf c with
            | none => s
            | some (g, e, _) => match g.find t u h with | some x => s.forwardLanded c g e t u h x | none => s

/-- EDDY_CREDIT_GRANT (R159, R167): one block's credit for a slot that is free, for the circulation the plan has reached. -/
def execEddyCreditGrant (c : Nat) (s : State) : Host.Outcome State Fault Refusal :=
  done <|
    match s.circOf c with
    | none => s
    | some (g, e, _) =>
      let s := s.attEnd c e.i
      match s.circOf c with
      | none => s
      | some (g2, _, _) =>
        let open_ := ((List.range (min (g2.lastRot e.f) (g2.freed + g2.f.slots))).map fun t => (g2.places e.f (t + 1)).length).sum
        if !s.circRuns c || decide (open_ ≤ g2.granted) then s
        else
          let s := s.eddyDo c fun g => { g with granted := g.granted + 1 }
          match s.sharePort (g.f.portIn.take g.f.ports) g2.granted with
          | some p => s.sendUnit p 0 c g.f.tag (ctlMsg msgCredit (leBytes 4 g.f.tag ++ leBytes 4 1))
          | none => s

/-- EDDY_CREDIT_RECEIVE (R159). -/
def execEddyCreditReceive (c tag : Nat) (s : State) : Host.Outcome State Fault Refusal :=
  done <|
    match kvGet (gkey c tag) s.eddy with
    | some g => if g.form.state = 1 then (s.progress 2 c 0).eddyDo c fun g => { g with credit := g.credit + 1 } else s
    | none => s

/-- The circulation that a request names: the one in progress, or the one before, whose operation has ended here (R166). -/
def State.askedCirc (s : State) (c circ : Nat) : Option (Eddy × AEnv × Nat) :=
  match s.eddyOf c with
  | none => none
  | some g =>
    if g.2.form.state ≠ 1 then none
    else if circ = g.2.circ then (s.circOf c).map fun x => (x.1, x.2.1, x.2.2.step)
    else if circ + 1 = g.2.circ then
      match g.2.prev, (kvGet c s.ctxs).bind Ctx.plan with
      | some (i, step), some p => (match p.ops[i]? with
        | some (.attention f) => some ({ g.2 with circ := circ }, ⟨c, i, p, f, AttProg.start none [], some g.2⟩, step)
        | _ => none)
      | _, _ => none
    else none

/-- EDDY_RESEND_REQUEST (R166): the owner sends the block again as kind 3, also where its own operation has ended; another member passes the request
on, whether or not its own operation still runs. -/
def execEddyResendRequest (c own h u : Nat) (dest : ResendTo) (s : State) : Host.Outcome State Fault Refusal :=
  done <|
    match s.eddyOf c, s.askedCirc c dest.circ with
    | none, _ => s
    | some g0, circ =>
      if own ≠ g0.2.f.rank then
        (match s.sharePort (g0.2.f.portIn.take g0.2.f.ports) u with
         | some p => if g0.2.form.state = 1 then
             s.sendUnit p 0 c g0.2.f.tag (ctlMsg msgResend (leBytes 2 own ++ leBytes 2 h ++ leBytes 4 u ++ leBytes 2 dest.dest ++ leBytes 4 dest.circ)) else s
         | none => s)
      else match circ with
        | none => s
        | some (g, e, step) =>
          if g.per ≤ u ∨ e.f.kvHeads ≤ h then s
          else
            let s := s.recoverRanges c (opReads e.p (.attention e.f)) dest.errs
            match e.ownBlock s g step u h 3 false dest.dest, s.sharePort (g.f.portOut.take g.f.ports) u with
            | .ok b, some p => s.sendMarked p 2 c g.f.tag b.1 b.2.isSome
            | _, _ => s

/-- EDDY_STALL_TIMEOUT (R165). -/
def execEddyStallTimeout (c : Nat) (s : State) : Host.Outcome State Fault Refusal :=
  done <|
    match s.circOf c with
    | some (g, e, r) =>
      (match s.stallDue 2 c 0 g.f.stallLimit ((r.ops[e.i]?.map OpRun.began).getD 0) with
       | some x => x.2.post 0x0513 c (groupData g.f.tag 2 0xFF x.1)
       | none => s)
    | none => s

end Sys2Proof.Machine
end

