-- ==== Sys2Proof/Machine/Trade.lean ====
section
/-! DEFINITION. The Trade ring (09_trade_ring): trains, scale agreement, the order of addition, verdicts, the gather. -/
namespace Sys2Proof.Machine

/-! ## Trains as bytes (R235, R239, R240) -/

/-- Trains of a bucket (R235). -/
def Bucket.count (b : Bucket) : Nat := ceilDiv b.elems 4096

/-- Elements of train `t`. -/
def Bucket.span (b : Bucket) (t : Nat) : Nat := min 4096 (b.elems - 4096 * t)

/-- Bytes of one element of `BK_PARAM`. -/
def Bucket.psize (b : Bucket) : Nat := (fmtOf b.pfmt).size

/-- The bytes of train `t` in `BK_PARAM`: address and length. -/
def Bucket.prange (b : Bucket) (t : Nat) : Nat × Nat := (b.param + 4096 * t * b.psize, b.span t * b.psize)

/-- A bucket from its table fields. -/
def Bucket.new (l : List Nat) : Bucket :=
  { group := nth l 0, owner := nth l 1, elems := nth l 2, grad := nth l 3, out := nth l 4, resid := nth l 5, scale := nth l 6,
    param := nth l 7, pfmt := nth l 8, attempt := 0, e := none, fresh := false, amax := 0, done := 0, landed := [], ovf := false,
    nf := false, peak := 0, num := NumStat.zero, verdict := none }

/-- A block record (R240). -/
def blockRecord (qs : List (Option Int)) : List Byte :=
  if qs.all (· == some 0) then [0x80#8, 0x00#8]
  else match qs with
    | none :: t => [0x80#8, 0x01#8] ++ t.map vb8Byte
    | l => l.map vb8Byte

/-- The body of a reduce train. -/
def trainBody (qs : List (Option Int)) : List Byte := (chunks 32 (qs.length + 1) qs).flatMap blockRecord

/-- Parse `n` elements of a body; none where it does not parse (R240). -/
def parseBody : Nat → Nat → List Byte → Option (List (Option Int))
  | 0, n, l => if n = 0 ∧ l.isEmpty then some [] else none
  | f + 1, n, l =>
    if n = 0 then (if l.isEmpty then some [] else none)
    else
      let m := min 32 n
      match l with
      | [] => none
      | b :: t =>
        if b = 0x80#8 then
          match t with
          | [] => none
          | k :: u =>
            if k = 0#8 then (parseBody f (n - m) u).map fun r => List.replicate m (some 0) ++ r
            else if k = 1#8 ∧ m ≤ u.length + 1 then
              (parseBody f (n - m) (u.drop (m - 1))).map fun r => none :: (u.take (m - 1)).map vb8Read ++ r
            else none
        else if l.length < m then none
        else (parseBody f (n - m) (l.drop m)).map fun r => (l.take m).map vb8Read ++ r

/-- What a train's header says beside its place (R239). -/
structure TrainBits where
  ovf : Bool
  nf : Bool
  last : Bool
  gather : Bool
  peak : Nat
  hop : Nat

/-- The 20-byte header (R239); `ctl` is E + 149. -/
def trainHeader (step bucket group attempt ctl : Nat) (h : TrainBits) (idx : Nat) : List Byte :=
  leBytes 8 step ++ leBytes 3 bucket ++ leBytes 1 (group + 64 * attempt)
    ++ leBytes 2 (ctl + 512 * b2n h.ovf + 1024 * b2n h.nf + 2048 * b2n h.last + 4096 * b2n h.gather)
    ++ leBytes 1 h.peak ++ leBytes 1 h.hop ++ leBytes 2 idx ++ zeros 2

/-- FP32 words of a byte string. -/
def wordsOf (l : List Byte) : List W32 := (chunks 4 (l.length + 1) l).map fun b => BitVec.ofNat 32 (leNat b)

/-! ## The scale record (R242 to R246) -/

/-- Replace bytes from an offset on. -/
def setBytes (l : List Byte) (o : Nat) (x : List Byte) : List Byte := l.take o ++ x ++ l.drop (o + x.length)

/-- The exponent range of R39. -/
def clampE (e : Int) : Int := max (-149) (min 121 e)

/-- The valid entries of a scale record, the most recent first. -/
def srEntries (r : List Byte) : List (Int × Nat) :=
  (List.range (min (field r 51 1) 16)).map fun k =>
    let i := (field r 52 1 + 31 - k) % 16
    (sInt 16 (field r (3 * i) 2), field r (3 * i + 2) 1)

/-- The exponent that a history gives (R243). -/
def srExponent (r : List Byte) : Int :=
  let es := srEntries r
  let least := (es.filter fun x => x.2 != 0).map fun x => x.1 + (bitLen (x.2 - 1) : Int) - 6
  let hist := match least with
    | [] => (es.headD (0, 0)).1
    | a :: t => t.foldl max a
  clampE (if field r 50 1 = 0 then hist else max hist (sInt 16 (field r 48 2)))

/-- The exponent of a first use: the least E with 127 x 2^E ≥ N x A, in the range of R39 (R244). -/
def firstExponent (n : Nat) (a : W32) : Int :=
  match fv32 a with
  | .fin _ m f =>
    if m = 0 then -149
    else
      let x := n * m
      let b := bitLen x
      clampE (f + (b : Int) - (if 128 * x ≤ 127 * 2 ^ b then 7 else 6))
  | _ => -149

/-- The record after a COMMIT with exponent E, peak P at this attempt (R246). -/
def srCommit (r : List Byte) (e : Int) (peak attempt : Nat) : List Byte :=
  let i := field r 52 1 % 16
  let left := field r 50 1 - 1
  let r := setBytes r (3 * i) (leBytes 2 (uInt 16 e) ++ leBytes 1 peak)
  let r := setBytes r 50 (leBytes 1 left ++ leBytes 1 (min 16 (field r 51 1 + 1)) ++ leBytes 1 ((i + 1) % 16))
  if attempt = 0 then r else setBytes r 48 (leBytes 2 (uInt 16 e) ++ leBytes 1 16)

/-! ## An operation in progress -/

/-- A reduction or gather in progress. -/
structure TEnv where
  c : Nat
  i : Nat
  r : Run
  t : Trade
  mode : Nat

/-- Change a context's Trade ring. -/
def State.tradeDo (s : State) (c : Nat) (f : Trade → Trade) : State :=
  { s with trade := s.trade.map fun e => if e.1 / 2 ^ 32 == c then (e.1, f e.2) else e }

/-- The operation in progress on a context's ring. -/
def State.tradeEnv (s : State) (c : Nat) : Option TEnv :=
  match s.tradeOf c with
  | none => none
  | some g =>
    match g.2.op with
    | none => none
    | some i =>
      match s.opOf c i with
      | some (_, _, r, .tradeReduce _ _ m, q) => if q.st = .begun ∧ g.2.form.state = 1 then some ⟨c, i, r, g.2, m⟩ else none
      | some (_, _, r, .tradeGather _ _ m, q) => if q.st = .begun ∧ g.2.form.state = 1 then some ⟨c, i, r, g.2, m⟩ else none
      | _ => none

/-- Change a bucket. -/
def Trade.setBucket (t : Trade) (k : Nat) (f : Bucket → Bucket) : Trade := { t with buckets := t.buckets.modify k f }

/-- Committed step count of a group (R248). -/
def Trade.stepOf (t : Trade) (g : Nat) : Nat := ((t.states[g]?).map GroupState.step).getD 0

/-- Ports of one kind, each way. -/
def Trade.outs (t : Trade) : List Nat := t.f.portOut.take t.f.ports
def Trade.ins (t : Trade) : List Nat := t.f.portIn.take t.f.ports
def Trade.gouts (t : Trade) : List Nat := t.f.gportOut.take t.f.gports
def Trade.gins (t : Trade) : List Nat := t.f.gportIn.take t.f.gports

/-- Send a control message to the successor (R246, R250), or back to the predecessor. -/
def State.tradeNext (s : State) (t : Trade) (kind : Nat) (l : List Byte) : State :=
  match s.sharePort t.outs 0 with
  | some p => s.sendUnit p 0 t.f.ctx t.f.tag (ctlMsg kind (leBytes 4 t.f.tag ++ l))
  | none => s
def State.tradeBack (s : State) (t : Trade) (kind : Nat) (l : List Byte) : State :=
  match s.sharePort t.ins 0 with
  | some p => s.sendUnit p 0 t.f.ctx t.f.tag (ctlMsg kind (leBytes 4 t.f.tag ++ l))
  | none => s

/-- Clear what a ring keeps of an operation. -/
def Trade.clear (t : Trade) : Trade :=
  { t with op := none, opened := [], started := false, amaxDone := false, buckets := [], trains := [], sent := [], asked := [], restarts := 0,
           skew := false, limit := false, poison := false, nonfinite := 0, contributed := false, held := none, gheld := [], gsent := [], sending := false }

/-! ## Failure (R234, R256) -/

/-- The outputs that a ring operation has not committed: the sums and residual planes of buckets without a verdict of COMMIT, the trains that
have not come. -/
def Trade.uncommitted (t : Trade) : List (Nat × Nat) :=
  (enumFrom 0 t.buckets).flatMap fun b =>
    if t.gather then
      (if b.2.owner = t.f.rank then [] else
        ((List.range b.2.count).filter fun k => !(t.gheld.any fun g => g.bucket == b.1 && g.idx == k)).map b.2.prange)
    else if b.2.verdict = some .commit then []
    else [(b.2.out, 4 * b.2.elems)] ++ (if b.2.resid = 0 then [] else [(b.2.resid + (t.stepOf b.2.group + 1) % 2 * (4 * b.2.elems), 4 * b.2.elems)])

/-- The norm of a final record (R250). -/
def recordNorm (r : List Byte) : W32 := sfu32 6 (BitVec.ofNat 32 (field r 8 4))

/-- The trade status block (R253). -/
def Trade.block (t : Trade) (r : List Byte) : List Byte :=
  slice r 8 8 ++ leBytes 4 (recordNorm r).toNat ++ slice r 16 2 ++ zeros 2 ++ slice r 20 4 ++ slice r 24 8 ++ leBytes 4 t.owned

/-- The ring of a context fails, and with it the operation in progress; what that had not committed is undefined (R296). -/
def State.tradeFail (s : State) (c reason port : Nat) (st : Status) : State :=
  match s.tradeOf c with
  | none => s
  | some g =>
    let step := match (kvGet c s.ctxs).bind Ctx.run with | some r => r.step | none => 0
    let s := s.tradeDo c fun t => { t with form := { t.form with state := 2 }, sending := false }
    let s := if g.2.form.state = 1 ∧ st = .tradeLink then s.ctxDo c fun x => { x with ringBroke := true } else s
    let s := s.post 0x0502 c (groupData g.2.f.tag reason port step)
    let s := s.ringLapse g.2.f.tag
    match g.2.op with
    | none => s
    | some i =>
      let block := if g.2.gather then [] else g.2.block (zeros 64)
      (((s.abandonOp c i).tradeDo c Trade.clear).undefine c g.2.uncommitted).opEnd c i st block

/-- Are all ports of a nonempty list dead? -/
def State.allDead (s : State) (l : List Nat) : Bool := l != [] && !(l.any s.portAlive)

/-- After a port went DOWN: a ring with every ring, gather or mesh port down fails (R256). -/
def State.tradePorts (s : State) : State :=
  s.trade.foldl (fun s e =>
    let t := e.2
    if t.form.state ≠ 2 && (s.allDead t.outs || s.allDead t.ins || s.allDead t.gouts || s.allDead t.gins
        || s.allDead ((meshPorts t.f).map Prod.fst)) then
      (s.tradeFail (e.1 / 2 ^ 32) 4 0xFF .tradeLink).formReply .trade (e.1 / 2 ^ 32) t.f.tag .tradeLink
    else s) s

/-! ## Reads (R236, R250) -/

/-- Read for a reduction: poison sets POISON and gives free bytes (R187, R250). -/
def State.tradeRead (s : State) (e : TEnv) (key va n : Nat) : Except OpErr (List Byte × State) :=
  match s.rdBytes e.c va n with
  | .error x => .error x
  | .ok r =>
    let s := match r.2 with
      | none => s
      | some pa => (s.opPoison e.c e.i key pa).tradeDo e.c fun t => { t with poison := true }
    .ok (s.hidePoison r)

/-- g(r, x) of a train's elements (R236). -/
def State.gradients (s : State) (e : TEnv) (k : Nat) (b : Bucket) (t : Nat) : Except OpErr (List Entry × State) :=
  let n := b.span t
  let o := 16384 * t
  match s.tradeRead e k (b.grad + o) (4 * n) with
  | .error x => .error x
  | .ok (g, s) =>
    let own := (wordsOf g).map loadEnt
    if b.resid = 0 ∨ b.owner = e.t.f.rank then .ok (own, s)
    else
      match s.tradeRead e k (b.resid + e.t.stepOf b.group % 2 * (4 * b.elems) + o) (4 * n) with
      | .error x => .error x
      | .ok (r, s) => .ok ((List.zip own ((wordsOf r).map loadEnt)).map fun p => eAdd (modeFlush e.mode) p.1 p.2, s)

/-- Is an entry NaN or infinite? -/
def Entry.special (a : Entry) : Bool := !(fv32 a.v).isFin

/-- dec(q) + g (R236): dec(q) = q x 2^E is exact and its subnormals are preserved under either mode (R37); g and the sum follow R36. -/
def decAdd (flush : Bool) (e q : Int) (g : Entry) : Entry :=
  let y := opnd flush g
  arith flush [g] y.2 (fvAdd (fvScaled q e) y.1)

/-- One element of a hop (R236 to R238): what is sent, and the residual; `q` is the incoming value, none at the first hop. -/
def hopElem (flush : Bool) (e : Int) (q : Option (Option Int)) (g : Entry) : Option Int × W32 :=
  match q with
  | some none => (none, 0#32)
  | _ =>
    let v := match q with
      | some (some k) => decAdd flush e k g
      | _ => { g with v := (flushIn flush g.v).1 }
    match vb8Of (fv32 v.v) e with
    | none => (none, 0#32)
    | some k => (some k, round32 (fvAdd (fv32 v.v) (fvNeg (fvScaled k e))))

/-- |q| of what a hop sends, 128 for the marker (R239). -/
def peakOf (qs : List (Option Int)) : Nat := qs.foldl (fun m q => max m (match q with | some k => k.natAbs | none => 128)) 0

/-! ## Landing credit (R241) -/

/-- Grant the free slots that have not been granted, while the context is resident (R257). -/
def State.tradeGrant (s : State) (c : Nat) : State :=
  match s.tradeOf c with
  | none => s
  | some g =>
    let t := g.2
    let n := t.f.landTrains - t.trains.length - t.granted
    if n = 0 ∨ !s.circRuns c ∨ t.form.state ≠ 1 then s
    else (s.tradeDo c fun t => { t with granted := t.granted + n }).tradeBack t msgCredit (leBytes 4 n)

/-- The address of a landing slot. -/
def Trade.slotAddr (t : Trade) (k : Nat) : Nat := t.f.landBase + 4244 * k

/-! ## Verdicts (R245, R246) -/

/-- A verdict as the control message carries it (log 35). -/
def verdictCode : Verdict → Nat
  | .commit => 0 | .restart => 1 | .nonfinite => 2 | .exhausted => 3

/-- A member acts on a bucket verdict (R246). -/
def State.applyVerdict (s : State) (e : TEnv) (k : Nat) (v : Verdict) (x : Int) (peak : Nat) : State :=
  match e.t.buckets[k]? with
  | none => s
  | some b =>
    if b.verdict.isSome then s
    else
      match v with
      | .restart =>
        s.tradeDo e.c fun t => t.setBucket k fun b =>
          { b with attempt := b.attempt + 1, e := some x, done := 0, ovf := false, nf := false, peak := 0, num := NumStat.zero }
      | .commit =>
        s.opTry e.c e.i (s.tradeRead e k b.scale 64) fun r =>
          r.2.opTry e.c e.i (r.2.wrBytes e.c b.scale ((srCommit r.1 x peak b.attempt).take 53)) fun s =>
            (s.opCount e.c e.i b.num).tradeDo e.c fun t => t.setBucket k fun b => { b with verdict := some v }
      | .nonfinite | .exhausted =>
        (s.opCount e.c e.i b.num).tradeDo e.c fun t => t.setBucket k fun b => { b with verdict := some v }

/-- The owner gives a verdict and sends it round (R245, R246). -/
def State.giveVerdict (s : State) (e : TEnv) (k : Nat) (b : Bucket) : State :=
  let x := b.e.getD 0
  let v : Verdict :=
    if b.nf then .nonfinite
    else if b.ovf && (b.attempt == 2 || decide (121 < x + 2)) then .exhausted
    else if b.ovf then .restart else .commit
  let x := if v = .restart then x + 2 else x
  let s := s.applyVerdict e k v x b.peak
  let s := if v = .restart then s.tradeDo e.c fun t => { t with restarts := t.restarts + 1 } else s
  s.tradeNext e.t msgVerdict (leBytes 4 k ++ leBytes 4 (verdictCode v) ++ leBytes 4 (uInt 32 x) ++ leBytes 4 b.peak)

/-! ## Hops and additions (R236 to R241) -/

/-- The elements of a landed train's body; free ones where its slot reads as poisoned. -/
def State.landedQs (s : State) (e : TEnv) (k : Nat) (tr : Train) (n : Nat) : Except OpErr (List (Option Int) × State) :=
  match s.tradeRead e k (e.t.slotAddr tr.slot + 20) tr.len with
  | .error x => .error x
  | .ok (l, s) => .ok ((parseBody (n + 1) n l).getD ((padTo n (l.take n)).map vb8Read), s)

/-- This member's hop of train `t` of bucket `k` (R236 to R239); `tr` is the landed train, none at the first hop. -/
def State.hopSend (s : State) (e : TEnv) (k : Nat) (b : Bucket) (tr : Option Train) (port : Nat) : Except OpErr State :=
  let t := b.done
  let n := b.span t
  let x := b.e.getD 0
  match s.gradients e k b t with
  | .error y => .error y
  | .ok (gs, s) =>
    match (match tr with
        | none => Except.ok (List.replicate n none, s)
        | some tr => (s.landedQs e k tr n).map fun r => (r.1.map some, r.2) : Except OpErr (List (Option (Option Int)) × State)) with
    | .error y => .error y
    | .ok (qs, s) =>
      let res := (List.zip qs gs).map fun p => hopElem (modeFlush e.mode) x p.1 p.2
      let out := res.map Prod.fst
      let bad := (gs.filter Entry.special).length
      let hdr := (tr.map Train.hdr).getD (zeros 20)
      let ctl := field hdr 12 2
      let bits : TrainBits :=
        { ovf := bitOf ctl 9 || out.any (·.isNone), nf := bitOf ctl 10 || decide (0 < bad), last := t + 1 == b.count, gather := false,
          peak := max (field hdr 14 1) (peakOf out), hop := field hdr 15 1 + 1 }
      let bytes := trainHeader (e.t.stepOf b.group) k b.group b.attempt (x + 149).toNat bits t ++ trainBody out
      match (if b.resid = 0 then Except.ok s
          else s.wrBytes e.c (b.resid + (e.t.stepOf b.group + 1) % 2 * (4 * b.elems) + 16384 * t)
            ((res.map Prod.snd).flatMap fun w => leBytes 4 w.toNat)) with
      | .error y => .error y
      | .ok s =>
        let s := s.tradeDo e.c fun g =>
          { (g.setBucket k fun b => { b with done := t + 1 }) with
              trains := g.trains.filter fun y => some y != tr, credit := g.credit - 1,
              sent := (g.sent.filter fun y => !(y.bucket == k && y.idx == t)) ++ [⟨k, t, port, bytes, false⟩],
              nonfinite := g.nonfinite + (if b.attempt = 0 then bad else 0) }
        .ok ((s.sendUnit port 3 e.c e.t.f.tag bytes).tradeGrant e.c)

/-- One element at the owner (R236): what is written and counted; none where the incoming value is the marker. -/
def ownerElem (mode : Nat) (e : Int) (q : Option Int) (g : Entry) : Option Wb :=
  q.map fun k => wbEntry ffFp32 mode (decAdd (modeFlush mode) e k g)

/-- Words to write with free values where there is none. -/
def freeWords : List (Option Wb) → State → List Byte × State
  | [], s => ([], s)
  | some w :: t, s => let r := freeWords t s; (leBytes 4 w.pat ++ r.1, r.2)
  | none :: t, s =>
    let f := s.fresh
    let r := freeWords t f.2
    (leBytes 4 (f.1.toNat % 2 ^ 32) ++ r.1, r.2)

/-- The owner adds a landed train, and gives its verdict with the last (R236, R245); a train whose own reads meet poison leaves poisoned
sums and counts nothing (R60, R187). -/
def State.ownerAdd (s : State) (e : TEnv) (k : Nat) (b : Bucket) (tr : Train) : Except OpErr State :=
  let t := tr.idx
  let n := b.span t
  match (s.tradeDo e.c fun g => { g with poison := false }).gradients e k b t with
  | .error y => .error y
  | .ok (gs, s) =>
    match s.landedQs e k tr n with
    | .error y => .error y
    | .ok (qs, s) =>
      let ws := (List.zip qs gs).map fun p => ownerElem e.mode (b.e.getD 0) p.1 p.2
      let r := freeWords ws s
      match r.2.wrBytes e.c (b.out + 16384 * t) r.1 with
      | .error y => .error y
      | .ok s =>
        let poisonedNow := match s.tradeOf e.c with | some g => g.2.poison | none => false
        let s := s.tradeDo e.c fun g => { g with poison := g.poison || e.t.poison }
        let s := if poisonedNow then s.vpoison e.c (b.out + 16384 * t) (4 * n) else s
        let num := if poisonedNow then b.num
          else (enumFrom 0 ws).foldl (fun m w => match w.2 with
            | some y => m.count y ⟨y.kind, k, 4096 * t + w.1, noGroup, 0, 0⟩
            | none => m) b.num
        let bad := (gs.filter Entry.special).length
        let ctl := field tr.hdr 12 2
        let b2 : Bucket :=
          { b with done := b.done + 1, ovf := b.ovf || bitOf ctl 9 || qs.any (·.isNone),
                   nf := b.nf || bitOf ctl 10, peak := max b.peak (field tr.hdr 14 1), num := num }
        let s := s.tradeDo e.c fun g =>
          { (g.setBucket k fun _ => b2) with
              trains := g.trains.filter (· != tr), nonfinite := g.nonfinite + (if b.attempt = 0 then bad else 0) }
        let s := s.tradeGrant e.c
        .ok (if b2.done = b2.count then (match s.tradeEnv e.c with | some e => s.giveVerdict e k b2 | none => s) else s)

/-! ## The amax exchange (R244) -/

/-- This member's maximum over a bucket: the trains in order; under flush mode a subnormal gradient reads as zero (R36). -/
def State.amaxOver (s : State) (e : TEnv) (k : Nat) (b : Bucket) : List Nat → W32 × Nat → Except OpErr ((W32 × Nat) × State)
  | [], a => .ok (a, s)
  | t :: ts, a =>
    match s.gradients e k b t with
    | .error y => .error y
    | .ok (gs, s) =>
      s.amaxOver e k b ts (gs.foldl (fun m g => max32 m (abs32 (flushIn (modeFlush e.mode) g.v).1)) a.1, a.2 + (gs.filter Entry.special).length)

/-- Form A(r) of every bucket of first use. -/
def State.amaxForm (s : State) (e : TEnv) : List (Nat × Bucket) → Except OpErr State
  | [] => .ok s
  | (k, b) :: t =>
    if !b.fresh then s.amaxForm e t
    else
      match s.amaxOver e k b (List.range b.count) (0#32, 0) with
      | .error y => .error y
      | .ok (a, s) =>
        (s.tradeDo e.c fun g =>
          { (g.setBucket k fun b => { b with amax := a.1 }) with nonfinite := g.nonfinite + a.2 }).amaxForm e t

/-- The values of a member's exchange message. -/
def Trade.amaxValues (t : Trade) : List (Nat × W32) := ((enumFrom 0 t.buckets).filter fun b => b.2.fresh).map fun b => (b.1, b.2.amax)

def amaxBytes (second : Bool) (l : List (Nat × W32)) : List Byte :=
  leBytes 4 (b2n second) ++ l.flatMap fun x => leBytes 4 x.1 ++ leBytes 4 x.2.toNat

/-- Every member takes the result: exponent, or the verdict NONFINITE at once (R244 step 4). -/
def Trade.amaxTake (t : Trade) (l : List (Nat × W32)) : Trade :=
  let f := l.foldl (fun t x => t.setBucket x.1 fun b =>
    if (fv32 x.2).isFin then { b with e := some (firstExponent t.f.size x.2) } else { b with verdict := some .nonfinite }) t
  { f with amaxDone := true }

/-! ## The verdict record (R249, R250) -/

/-- This member's sum of squares over the buckets it owns and committed (R249). -/
def State.ownedSum (s : State) (e : TEnv) : List (Nat × Bucket) → PF → Except OpErr (PF × State)
  | [], a => .ok (a, s)
  | (k, b) :: t, a =>
    if b.owner ≠ e.t.f.rank ∨ b.verdict ≠ some .commit then s.ownedSum e t a
    else
      match s.tradeRead e k b.out (4 * b.elems) with
      | .error y => .error y
      | .ok (l, s) =>
        let p := treeReduce pfAdd pfZero ((enumFrom 0 ((wordsOf l).map loadEnt)).map fun x => (x.1, twoProd x.2 x.2))
        s.ownedSum e t (pfAdd a p)

/-- The flags of a member's contribution (R250); NONFINITE comes from a bucket's verdict and from the member's own local gradients, the owner's
among them, which no train carries (log 92). -/
def Trade.flags (t : Trade) : Nat :=
  b2n (t.buckets.any (fun b => b.verdict == some .nonfinite) || t.nonfinite != 0) + 2 * b2n t.skew + 4 * b2n (t.buckets.any fun b => b.verdict == some .exhausted)
    + 8 * b2n t.poison + 16 * b2n t.limit

/-- The activation step a member contributes (R438). -/
def State.activation (s : State) (tag : Nat) : Nat := match s.fw.sched with | some x => if x.1 = tag then x.2 else 0 | none => 0

/-- A verdict record as bytes. -/
def recordBytes (step hi lo flags restarts nonfinite act : Nat) : List Byte :=
  leBytes 8 step ++ leBytes 4 hi ++ leBytes 4 lo ++ leBytes 2 flags ++ zeros 2 ++ leBytes 4 restarts ++ leBytes 8 nonfinite
    ++ leBytes 8 act ++ zeros 24

/-- Combine a member's contribution into the record that arrived (R250); rank 0 starts it. -/
def State.combineRecord (s : State) (e : TEnv) (own : PF) (l : Option (List Byte)) : List Byte :=
  let act := s.activation e.t.f.tag
  match l with
  | none => recordBytes e.r.step own.hi.toNat own.lo.toNat e.t.flags e.t.restarts e.t.nonfinite act
  | some r =>
    let p := pfAdd ⟨BitVec.ofNat 32 (field r 8 4), BitVec.ofNat 32 (field r 12 4), 0#4, false⟩ own
    let fl := (field r 16 2 ||| e.t.flags) ||| (if field r 0 8 = e.r.step then 0 else 2)
    recordBytes (field r 0 8) p.hi.toNat p.lo.toNat fl (min (field r 20 4 + e.t.restarts) (2 ^ 32 - 1)) (field r 24 8 + e.t.nonfinite)
      (max (field r 32 8) act)

/-- The status of a reduction by its final flags (R251). -/
def tradeStatus (flags : Nat) : Status :=
  if bitOf flags 3 then .poison else if bitOf flags 1 then .stepSkew else if bitOf flags 4 then .stepLimit
  else if bitOf flags 2 then .scaleExhausted else if bitOf flags 0 then .gradOverflow else .ok

/-- What the final record decides of a scheduled activation (R438). -/
def State.decideActivation (s : State) (tag : Nat) (r : List Byte) : State :=
  match s.fw.sched with
  | none => s
  | some x =>
    if x.1 ≠ tag ∨ s.fw.schedDecided then s
    else if field r 32 8 = field r 0 8 ∧ field r 0 8 = x.2 then { s with fw := { s.fw with schedDecided := true } }
    else if x.2 ≤ field r 0 8 then s.fwLapse
    else s

/-- The final record arrives: it goes on, and the reduction completes (R250, R251). -/
def State.tradeFinal (s : State) (e : TEnv) (r : List Byte) : State :=
  let rank := e.t.f.rank
  let s := if rank + 1 = e.t.f.size ∨ rank + 2 < e.t.f.size then s.tradeNext e.t msgFinal r else s
  let s := s.tradeDo e.c fun t => { (Trade.clear t) with number := t.number + 1, finals := kvSet e.i r t.finals }
  let s := s.decideActivation e.t.f.tag r
  s.opEnd e.c e.i (tradeStatus (field r 16 2)) (e.t.block r)

/-- Make this member's contribution once every bucket has its verdict here and, but for rank 0, the record has come (R249, R250). -/
def State.tradeContribute (s : State) (e : TEnv) : State :=
  if e.t.gather ∨ e.t.contributed ∨ !e.t.started ∨ !e.t.amaxDone ∨ !(e.t.buckets.all fun b => b.verdict.isSome)
      ∨ (e.t.f.rank ≠ 0 ∧ e.t.held.isNone) ∨ !s.circRuns e.c then s
  else
    s.opTry e.c e.i (s.ownedSum e (enumFrom 0 e.t.buckets) pfZero) fun r =>
      match r.2.tradeEnv e.c with
      | none => r.2
      | some e =>
        let l := r.2.combineRecord e r.1 e.t.held
        let s := r.2.tradeDo e.c fun t => { t with contributed := true, held := none }
        if e.t.f.rank + 1 = e.t.f.size then s.tradeFinal e l else s.tradeNext e.t msgRecord l

/-! ## Landing (R239, R241, R256) -/

/-- A train of an attempt that does not parse: asked for again once, then the ring fails (R256). -/
def State.trainBad (s : State) (e : TEnv) (port bucket attempt idx : Nat) : State :=
  if e.t.asked.contains (bucket, attempt, idx) then s.tradeFail e.c 5 port .tradeLink
  else
    (s.tradeDo e.c fun t => { t with asked := t.asked ++ [(bucket, attempt, idx)] }).sendUnit port 0 e.c e.t.f.tag
      (ctlMsg msgResend (leBytes 4 e.t.f.tag ++ leBytes 4 bucket ++ leBytes 4 idx))

/-- Does a header name a train of the operation, of the right kind? -/
def Trade.headOk (t : Trade) (gather : Bool) (l : List Byte) : Bool :=
  match t.buckets[field l 8 3]? with
  | none => false
  | some b =>
    decide (20 ≤ l.length) && decide (field l 16 2 < b.count) && field l 11 1 % 64 == b.group && (bitOf (field l 12 2) 12 == gather)

/-- Store a reduce train in a landing slot (R241, R248); duplicates and trains of a past attempt are discarded. -/
def State.landTrain (s : State) (e : TEnv) (port : Nat) (l : List Byte) : State :=
  let k := field l 8 3
  let idx := field l 16 2
  let attempt := field l 11 1 / 64
  match e.t.buckets[k]? with
  | none => s.trainBad e port k attempt idx
  | some b =>
    let n := b.span idx
    if !e.t.headOk false l || (parseBody (n + 1) n (l.drop 20)).isNone then s.trainBad e port k attempt idx
    else if b.landed.contains (attempt, idx) ∨ attempt < b.attempt ∨ b.verdict.isSome then s
    else
      match (List.range e.t.f.landTrains).find? fun j => !(e.t.trains.any fun x => x.slot == j) with
      | none => s
      | some j =>
        s.opTry e.c e.i (s.wrBytes e.c (e.t.slotAddr j) l) fun s =>
          s.tradeDo e.c fun t =>
            { (t.setBucket k fun b => { b with landed := b.landed ++ [(attempt, idx)] }) with
                trains := t.trains ++ [{ slot := j, bucket := k, attempt := attempt, idx := idx, hdr := l.take 20, len := l.length - 20 }],
                granted := t.granted - 1, skew := t.skew || decide (field l 0 8 ≠ t.stepOf b.group) }

/-! ## The gather (R254, R255) -/

/-- Does this member hold a gather train: its own, or one that has landed? -/
def Trade.holds (t : Trade) (k idx : Nat) : Bool :=
  match t.buckets[k]? with
  | none => false
  | some b => b.owner == t.f.rank || t.gheld.any fun x => x.bucket == k && x.idx == idx

/-- The trains of a gather whose bucket passes a test, in order. -/
def Trade.gtrains (t : Trade) (ok : Bucket → Bool) : List (Nat × Nat) :=
  ((enumFrom 0 t.buckets).filter fun b => b.2.param != 0 && ok b.2).flatMap fun b => (List.range b.2.count).map fun i => (b.1, i)

/-- Same local index as this member? -/
def Trade.peerOf (t : Trade) (b : Bucket) : Bool := b.owner % t.f.node == t.f.rank % t.f.node

/-- What this member sends across nodes: everything but what its gather successor owns; destination 0. -/
def Trade.stage1 (t : Trade) : List (Nat × Nat × Nat) :=
  if t.f.node = t.f.size then []
  else (t.gtrains fun b => t.peerOf b && b.owner != (t.f.rank + t.f.node) % t.f.size).map fun x => (x.1, x.2, 0)

/-- What it sends within its node, once it holds its local index: destination l + 1. -/
def Trade.stage2 (t : Trade) : List (Nat × Nat × Nat) :=
  (t.gtrains t.peerOf).flatMap fun x => ((List.range t.f.node).filter fun l => l != t.f.rank % t.f.node).map fun l => (x.1, x.2, l + 1)

/-- The next gather train to send: across nodes as they are held, then within the node. -/
def Trade.nextGather (t : Trade) : Option (Nat × Nat × Nat) :=
  match t.stage1.find? fun x => t.holds x.1 x.2.1 && !(t.gsent.contains x) with
  | some x => some x
  | none =>
    if (t.gtrains t.peerOf).all fun x => t.holds x.1 x.2 then t.stage2.find? fun x => !(t.gsent.contains x) else none

/-- Is the gather complete here: every byte stands in this member's `BK_PARAM` (R255)? -/
def Trade.gatherDone (t : Trade) : Bool := (t.gtrains fun _ => true).all fun x => t.holds x.1 x.2

/-- Has this member sent every copy that R254 gives it to send? -/
def Trade.gatherSent (t : Trade) : Bool := (t.stage1 ++ t.stage2).all t.gsent.contains

/-- After a gather the ring keeps what it still has to send; what it has sent it keeps for a re-request until its next operation (R254 to R256;
log 122). -/
def Trade.afterGather (t : Trade) : Trade :=
  if t.gatherSent then { Trade.clear t with sent := t.sent } else { t with op := none, sending := true }

/-- The gather completes: ST_STEP_SKEW where a train's count differed (R255). -/
def State.gatherEnd (s : State) (e : TEnv) : State :=
  match s.tradeEnv e.c with
  | none => s
  | some e =>
    if e.t.gather && e.t.started && e.t.gatherDone then
      let st : Status := if e.t.gheld.any fun x => x.body.isSome then .stepSkew else .ok
      (s.tradeDo e.c Trade.afterGather).opEnd e.c e.i st []
    else s

/-- The 64-byte pieces of a range that read as poisoned (R187): what travels with a copy of it. -/
def State.badPieces (s : State) (c va n : Nat) : List Nat :=
  (List.range (ceilDiv n 64)).filter fun k => match s.vread c (va + 64 * k) (min 64 (n - 64 * k)) with
    | .ok r => r.2.isSome
    | .error _ => false

/-- Mark the pieces of a copy that came poisoned. -/
def State.poisonPieces (s : State) (c va n : Nat) (l : List Nat) : State :=
  l.foldl (fun s k => s.vpoison c (va + 64 * k) (min 64 (n - 64 * k))) s

/-- A gather train lands (R255); `bad` are the 64-byte pieces of its body that are poisoned. -/
def State.landGather (s : State) (e : TEnv) (port : Nat) (l : List Byte) (bad : List Nat) : State :=
  let k := field l 8 3
  let idx := field l 16 2
  let body := l.drop 20
  match e.t.buckets[k]? with
  | none => s.trainBad e port k 0 idx
  | some b =>
    let r := b.prange idx
    if !e.t.headOk true l || b.param == 0 || body.length != r.2 then s.trainBad e port k 0 idx
    else if e.t.holds k idx then s
    else
      let same := field l 0 8 == e.t.stepOf b.group
      let keep : GTrain := { bucket := k, idx := idx, step := field l 0 8, body := if same then none else some body, poisoned := bad }
      let s := s.tradeDo e.c fun t => { t with gheld := t.gheld ++ [keep] }
      if !same then s.gatherEnd e
      else s.opTry e.c e.i (s.wrBytes e.c r.1 body) fun s => (s.poisonPieces e.c r.1 r.2 bad).gatherEnd e

/-- The port, bytes and poison of a gather train: across nodes by its share of the gather ports, within the node on the mesh port; none where no
port is alive. -/
def State.gatherUnit (s : State) (c : Nat) (t : Trade) (b : Bucket) (x : Nat × Nat × Nat) : Option (Nat × Except OpErr (List Byte × Bool)) :=
  let n := t.f.size
  let port := if x.2.2 = 0 then s.sharePort t.gouts x.2.1
    else (let p := nth t.f.mesh (x.2.2 - 1); if s.portAlive p then some p else none)
  port.map fun p =>
    let r := b.prange x.2.1
    let held := t.gheld.find? fun y => y.bucket == x.1 && y.idx == x.2.1
    let step := match held with | some y => y.step | none => t.stepOf b.group
    let bits : TrainBits :=
      { ovf := false, nf := false, last := x.2.1 + 1 == b.count, gather := true, peak := 0,
        hop := (t.f.rank + n - b.owner) % n / t.f.node + 1 }
    let head := trainHeader step x.1 b.group 0 0 bits x.2.1
    (p, match held.bind GTrain.body with
      | some l => .ok (head ++ l, match held with | some y => !y.poisoned.isEmpty | none => false)
      | none => match s.rdBytes c r.1 r.2 with
        | .ok l => .ok (head ++ l.1, l.2.isSome)
        | .error y => .error y)

/-- A gather train leaves on port `p`; a copy carries the poison marks with it and consumes nothing (R187, R255). -/
def State.gatherPut (s : State) (c : Nat) (t : Trade) (x : Nat × Nat × Nat) (p : Nat) (l : List Byte × Bool) : State :=
  (s.tradeDo c fun t =>
    { t with
      gsent := t.gsent ++ [x]
      sent := (t.sent.filter fun y => !(y.bucket == x.1 && y.idx == x.2.1 && y.port == p)) ++ [⟨x.1, x.2.1, p, l.1, l.2⟩] }).sendMarked p 3 c
    t.f.tag l.1 l.2

/-- Send a gather train of the operation in progress (R254). -/
def State.gatherSend (s : State) (e : TEnv) (x : Nat × Nat × Nat) : State :=
  match e.t.buckets[x.1]? with
  | none => s
  | some b =>
    match s.gatherUnit e.c e.t b x with
    | none => s
    | some u => s.opTry e.c e.i u.2 fun l => (s.gatherPut e.c e.t x u.1 l).gatherEnd e

/-- The recovered read of a gather train's bytes (R185). -/
def State.gatherRead (s : State) (c : Nat) (t : Trade) (x : Nat × Nat × Nat) (errs : List SectorErr) : State :=
  match t.buckets[x.1]? with
  | some b => s.recoverRanges c [b.prange x.2.1] errs
  | none => s

/-- The next copy that an ended gather has still to send; with the last the ring is free (R254, R255; log 122). -/
def State.tailSend (s : State) (c : Nat) (errs : List SectorErr) : State :=
  match s.tradeOf c with
  | none => s
  | some g =>
    let t := g.2
    if !t.sending || t.form.state != 1 || !s.circRuns c then s
    else match t.nextGather with
      | none => s
      | some x =>
        let s := s.gatherRead c t x errs
        match (t.buckets[x.1]?).bind fun b => s.gatherUnit c t b x with
        | some (p, .ok l) =>
          let s := s.gatherPut c t x p l
          ((s.tradeDo c fun t => if t.gatherSent then t.afterGather else t).schedule)
        | some (_, .error _) | none => s

/-! ## Messages in their order (R234, R257) -/

/-- Every in-port of a ring (R233). -/
def Trade.allIns (t : Trade) : List Nat := (tradeView t.f).ins.map Prod.fst

/-- The member starts once every OPEN has matched, but for those of ports that are down (R256): LIMIT is known; rank 0 opens the amax exchange
(R234, R244). -/
def State.tradeStart (s : State) (e : TEnv) : State :=
  if e.t.started ∨ !s.circRuns e.c ∨ !((e.t.allIns.filter s.portAlive).all e.t.opened.contains) then s
  else
    let s := s.tradeDo e.c fun t => { t with started := true }
    if e.t.gather ∨ !(e.t.buckets.any fun b => b.fresh) then (s.tradeDo e.c fun t => { t with amaxDone := true }).gatherEnd e
    else
      s.opTry e.c e.i (s.amaxForm e (enumFrom 0 e.t.buckets)) fun s =>
        if e.t.f.rank ≠ 0 then s
        else match s.tradeEnv e.c with
          | some e => s.tradeNext e.t msgAmax (amaxBytes false e.t.amaxValues)
          | none => s

/-- Can a waiting message be acted on now? Landings need no resident context (R257). -/
def State.msgReady (s : State) (e : TEnv) : TMsg → Bool
  | .openTable port .. => !e.t.opened.contains port
  | .amax .. => e.t.started && !e.t.gather && s.circRuns e.c && !e.t.amaxDone
  | .train .. => !e.t.gather
  | .verdict .. => e.t.started && !e.t.gather && s.circRuns e.c
  | .record _ => e.t.started && !e.t.gather && s.circRuns e.c && e.t.held.isNone
  | .final _ => e.t.started && !e.t.gather && s.circRuns e.c
  | .gather .. => e.t.gather

/-- An amax message (R244): on the first pass the maximum goes on, at rank N - 1 the result goes round; on the second every member
takes it. -/
def State.amaxMsg (s : State) (e : TEnv) (second : Bool) (l : List (Nat × W32)) : State :=
  let rank := e.t.f.rank
  let n := e.t.f.size
  if second then
    let s := s.tradeDo e.c fun t => t.amaxTake l
    if rank + 2 < n then s.tradeNext e.t msgAmax (amaxBytes true l) else s
  else
    let m := l.map fun x => (x.1, max32 x.2 (((e.t.buckets[x.1]?).map Bucket.amax).getD 0#32))
    if rank + 1 = n then (s.tradeDo e.c fun t => t.amaxTake m).tradeNext e.t msgAmax (amaxBytes true m)
    else s.tradeNext e.t msgAmax (amaxBytes false m)

/-- Act on one message. -/
def State.tradeMsg (s : State) (e : TEnv) : TMsg → State
  | .openTable port tag number step digest =>
    if tag ≠ e.t.f.tag ∨ number ≠ e.t.number ∨ step ≠ e.r.step ∨ digest ≠ e.t.digest then s.tradeFail e.c 3 port .tradeSkew
    else s.tradeDo e.c fun t => { t with opened := insNat port t.opened }
  | .amax second l => s.amaxMsg e second l
  | .train port l => s.landTrain e port l
  | .verdict k v x peak =>
    (match e.t.buckets[k]? with
     | none => s
     | some b =>
       if b.owner = e.t.f.rank then s
       else (s.applyVerdict e k v x peak).tradeNext e.t msgVerdict (leBytes 4 k ++ leBytes 4 (verdictCode v) ++ leBytes 4 (uInt 32 x) ++ leBytes 4 peak))
  | .record l => s.tradeDo e.c fun t => { t with held := some l }
  | .final l => if e.t.f.rank + 1 = e.t.f.size then s else s.tradeFinal e l
  | .gather port l bad => s.landGather e port l bad

/-- The owner's landed trains, while the context is resident. -/
def State.ownerAdds (s : State) (e : TEnv) : State :=
  if !s.circRuns e.c ∨ !e.t.amaxDone then s
  else match e.t.trains.find? fun x => match e.t.buckets[x.bucket]? with
      | some b => b.owner == e.t.f.rank && x.attempt == b.attempt && b.verdict.isNone
      | none => false with
    | none => s
    | some x => match e.t.buckets[x.bucket]? with
      | none => s
      | some b => s.opTry e.c e.i (s.ownerAdd e x.bucket b x) fun s => s

/-- One step of what a member can do without sending a train: start, take a message, add as owner, contribute. -/
def State.tradeTurn (s : State) (c : Nat) : State :=
  match s.tradeEnv c with
  | none => s
  | some e =>
    let s := s.tradeStart e
    match s.tradeEnv c with
    | none => s
    | some e =>
      match (enumFrom 0 e.t.early).find? fun m => s.msgReady e m.2 with
      | some m => (s.tradeDo c fun t => { t with early := t.early.eraseIdx m.1 }).tradeMsg e m.2
      | none =>
        let s := s.ownerAdds e
        match s.tradeEnv c with
        | none => s
        | some e => s.tradeContribute e

/-- Turns until nothing is left to do; `fuel` bounds them. -/
def State.tradeTurns : Nat → State → Nat → State
  | 0, s, _ => s
  | n + 1, s, c => State.tradeTurns n (s.tradeTurn c) c

/-- All the turns that waiting messages and landed trains can ask for. -/
def State.tradeRun (s : State) (c : Nat) : State :=
  match s.tradeOf c with
  | none => s
  | some g => s.tradeTurns (g.2.early.length + 2 * g.2.trains.length + 4) c

/-- A message arrives. -/
def State.tradeArrive (s : State) (c : Nat) (m : TMsg) : State :=
  match s.tradeOf c with
  | none => s
  | some g => if g.2.form.state ≠ 1 then s else ((s.progress 3 c 0).tradeDo c fun t => { t with early := t.early ++ [m] }).tradeRun c

/-! ## Host commands (R231 to R233, R259) -/

/-- The limits of R231 and R232. -/
def TradeFields_ok (f : TradeFields) : Bool :=
  decide (1 ≤ f.ctx ∧ f.ctx ≤ 1023 ∧ 2 ≤ f.size ∧ f.size ≤ 256 ∧ f.rank < f.size ∧ 1 ≤ f.ports ∧ f.ports ≤ 4)
    && decide (1 ≤ f.node ∧ f.node ≤ 8) && f.size % f.node == 0
    && (if f.node = f.size then f.gports == 0 else decide (1 ≤ f.gports ∧ f.gports ≤ 4))
    && f.landBase % 2 ^ 21 == 0 && decide (64 ≤ f.landTrains ∧ f.landTrains ≤ 65536) && decide f.members.Nodup

/-- The ports of a ring with their use (R411). -/
def tradePortUse (f : TradeFields) : List (Nat × Nat) :=
  (f.portOut.take f.ports ++ f.portIn.take f.ports).map (fun p => (p, 2))
    ++ (f.gportOut.take f.gports ++ f.gportIn.take f.gports).map (fun p => (p, 3))
    ++ (meshPorts f).map fun m => (m.1, 4)

/-- A zeroed group state record (R259). -/
def GroupState.zero : GroupState := { step := 0, fallback := 0, retries := 0, flags := 0 }

/-- TRADE_RING_CREATE (R231 to R233, R259): completes with formation. -/
def execTradeRingCreate (h : PktHead) (f : TradeFields) (s : State) : Host.Outcome State Fault Refusal :=
  .next <| s.commit h 0x0510 1 fun s =>
    let use := tradePortUse f
    let ports := use.map Prod.fst
    if !TradeFields_ok f || (s.tradeOf f.ctx).isSome || decide (4 ≤ s.trade.length) || !(ports.all s.portFree) || !(decide ports.Nodup) then
      s.replyWrite h 0x0510 1 .tradeFormMismatch []
    else if (kvGet f.ctx s.ctxs).isNone then s.replyWrite h 0x0510 1 .ctxUnknown []
    else
      let t : Trade :=
        { f := f, form := Form.new h s.refCount, number := 0, op := none, gather := false, opened := [], started := false,
          amaxDone := false, digest := 0, buckets := [], trains := [], sent := [], asked := [], credit := 0, granted := 0,
          restarts := 0, skew := false, limit := false, poison := false, nonfinite := 0, contributed := false, held := none,
          finals := [], gheld := [], gsent := [], early := [], states := List.replicate 64 GroupState.zero }
      let s := { s with trade := kvSet (gkey f.ctx f.tag) t s.trade }
      (s.bindPorts use f.tag).formStart (tradeView f)

/-- TRADE_RING_DESTROY (R152, R232, R438; log 39). -/
def execTradeRingDestroy (h : PktHead) (tag ctx : Nat) (s : State) : Host.Outcome State Fault Refusal :=
  s.command h 0x0511 1 fun s =>
    match kvGet (gkey ctx tag) s.trade with
    | none => refuse .tradeNoRing s
    | some t =>
      let s := if t.op.isSome then s.tradeFail ctx 4 0xFF .tradeLink else s
      let s := (s.formReply .trade ctx tag .tradeFormTimeout).ringLapse tag
      let s := s.bindPorts ((tradePortUse t.f).map fun p => (p.1, 0)) 0
      (.ok, [], { s with trade := kvDel (gkey ctx tag) s.trade })

/-- TRADE_RING_QUERY (R152, R232; 64 bits each, log 18): state, landing slots in use, reduction number, buckets in flight. A ring has no
circulation and no rotation. -/
def execTradeRingQuery (h : PktHead) (tag ctx : Nat) (s : State) : Host.Outcome State Fault Refusal :=
  s.command h 0x0512 1 fun s =>
    match kvGet (gkey ctx tag) s.trade with
    | none => refuse .tradeNoRing s
    | some t =>
      (.ok, leBytes 8 t.form.state ++ leBytes 8 t.trains.length ++ leBytes 8 t.number ++ leBytes 8 (t.buckets.filter fun b => b.verdict.isNone).length, s)

/-- A group state record as bytes, and read back (R259). -/
def GroupState.bytes (g : GroupState) : List Byte :=
  leBytes 8 g.step ++ leBytes 4 g.fallback ++ leBytes 4 g.retries ++ leBytes 1 g.flags ++ zeros 47
def groupStateOf (l : List Byte) : GroupState :=
  { step := field l 0 8, fallback := field l 8 4, retries := field l 12 4, flags := field l 16 1 % 4 }

/-- TRADE_STATE_READ (R259). -/
def execTradeStateRead (h : PktHead) (ctx first count : Nat) (s : State) : Host.Outcome State Fault Refusal :=
  s.command h 0x0513 (1 + count) fun s =>
    guarded [(count == 0, .paramRange), (decide (64 < first + count), .paramRange)] s fun s =>
      match s.tradeOf ctx with
      | none => refuse .tradeNoRing s
      | some g => (.ok, ((g.2.states.drop first).take count).flatMap GroupState.bytes, s)

/-- Is a reduction, gather or update of a context in flight (R259)? -/
def State.tradeBusy (s : State) (c : Nat) : Bool :=
  match kvGet c s.ctxs with
  | none => false
  | some x =>
    (s.trade.any fun g => g.1 / 2 ^ 32 == c && g.2.sending) || (match x.plan, x.run with
    | some p, some r => (List.zip p.ops r.ops).any fun e =>
        e.2.st = .begun && (e.1.kind == 0x000A || e.1.kind == 0x000B || e.1.kind == 0x000C)
    | _, _ => false)

/-- Is everything zero that a group state record reserves (R259, R355)? -/
def stateRecordOk (r : List Byte) : Bool := decide (field r 16 1 < 4) && (r.drop 17).all (· == 0)

/-- TRADE_STATE_WRITE (R259, R448). -/
def execTradeStateWrite (h : PktHead) (ctx first count : Nat) (records : List Byte) (s : State) : Host.Outcome State Fault Refusal :=
  s.command h 0x0514 1 fun s =>
    guarded [(records.length != 64 * count, .paramLength), (count == 0, .paramRange), (decide (64 < first + count), .paramRange),
        (!((chunks 64 count records).all stateRecordOk), .paramRange)] s fun s =>
      match s.tradeOf ctx with
      | none => refuse .tradeNoRing s
      | some _ =>
        if s.tradeBusy ctx then refuse .tradeBusy s
        else
          let new := (chunks 64 count records).map groupStateOf
          let s := s.tradeDo ctx fun t => { t with states := t.states.take first ++ new ++ t.states.drop (first + count) }
          let s := s.ctxDo ctx fun x => { x with ringBroke := false }
          (.ok, [], s.journal 0x0008 false ctx (leBytes 2 ctx ++ leBytes 1 first ++ leBytes 1 count))

/-! ## Operations -/

/-- The buckets as an operation finds them: a reduction chooses each scale from its record (R243). -/
def State.openBuckets (s : State) (c : Nat) (gather : Bool) (l : List (List Nat)) : Rd (List Bucket) :=
  rdAll (fun x =>
    let b := Bucket.new x
    if gather then .ok (b, none)
    else match s.rdBytes c b.scale 64 with
      | .error y => .error y
      | .ok r =>
        if field r.1 51 1 = 0 then .ok ({ b with fresh := true }, r.2)
        else .ok ({ b with e := some (srExponent r.1) }, r.2)) l

/-- A reduction or gather begins: OPEN on every out-port, landing credit (R234, R241, R248); with no ring, or a failed one, it ends with ST_TRADE_LINK
(R368). -/
def State.tradeBegin (s : State) (c i table n : Nat) (gather : Bool) : State :=
  if !s.mayIssue c i then s
  else match s.tradeOf c, s.opOf c i with
  | none, _ => (s.opBegin c i .none).opEnd c i .tradeLink []
  | some _, none => s
  | some g, some (_, _, r, _, _) =>
    if g.2.form.state = 0 then s
    else if g.2.form.state = 2 then (s.opBegin c i .none).opEnd c i .tradeLink []
    else
      let s := s.opBegin c i (.wait 0)
      s.opTry c i (s.rdBytes c table (64 * n)) fun l =>
        s.opTry c i (s.openBuckets c gather ((List.range n).map (bucketAt l.1))) fun bs =>
          match pFirst l.2 bs.2 with
          | some pa => (s.opPoison c i 0 pa).opEnd c i .ok []
          | none =>
            let digest := (Config.shake256 l.1).setWidth 128
            let limit := bs.1.any fun b => g.2.stepOf b.group == 2 ^ 64 - 1
            let s := s.tradeDo c fun t =>
              { (Trade.clear t) with op := some i, gather := gather, digest := digest, buckets := bs.1, limit := limit }
            let msg := ctlMsg msgOpen (leBytes 4 g.2.f.tag ++ leBytes 8 g.2.number ++ leBytes 8 r.step ++ leBytes 16 digest.toNat)
            let s := (tradeView g.2.f).outs.foldl (fun s p => s.sendUnit p 0 c g.2.f.tag msg) s
            (s.tradeGrant c).tradeRun c

/-- TRADE_REDUCE (R234 to R251). -/
def execTradeReduce (c op : Nat) (errs : List SectorErr) (s : State) : Host.Outcome State Fault Refusal :=
  done <| let s := s.opRecover c op (fun o => o.kind == 0x000A) errs
    match s.opOf c op with
    | some (_, _, _, .tradeReduce t n _, _) => s.tradeBegin c op t n false
    | _ => s

/-- TRADE_GATHER (R254, R255). -/
def execTradeGather (c op : Nat) (errs : List SectorErr) (s : State) : Host.Outcome State Fault Refusal :=
  done <| let s := s.opRecover c op (fun o => o.kind == 0x000B) errs
    match s.opOf c op with
    | some (_, _, _, .tradeGather t n _, _) => s.tradeBegin c op t n true
    | _ => s

/-! ## Ring commands -/

/-- OPEN_MESSAGE (R234). -/
def execOpenMessage (m : OpenMsg) (s : State) : Host.Outcome State Fault Refusal :=
  done (s.tradeArrive m.ctx (.openTable m.port m.tag m.number m.step m.digest))

/-- AMAX_EXCHANGE_MESSAGE (R244). -/
def execAmaxExchangeMessage (c : Nat) (second : Bool) (l : List (Nat × W32)) (s : State) : Host.Outcome State Fault Refusal :=
  done (s.tradeArrive c (.amax second l))

/-- TRAIN_LAND (R239 to R241, R248, R256). -/
def execTrainLand (c port : Nat) (train : List Byte) (errs : List SectorErr) (s : State) : Host.Outcome State Fault Refusal :=
  done <| State.landed (c := c) (vc := 3) <|
    let s := match s.tradeOf c with
      | some g => s.recoverRanges c (g.2.buckets.map fun (b : Bucket) => (b.grad, 4 * b.elems)) errs
      | none => s
    s.tradeArrive c (.train port train)

/-- The reduce train that leaves next: in ascending (bucket, train) among those that may (R241). -/
def Trade.nextTrain (t : Trade) : Option (Nat × Bucket × Option Train) :=
  (enumFrom 0 t.buckets).findSome? fun x =>
    let b := x.2
    if b.owner = t.f.rank ∨ b.verdict.isSome ∨ b.e.isNone ∨ b.count ≤ b.done then none
    else if (b.owner + 1) % t.f.size = t.f.rank then some (x.1, b, none)
    else (t.trains.find? fun y => y.bucket == x.1 && y.attempt == b.attempt && y.idx == b.done).map fun y => (x.1, b, some y)

/-- TRAIN_SEND (R236 to R241, R254): the next train, with landing credit for a reduce train. -/
def execTrainSend (c : Nat) (errs : List SectorErr) (s : State) : Host.Outcome State Fault Refusal :=
  done <|
    let s := s.tradeRun c
    match s.tradeEnv c with
    | none => s.tailSend c errs
    | some e =>
      if !s.circRuns c ∨ !e.t.started ∨ !e.t.amaxDone then s
      else if e.t.gather then
        match e.t.nextGather with
        | none => s
        | some x => (s.gatherRead c e.t x errs).gatherSend e x
      else
        match e.t.nextTrain with
        | none => s
        | some x =>
          match s.sharePort e.t.outs x.2.1.done with
          | none => s
          | some p =>
            if e.t.credit = 0 then s
            else
              let b : Bucket := x.2.1
              let land : List (Nat × Nat) := match x.2.2 with | some y => [(e.t.slotAddr y.slot, 20 + y.len)] | none => []
              let s := s.recoverRanges c ([(b.grad, 4 * b.elems), (b.resid, 8 * b.elems)] ++ land) errs
              s.opTry c e.i (s.hopSend e x.1 b x.2.2 p) fun s => s.tradeRun c

/-- TRADE_LANDING_CREDIT (R241). -/
def execTradeLandingCredit (c count : Nat) (s : State) : Host.Outcome State Fault Refusal :=
  done ((s.progress 3 c 0).tradeDo c fun t => if t.form.state = 1 then { t with credit := t.credit + count } else t)

/-- TRAIN_REREQUEST (R256): the train goes out again on the port that asks for it, its poison with it. -/
def execTrainRerequest (c port bucket train : Nat) (s : State) : Host.Outcome State Fault Refusal :=
  done <| match s.tradeOf c with
    | none => s
    | some g =>
      if g.2.form.state ≠ 1 then s
      else match g.2.sent.reverse.find? fun y => y.bucket == bucket && y.idx == train && (y.port == port || !g.2.gather) with
      | some y => s.sendMarked port 3 c g.2.f.tag y.bytes y.poison
      | none => s

/-- BUCKET_VERDICT_MESSAGE (R246). -/
def execBucketVerdictMessage (c bucket : Nat) (v : Verdict) (e : Int) (peak : Nat) (s : State) : Host.Outcome State Fault Refusal :=
  done (s.tradeArrive c (.verdict bucket v e peak))

/-- VERDICT_RECORD_MESSAGE (R250). -/
def execVerdictRecordMessage (c : Nat) (record : List Byte) (s : State) : Host.Outcome State Fault Refusal :=
  done (s.tradeArrive c (.record record))

/-- FINAL_VERDICT_RECORD (R250, R251, R438). -/
def execFinalVerdictRecord (c : Nat) (record : List Byte) (s : State) : Host.Outcome State Fault Refusal :=
  done (s.tradeArrive c (.final record))

/-- GATHER_TRAIN_LAND (R254, R255). -/
def execGatherTrainLand (c port : Nat) (train : List Byte) (poisoned : List Nat) (s : State) : Host.Outcome State Fault Refusal :=
  done ((s.tradeArrive c (.gather port train poisoned)).landed c 3)

/-- TRADE_STALL_TIMEOUT (R256). -/
def execTradeStallTimeout (c : Nat) (s : State) : Host.Outcome State Fault Refusal :=
  done <| match s.tradeEnv c with
    | some e =>
      (match s.stallDue 3 c 0 e.t.f.stallLimit ((e.r.ops[e.i]?.map OpRun.began).getD 0) with
       | some x => x.2.post 0x0503 c (groupData e.t.f.tag 2 0xFF x.1)
       | none => s)
    | none => s

end Sys2Proof.Machine
end

