-- ==== Sys2Proof/Machine/Update.lean ====
section
/-! DEFINITION. Parameter update on the owning module (10_parameter_update): gradient scale, element update, block preconditioners,
the loss scale. -/
namespace Sys2Proof.Machine

/-! One declaration after another, so that the check's memory is not shared among many threads. -/
set_option Elab.async false

/-! ## The group table (R258, R263) -/

/-- An FP32 field as an entry. -/
def fieldEnt (l : List Byte) (o : Nat) : Entry := loadEnt (BitVec.ofNat 32 (field l o 4))

/-- Fields of a group table entry. -/
def pgAlgo (g : List Byte) : Nat := field g 0 1 % 4
def pgBias (g : List Byte) : Bool := bitOf (field g 0 1) 2
def pgRoot (g : List Byte) : Nat := field g 1 1
def pgRefresh (g : List Byte) : Nat := field g 4 2

/-- Does a decay lie in [0, 1)? -/
def decayOk (a : Entry) : Bool :=
  let x := fv32 a.v
  x.isFin && (fvCmp x fvZero == some .gt || fvCmp x fvZero == some .eq) && fvCmp x (fvInt 1) == some .lt

/-- Is a value finite and not negative? -/
def notNegative (a : Entry) : Bool :=
  let x := fv32 a.v
  x.isFin && (fvCmp x fvZero == some .gt || fvCmp x fvZero == some .eq)

/-- A group table entry passes (R263). -/
def groupOk (g : List Byte) : Bool :=
  pgAlgo g != 3 && decayOk (fieldEnt g 12) && decayOk (fieldEnt g 16)
    && [8, 20, 24, 28, 32].all (fun o => notNegative (fieldEnt g o))
    && (pgAlgo g != 2 || ((pgRoot g == 2 || pgRoot g == 4) && pgBlock g % 32 == 0 && decide (32 ≤ pgBlock g ∧ pgBlock g ≤ 1024)
      && pgRefresh g != 0))

/-! ## Gradient scale and bias correction (R264, R265) -/

/-- The constant 1.0. -/
def oneEnt : Entry := ⟨0x3F800000#32, 0#4, false⟩

/-- pf_pow (R265): the 64 bits of t from the highest. -/
def pfPow (beta : Entry) (t : Nat) : PF :=
  ((List.range 64).map fun k => 63 - k).foldl (fun r k =>
    let r := pfMul r r
    if bitOf t k then pfMul r (pfOf beta) else r) (pfOf oneEnt)

/-- A bias correction's reciprocal (R265). -/
def biasOf (flush : Bool) (beta : Entry) (t : Nat) : Entry := sfuFn 4 flush (pfSub (pfOf oneEnt) (pfPow beta t)).entHi

/-- The update multiplier k (R264) for loss scale 2^s and this norm. -/
def updMultiplier (flush : Bool) (g : List Byte) (ls : Nat) (norm : W32) : Entry :=
  let k0 := eMul flush (fieldEnt g 28) ⟨round32 (fvScaled 1 (-(ls : Int))), 0#4, false⟩
  let ng := eMul flush (loadEnt norm) k0
  let clip := fieldEnt g 32
  let f := if fvCmp (opnd flush clip).1 fvZero = some .gt ∧ fvCmp (opnd flush ng).1 (opnd flush clip).1 = some .gt then eMul flush clip (sfuFn 4 flush ng) else oneEnt
  eMul flush k0 f

/-- What a group's elements share (R264 to R266). -/
structure UpdK where
  algo : Nat
  flush : Bool
  lr : Entry
  b1 : Entry
  b2 : Entry
  eps : Entry
  decay : Entry
  k : Entry
  c1 : Entry
  c2 : Entry
  r1 : Entry
  r2 : Entry

/-- The constants of a group with committed count `c`. -/
def updConsts (flush : Bool) (g : List Byte) (c ls : Nat) (norm : W32) : UpdK :=
  let b1 := fieldEnt g 12
  let b2 := fieldEnt g 16
  { algo := pgAlgo g, flush := flush, lr := fieldEnt g 8, b1 := b1, b2 := b2, eps := fieldEnt g 20, decay := fieldEnt g 24,
    k := updMultiplier flush g ls norm, c1 := eSub flush oneEnt b1, c2 := eSub flush oneEnt b2,
    r1 := if pgBias g then biasOf flush b1 (c + 1) else oneEnt, r2 := if pgBias g then biasOf flush b2 (c + 1) else oneEnt }

/-! ## The element update (R266, R267) -/

/-- New m, v and w from the gradient g; for algorithm 2, g is gt. -/
def updElem (k : UpdK) (g m v : Entry) (w : PF) : Entry × Entry × PF :=
  let fl := k.flush
  let m2 := if k.algo = 0 then eFma fl k.b1 m g else eFma fl k.b1 m (eMul fl k.c1 g)
  let v2 := if k.algo = 1 then eFma fl k.b2 v (eMul fl k.c2 (eMul fl g g)) else v
  let u :=
    if k.algo = 0 then m2
    else if k.algo = 1 then eMul fl (eMul fl m2 k.r1) (sfuFn 4 fl (eAdd fl (sfuFn 6 fl (eMul fl v2 k.r2)) k.eps))
    else eMul fl m2 k.r1
  let d := eMul fl k.lr (eAdd fl u (eMul fl k.decay w.entHi))
  (m2, v2, pfSub w (pfOf d))

/-- The working copy of a master: one rounding of the exact sum, through its scale for FP8 (R37, R266). -/
def workingCopy (fmt mode : Nat) (scale : FV) (w : PF) : Wb :=
  if fmtOf fmt = .fp32 then wbEntry ffFp32 mode w.entHi
  else if (fmtOf fmt).isFp8 then writeback (fmtOf fmt).ff mode (fvDiv (pfExact w.hi w.lo) scale) w.fl w.nin
  else writeback (fmtOf fmt).ff mode (pfExact w.hi w.lo) w.fl w.nin

/-- PF32 values of a byte string. -/
def pfsOf (l : List Byte) : List PF :=
  (chunks 8 (l.length + 1) l).map fun b =>
    let a := fieldEnt b 0
    ⟨a.v, BitVec.ofNat 32 (field b 4 4), a.fl, a.nin⟩

/-! ## Buckets, units, blocks (R261, R268, R273) -/

/-- An update in progress. -/
structure UEnv where
  c : Nat
  i : Nat
  r : Run
  f : UpdF
  u : UpdProg
  t : Trade

/-- The update in progress with this index. -/
def State.updEnv (s : State) (c i : Nat) : Option UEnv :=
  match s.opOf c i, s.tradeOf c with
  | some (_, _, r, .optUpdate f, q), some g =>
    (match q.st, q.prog with
     | .begun, .upd u => some ⟨c, i, r, f, u, g.2⟩
     | _, _ => none)
  | _, _ => none

/-- Change an update's progress. -/
def State.updDo (s : State) (c i : Nat) (f : UpdProg → UpdProg) : State :=
  s.opDo c i fun q => match q.prog with
    | .upd u => { q with prog := .upd (f u) }
    | _ => q

/-- A bucket's group table entry. -/
def UEnv.pg (e : UEnv) (b : List Nat) : List Byte := (e.u.groups[nth b 0]?).getD (zeros 64)

/-- Rows and columns of a bucket's matrix (R261). -/
def bsRows (bs : List Byte) : Nat := field bs 32 4
def bsCols (bs : List Byte) : Nat := field bs 36 4

/-- A bucket state entry (R261). -/
def State.bsEntry (s : State) (e : UEnv) (k : Nat) : Rd (List Byte) := s.rdBytes e.c (e.f.state + 64 * k) 64

/-- Owned buckets in ascending order, with their entries. -/
def State.ownedBuckets (s : State) (e : UEnv) : Rd (List (Nat × List Nat × List Byte)) :=
  rdAll (fun (x : Nat × List Nat) =>
    match s.bsEntry e x.1 with
    | .error y => .error y
    | .ok r => .ok ((x.1, x.2, r.1), r.2)) ((enumFrom 0 e.u.bks).filter fun x => nth x.2 1 == e.t.f.rank)

/-- Units of a bucket: chunks, or blocks of the tiling (R268, R273). -/
def UEnv.unitsOf (e : UEnv) (b : List Nat) (bs : List Byte) : Nat :=
  let g := e.pg b
  if pgAlgo g = 2 then ceilDiv (bsRows bs) (pgBlock g) * ceilDiv (bsCols bs) (pgBlock g) else ceilDiv (nth b 2) 4096

/-- All units in order: bucket, its fields, its entry, chunk or block. -/
def UEnv.units (e : UEnv) (l : List (Nat × List Nat × List Byte)) : List (Nat × List Nat × List Byte × Nat) :=
  l.flatMap fun x => (List.range (e.unitsOf x.2.1 x.2.2)).map fun j => (x.1, x.2.1, x.2.2, j)

/-- Block `j`'s origin and size: first row, first column, rows, columns. -/
def blockGeo (bs : List Byte) (b j : Nat) : Nat × Nat × Nat × Nat :=
  let per := ceilDiv (bsCols bs) b
  let r0 := j / per * b
  let c0 := j % per * b
  (r0, c0, min b (bsRows bs - r0), min b (bsCols bs - c0))

/-- The runs of consecutive elements of a unit: first element and count. -/
def UEnv.runs (e : UEnv) (b : List Nat) (bs : List Byte) (j : Nat) : List (Nat × Nat) :=
  let g := e.pg b
  if pgAlgo g = 2 then
    let q := blockGeo bs (pgBlock g) j
    (List.range q.2.2.1).map fun i => ((q.1 + i) * bsCols bs + q.2.1, q.2.2.2)
  else [(4096 * j, min 4096 (nth b 2 - 4096 * j))]

/-- The address of block `j`'s slot, and of its planes (R273). -/
def slotOf (bs : List Byte) (b j : Nat) : Nat := field bs 24 8 + j * (24 * b * b + 64)
def statPlane (slot b : Nat) (right : Bool) (plane : Nat) : Nat := slot + 64 + (if right then 8 * b * b else 0) + plane * 4 * b * b
def rootPlane (slot b : Nat) (right : Bool) (plane : Nat) : Nat := slot + 64 + (if right then 20 * b * b else 16 * b * b) + plane * 2 * b * b

/-- Read the runs of a tensor with elements of `w` bytes. -/
def State.rdRuns (s : State) (c base w : Nat) (l : List (Nat × Nat)) : Rd (List Byte) :=
  match rdAll (fun x : Nat × Nat => s.rdBytes c (base + w * x.1) (w * x.2)) l with
  | .error y => .error y
  | .ok r => .ok (r.1.flatten, r.2)

/-- Write the runs of a tensor. -/
def State.wrRuns (s : State) (c base w : Nat) : List (Nat × Nat) → List Byte → Except OpErr State
  | [], _ => .ok s
  | x :: t, l =>
    match (s.coverClear c ((x :: t).map fun y => (base + w * y.1, w * y.2))).wrBytes c (base + w * x.1) (l.take (w * x.2)) with
    | .error y => .error y
    | .ok s => s.wrRuns c base w t (l.drop (w * x.2))

/-- Poison the runs of a tensor. -/
def State.poisonRuns (s : State) (c base w : Nat) (l : List (Nat × Nat)) : State :=
  l.foldl (fun s x => s.vpoison c (base + w * x.1) (w * x.2)) s

/-! ## Block products (R274) -/

/-- One element of a matrix product under R45 to R53: groups of 32 in ascending K. -/
def dotGroups (flush : Bool) : Nat → List (FV × FV) → Entry → Entry
  | 0, _, a => a
  | n + 1, l, a => if l.isEmpty then a else dotGroups flush n (l.drop 32) (accAdd flush a (groupSum ffBf16 ffBf16 flush (l.take 32)))

/-- A product of BF16 matrices given as rows of A and columns of B. -/
def bfProduct (flush : Bool) (rows cols : List (List FV)) : List (List Entry) :=
  rows.map fun a => cols.map fun b => dotGroups flush (a.length / 32 + 1) (List.zip a b) Entry.zero

/-- Columns of a matrix given by rows, `n` of them. -/
def colsOf {α : Type} (z : α) (n : Nat) (m : List (List α)) : List (List α) := (List.range n).map fun j => m.map fun r => r.getD j z

/-- A BF16 rounding as an operand (R37). -/
def bfOf (mode : Nat) (a : Entry) : FV := fvOf ffBf16 (wbEntry ffBf16 mode a).pat

/-- BF16 values of a byte string as rows of `n`. -/
def bfRows (flush : Bool) (n : Nat) (l : List Byte) : List (List FV) :=
  let xs := (chunks 2 (l.length + 1) l).map fun b => (readFv ffBf16 flush (leNat b)).1
  chunks n (xs.length + 1) xs

/-- A BF16 value widened to FP32. -/
def widenEnt (x : FV) : Entry := loadEnt (w32 x)

/-- What a block unit reads beside the elements: header, both statistics planes of parity c, both current roots. -/
structure BlockIn where
  head : List Byte
  l : List Byte
  r : List Byte
  lroot : List Byte
  rroot : List Byte

def State.blockRead (s : State) (c slot b r n parity : Nat) : Rd BlockIn :=
  match s.rdBytes c slot 64, s.rdBytes c (statPlane slot b false parity) (4 * r * r), s.rdBytes c (statPlane slot b true parity) (4 * n * n) with
  | .ok h, .ok l, .ok q =>
    let fl := field h.1 0 1
    let lp : Rd (List Byte) := if bitOf fl 1 then s.rdBytes c (rootPlane slot b false (fl % 2)) (2 * r * r) else .ok ([], none)
    let rp : Rd (List Byte) := if bitOf fl 3 then s.rdBytes c (rootPlane slot b true (fl / 4 % 2)) (2 * n * n) else .ok ([], none)
    (match lp, rp with
     | .ok x, .ok y => .ok ({ head := h.1, l := l.1, r := q.1, lroot := x.1, rroot := y.1 }, pFirst h.2 (pFirst l.2 (pFirst q.2 (pFirst x.2 y.2))))
     | .error e, _ => .error e
     | .ok _, .error e => .error e)
  | .error e, _, _ => .error e
  | .ok _, .error e, _ => .error e
  | .ok _, .ok _, .error e => .error e

/-- A block's preconditioned gradient and its new statistics (R274): gt by rows, L' and R' as they are written (R56). -/
def blockStep (k : UpdK) (mode r n : Nat) (x : BlockIn) (gs : List Entry) : List Entry × List Wb × List Wb :=
  let fl := k.flush
  let g := chunks n (gs.length + 1) (gs.map (bfOf mode))
  let gc := colsOf (fvInt 0) n g
  let stat (old : List Byte) (p : List (List Entry)) : List Wb :=
    (List.zip ((wordsOf old).map loadEnt) p.flatten).map fun z => wbEntry ffFp32 mode (eFma fl k.b2 z.1 (eMul fl k.c2 z.2))
  let h : List (List FV) := if x.lroot.isEmpty then g else (bfProduct fl (bfRows fl r x.lroot) gc).map fun row => row.map (bfOf mode)
  let gt : List Entry :=
    if x.rroot.isEmpty then h.flatten.map widenEnt
    else (bfProduct fl h (colsOf (fvInt 0) n (bfRows fl n x.rroot))).flatten
  (gt, stat x.l (bfProduct fl g g), stat x.r (bfProduct fl gc gc))

/-! ## Units of the element phase (R267, R268, R270) -/

/-- The element counts of a stored value: bucket and element are the capture's place (R267). -/
def updCount (n : NumStat) (k x : Nat) (w : Wb) : NumStat := n.count w ⟨w.kind, k, x, noGroup, 0, 0⟩

/-- Counts of a plane's elements, statistics or a root: bucket and place in the plane (R56, R58, log 97). -/
def planeCount (n : NumStat) (k : Nat) (l : List Wb) : NumStat := (enumFrom 0 l).foldl (fun n x => updCount n k x.1 x.2) n

/-- The scale of a bucket's working copy: the history's, or 1.0; none where the copy waits for the new masters (R280, R281). -/
def UEnv.scaleOf (e : UEnv) (k : Nat) : Option FV := match kvGet k e.u.scales with | some none => none | some (some w) => some (fv32 w) | none => some (fvInt 1)

/-- Poison everything a unit writes (R270). -/
def State.spoilUnit (s : State) (e : UEnv) (b : List Nat) (bs : List Byte) (j : Nat) : State :=
  let g := e.pg b
  let runs := e.runs b bs j
  let s := s.poisonRuns e.c (field bs 0 8) 8 runs
  let s := s.poisonRuns e.c (field bs 8 8) 4 runs
  let s := if pgAlgo g = 1 then s.poisonRuns e.c (field bs 16 8) 4 runs else s
  let s := if nth b 7 = 0 then s else s.poisonRuns e.c (nth b 7) (fmtOf (nth b 8)).size runs
  let s :=
    if pgAlgo g = 2 then
      let q := blockGeo bs (pgBlock g) j
      let slot := slotOf bs (pgBlock g) j
      let nx := (e.t.stepOf (nth b 0) + 1) % 2
      (s.vpoison e.c (statPlane slot (pgBlock g) false nx) (4 * q.2.2.1 * q.2.2.1)).vpoison e.c (statPlane slot (pgBlock g) true nx) (4 * q.2.2.2 * q.2.2.2)
    else s
  s.opSpoil e.c e.i

/-- The norm and loss scale that an update acts on (R264). -/
def UEnv.norm (e : UEnv) : W32 := recordNorm (kvGetD e.f.reduce e.t.finals (zeros 64))

/-- Written values as elements of `w` bytes. -/
def wbBytes (w : Nat) (l : List Wb) : List Byte := l.flatMap fun x => leBytes w x.pat

/-- A unit's results written: m, v, master and, where its scale is known, the working copy; with the counts (R267). -/
def State.writeUnit (s : State) (e : UEnv) (k : Nat) (b : List Nat) (bs : List Byte) (algo : Nat) (runs : List (Nat × Nat))
    (res : List (Entry × Entry × PF)) : Except OpErr State :=
  let xs := runs.flatMap fun r => (List.range r.2).map (· + r.1)
  let mode := e.f.numMode
  let ms := res.map fun x => wbEntry ffFp32 mode x.1
  let vs := if algo = 1 then res.map fun x => wbEntry ffFp32 mode x.2.1 else []
  let ws := res.map fun x => storeFv .pf32 mode (fvInt 1) x.2.2.entHi x.2.2.entLo
  let ps := match e.scaleOf k with
    | some sc => if nth b 7 = 0 then [] else res.map fun x => workingCopy (nth b 8) mode sc x.2.2
    | none => []
  let num := (List.zip xs ms ++ List.zip xs vs ++ List.zip xs ws ++ List.zip xs ps).foldl (fun n x => updCount n k x.1 x.2) NumStat.zero
  match s.wrRuns e.c (field bs 8 8) 4 runs (wbBytes 4 ms) with
  | .error y => .error y
  | .ok s =>
    match (if algo = 1 then s.wrRuns e.c (field bs 16 8) 4 runs (wbBytes 4 vs) else .ok s) with
    | .error y => .error y
    | .ok s =>
      match s.wrRuns e.c (field bs 0 8) 8 runs (wbBytes 8 ws) with
      | .error y => .error y
      | .ok s =>
        match (if ps.isEmpty then Except.ok s else s.wrRuns e.c (nth b 7) (fmtOf (nth b 8)).size runs (wbBytes (fmtOf (nth b 8)).size ps)) with
        | .error y => .error y
        | .ok s => .ok (s.opCount e.c e.i num)

/-- Run a unit (R266, R267, R274); `bad`: the first poisoned sector among what every unit reads, the loss-scale record's. -/
def State.runUnit (s : State) (e : UEnv) (ls : Nat) (bad : Option Nat) (x : Nat × List Nat × List Byte × Nat) : Except OpErr State :=
  let k := x.1
  let b := x.2.1
  let bs := x.2.2.1
  let j := x.2.2.2
  let g := e.pg b
  let runs := e.runs b bs j
  let c := e.t.stepOf (nth b 0)
  let kk := updConsts (modeFlush e.f.numMode) g c ls e.norm
  let vbase := if kk.algo = 1 then field bs 16 8 else field bs 8 8
  match s.rdRuns e.c (nth b 4) 4 runs, s.rdRuns e.c (field bs 8 8) 4 runs, s.rdRuns e.c vbase 4 runs, s.rdRuns e.c (field bs 0 8) 8 runs with
  | .ok o, .ok m, .ok v, .ok w =>
    let gs := (wordsOf o.1).map fun z => eMul kk.flush (loadEnt z) kk.k
    let q := blockGeo bs (pgBlock g) j
    let slot := slotOf bs (pgBlock g) j
    let blk : Rd BlockIn := if kk.algo = 2 then s.blockRead e.c slot (pgBlock g) q.2.2.1 q.2.2.2 (c % 2)
      else .ok ({ head := [], l := [], r := [], lroot := [], rroot := [] }, none)
    (match blk with
     | .error y => .error y
     | .ok bi =>
       match pFirst o.2 (pFirst m.2 (pFirst v.2 (pFirst w.2 (pFirst bi.2 bad)))) with
       | some pa => .ok ((s.opPoison e.c e.i k pa).spoilUnit e b bs j)
       | none =>
         let st := blockStep kk e.f.numMode q.2.2.1 q.2.2.2 bi.1 gs
         let gs := if kk.algo = 2 then st.1 else gs
         let res := (List.zip gs (List.zip ((wordsOf m.1).map loadEnt) (List.zip ((wordsOf v.1).map loadEnt) (pfsOf w.1)))).map fun z =>
           updElem kk z.1 z.2.1 z.2.2.1 z.2.2.2
         match s.writeUnit e k b bs kk.algo runs res with
         | .error y => .error y
         | .ok s =>
           if kk.algo = 2 then
             match s.wrBytes e.c (statPlane slot (pgBlock g) false ((c + 1) % 2)) (wbBytes 4 st.2.1) with
             | .error y => .error y
             | .ok s =>
               match s.wrBytes e.c (statPlane slot (pgBlock g) true ((c + 1) % 2)) (wbBytes 4 st.2.2) with
               | .error y => .error y
               | .ok s => .ok (s.opCount e.c e.i (planeCount (planeCount NumStat.zero k st.2.1) k st.2.2))
           else .ok s)
  | .error y, _, _, _ => .error y
  | .ok _, .error y, _, _ => .error y
  | .ok _, .ok _, .error y, _ => .error y
  | .ok _, .ok _, .ok _, .error y => .error y

/-! ## The refresh (R275 to R279) -/

/-- A PF32 matrix by rows. -/
abbrev PMat := List (List PF)

def PMat.at (a : PMat) (i j : Nat) : PF := (a.getD i []).getD j pfZero

/-- C = A . B over ascending k (R277). -/
def pmMul (n : Nat) (a b : PMat) : PMat :=
  (List.range n).map fun i => (List.range n).map fun j =>
    (List.range n).foldl (fun acc k => pfAdd acc (pfMul (PMat.at a i k) (PMat.at b k j))) pfZero

/-- FP32 constants as PF32. -/
def pfInt (k : Int) : PF := pfOf ⟨round32 (fvInt k), 0#4, false⟩

/-- The LDL^T pivots from column `j` on: is one below thr (R277)? `ls` are the columns found, `ds` the pivots. -/
def lowPivot (flush : Bool) (n : Nat) (b : PMat) (thr : W32) : Nat → Nat → List (List PF) → List PF → Bool
  | 0, _, _, _ => false
  | f + 1, j, ls, ds =>
    if n ≤ j then false
    else
      let l (i k : Nat) : PF := (ls.getD k []).getD i pfZero
      let d := (List.range j).foldl (fun a k => pfSub a (pfMul (pfMul (l j k) (l j k)) (ds.getD k pfZero))) (PMat.at b j j)
      if fvCmp (fv32 d.hi) (fv32 thr) = some .lt then true
      else
        let rc := pfOf (sfuFn 4 flush d.entHi)
        let col := (List.range n).map fun i =>
          if i ≤ j then pfZero
          else
            let t := (List.range j).foldl (fun a k => pfSub a (pfMul (pfMul (l i k) (l j k)) (ds.getD k pfZero))) (PMat.at b i j)
            pfMul t rc
        lowPivot flush n b thr f (j + 1) (ls ++ [col]) (ds ++ [d])

/-- Is every element finite? -/
def pmFinite (a : PMat) : Bool := a.all fun r => r.all fun x => (fv32 x.hi).isFin

/-- The iterations of newton (R277). -/
def newtonLoop (n p : Nat) : Nat → PMat → PMat → Option PMat
  | 0, _, _ => none
  | f + 1, x, m =>
    let inv := pfOf ⟨round32 (fvScaled 1 (if p = 2 then -1 else -2)), 0#4, false⟩
    let t := (List.range n).map fun i => (List.range n).map fun j =>
      pfMul (pfSub (if i = j then pfInt (p + 1) else pfZero) (PMat.at m i j)) inv
    let x := pmMul n x t
    let t2 := pmMul n t t
    let m := if p = 2 then pmMul n t2 m else pmMul n (pmMul n t2 t2) m
    if !pmFinite x || !pmFinite m then none
    else if (List.range n).all fun i => (List.range n).all fun j =>
        fvCmp (fv32 (abs32 (pfSub (PMat.at m i j) (if i = j then pfInt 1 else pfZero)).hi)) (fvScaled 1 (-20)) != some .gt then some x
    else newtonLoop n p f x m

/-- newton (R277). -/
def newton (flush : Bool) (n p : Nat) (b : PMat) : Option PMat :=
  let sum := treeReduce pfAdd pfZero ((enumFrom 0 b.flatten).map fun x => (x.1, twoProd x.2.entHi x.2.entHi))
  let f := sfuFn 6 flush sum.entHi
  let z := eMul flush (pfInt (p + 1)).entHi (sfuFn 4 flush (eMul flush (pfInt 2).entHi f))
  let zr := if p = 2 then sfuFn 6 flush z else sfuFn 6 flush (sfuFn 6 flush z)
  let x := (List.range n).map fun i => (List.range n).map fun j => if i = j then pfOf zr else pfZero
  newtonLoop n p 40 x (b.map fun r => r.map fun e => pfMul e (pfOf z))

/-- The end of a refresh: a root with its damping, or a fallback with its reason (0 input, 1 damping); and the retries. -/
inductive RefreshEnd where
  | root (x : PMat) (eps : W32)
  | fallback (reason : Nat)

/-- The tries of R276 from `k` on. -/
def refreshTry (flush : Bool) (n p : Nat) (a : List (List Entry)) (thr : W32) : Nat → Nat → Entry → Nat → RefreshEnd × Nat
  | 0, _, _, r => (.fallback 1, r)
  | f + 1, k, eps, r =>
    let b : PMat := (enumFrom 0 a).map fun row => (enumFrom 0 row.2).map fun x =>
      if row.1 = x.1 then pfAdd (pfOf x.2) (pfOf eps) else pfOf x.2
    let again := refreshTry flush n p a thr f (k + 1) (eMul flush eps (pfInt 10).entHi) (if k = 4 then r else r + 1)
    if lowPivot flush n b thr (n + 1) 0 [] [] then again
    else match newton flush n p b with
      | some x => (.root x eps.v, r)
      | none => again

/-- refresh(A, n, p) (R276): the outcome and the retries. -/
def refreshOf (flush : Bool) (n p : Nat) (a : List (List Entry)) : RefreshEnd × Nat :=
  if a.any fun r => r.any Entry.special then (.fallback 0, 0)
  else
    let diag := (List.range n).map fun i => (i, pfOf ((a.getD i []).getD i Entry.zero))
    let mu := eMul flush (treeReduce pfAdd pfZero diag).entHi (sfuFn 4 flush (pfInt n).entHi)
    let least := fvScaled 1 (-126)
    if fvCmp (fv32 mu.v) least != some .gt && fvCmp (fv32 mu.v) least != some .eq then (.fallback 0, 0)
    else
      let eps := eMul flush (loadEnt 0x358637BD#32) mu
      let thr := eMul flush mu ⟨round32 (fvScaled 1 (-40)), 0#4, false⟩
      refreshTry flush n p a thr.v 5 0 eps 0

/-- The sides due at this update (R275), in order. -/
def State.sidesDue (s : State) (e : UEnv) (l : List (Nat × List Nat × List Byte)) : Rd (List (Nat × Nat × Nat)) :=
  let cand := l.flatMap fun x =>
    if pgAlgo (e.pg x.2.1) = 2 then (List.range (e.unitsOf x.2.1 x.2.2)).map fun j => (x.1, x.2.1, x.2.2, j) else []
  match rdAll (fun (x : Nat × List Nat × List Byte × Nat) =>
      let g := e.pg x.2.1
      match s.rdBytes e.c (slotOf x.2.2.1 (pgBlock g) x.2.2.2) 64 with
      | .error y => .error y
      | .ok h =>
        let due := (e.t.stepOf (nth x.2.1 0) + 1 + x.2.2.2) % pgRefresh g == 0
        let fl := field h.1 0 1
        .ok (((if due || !bitOf fl 1 then [(x.1, x.2.2.2, 0)] else []) ++ (if due || !bitOf fl 3 then [(x.1, x.2.2.2, 1)] else [])), h.2)) cand with
  | .error y => .error y
  | .ok r => .ok (r.1.flatten, r.2)

/-- Write a new root (R276): the non-current plane, its damping, then valid and current last; a poisoned one flips only (R279). A root
saturates under either overflow mode, since no refresh writes infinity (R278), and counts as every written tensor (R56, R58). -/
def State.writeRoot (s : State) (e : UEnv) (k slot b n : Nat) (right : Bool) (head : List Byte) (x : Option (PMat × W32)) : Except OpErr State :=
  let fl := field head 0 1
  let cur := if right then fl / 4 % 2 else fl % 2
  let plane := rootPlane slot b right (1 - cur)
  match x with
  | none =>
    (s.vpoison e.c plane (2 * n * n)).wrBytes e.c slot (leBytes 1 (fl ^^^ (if right then 4 else 1)))
  | some (m, eps) =>
    let ws := m.flatten.map fun v => writeback ffBf16 (e.f.numMode % 2) (pfExact v.hi v.lo) v.fl v.nin
    match s.wrBytes e.c plane (wbBytes 2 ws) with
    | .error y => .error y
    | .ok s =>
      match (s.opCount e.c e.i (planeCount NumStat.zero k ws)).wrBytes e.c (slot + (if right then 8 else 4)) (leBytes 4 eps.toNat) with
      | .error y => .error y
      | .ok s => s.wrBytes e.c slot (leBytes 1 ((fl ^^^ (if right then 4 else 1)) ||| (if right then 8 else 2)))

/-- A group state record with the retries and fallbacks of a refresh unit, added at its end (R259, R276, R278, R279). -/
def GroupState.count (g : GroupState) (retries fallbacks : Nat) : GroupState :=
  let top := 2 ^ 32 - 1
  { g with fallback := min (g.fallback + fallbacks) top, retries := min (g.retries + retries) top,
           flags := g.flags ||| ((if top ≤ g.fallback + fallbacks then 1 else 0) ||| (if top ≤ g.retries + retries then 2 else 0)) }

/-- The end of a refresh unit enters the operation's counters and the group's record. -/
def State.refreshCount (s : State) (e : UEnv) (gr refreshed retries fallbacks : Nat) : State :=
  (s.updDo e.c e.i fun u =>
    { u with refreshed := u.refreshed + refreshed, retries := u.retries + retries, fallbacks := u.fallbacks + fallbacks }).tradeDo e.c fun t =>
      { t with states := (enumFrom 0 t.states).map fun x => if x.1 = gr then x.2.count retries fallbacks else x.2 }

/-- Run a refresh unit; `spoil`: a third parity failure (R276 to R279). -/
def State.runRefresh (s : State) (e : UEnv) (spoil : Bool) (x : Nat × Nat × Nat) : Except OpErr State :=
  match e.u.bks[x.1]?, s.bsEntry e x.1 with
  | none, _ => .ok s
  | some _, .error y => .error y
  | some b, .ok bs =>
    let g := e.pg b
    let k := pgBlock g
    let right := x.2.2 == 1
    let q := blockGeo bs.1 k x.2.1
    let n := if right then q.2.2.2 else q.2.2.1
    let slot := slotOf bs.1 k x.2.1
    match s.rdBytes e.c slot 64, s.rdBytes e.c (statPlane slot k right ((e.t.stepOf (nth b 0) + 1) % 2)) (4 * n * n) with
    | .ok h, .ok a =>
      let bad := pFirst bs.2 (pFirst h.2 a.2)
      if spoil || bad.isSome then
        let s := match bad with | some pa => s.opPoison e.c e.i x.1 pa | none => s
        (s.opSpoil e.c e.i).writeRoot e x.1 slot k n right h.1 none
      else
        let rows := (wordsOf a.1).map loadEnt
        let r := refreshOf (modeFlush e.f.numMode) n (pgRoot g) (chunks n (rows.length + 1) rows)
        let gr := nth b 0
        (match r.1 with
         | .root m eps => (s.refreshCount e gr 1 r.2 0).writeRoot e x.1 slot k n right h.1 (some (m, eps))
         | .fallback reason =>
           let s := s.refreshCount e gr 0 r.2 1
          .ok (s.post 0x0304 e.c (leBytes 1 gr ++ leBytes 1 x.2.2 ++ leBytes 1 reason ++ zeros 1 ++ leBytes 4 x.1 ++ leBytes 4 x.2.1)))
    | .error y, _ => .error y
    | .ok _, .error y => .error y

/-! ## The loss scale (R271, R272) and the end (R269, R283) -/

/-- The loss-scale record after an update that committed, or an overflow; with the flags of `US_FLAGS`. -/
def lossScale (l : List Byte) (commit : Bool) : List Byte × Nat :=
  let e := field l 4 1
  let sat (n : Nat) : Nat := min (n + 1) (2 ^ 32 - 1)
  let put (l : List Byte) (e : Nat) : List Byte :=
    setBytes (setBytes l 0 (leBytes 4 (round32 (fvScaled 1 e)).toNat)) 4 (leBytes 1 e)
  if commit then
    let iv := if field l 6 2 = 0 then 2000 else field l 6 2
    let n := sat (field l 8 4)
    if iv ≤ n then
      (if e < 24 then (put (setBytes l 8 (zeros 4)) (e + 1), 1 + 4) else (setBytes l 8 (zeros 4), 1))
    else (setBytes l 8 (leBytes 4 n), 1)
  else
    let l := setBytes l 8 (zeros 4)
    if 0 < e then (put (setBytes l 12 (leBytes 4 (sat (field l 12 4)))) (e - 1), 2)
    else (setBytes l 16 (leBytes 4 (sat (field l 16 4))), 8)

/-- A group state record after a commit: the count of a named group rises, and sticks at its maximum (R248, R269). -/
def GroupState.commit (g : GroupState) (named : Bool) : GroupState :=
  { g with step := if named then min (g.step + 1) (2 ^ 64 - 1) else g.step }

/-- The new masters' absolute maximum (R281, R282). -/
def State.masterAmax (s : State) (e : UEnv) (b : List Nat) (bs : List Byte) : Rd W32 :=
  match s.rdBytes e.c (field bs 0 8) (8 * nth b 2) with
  | .error y => .error y
  | .ok r => .ok (((pfsOf r.1).foldl (fun m w => max32 m (abs32 w.hi)) 0#32), r.2)

/-- The working copies that waited for their masters: scale first, then the copy (R281). -/
def State.secondPass (s : State) (e : UEnv) : List (Nat × List Nat × List Byte) → Except OpErr State
  | [] => .ok s
  | (k, b, bs) :: t =>
    if kvGet k e.u.scales ≠ some none then s.secondPass e t
    else
      let fmt := nth b 8
      let runs := [(0, nth b 2)]
      match s.masterAmax e b bs, s.rdBytes e.c (field bs 40 8) 128, s.rdRuns e.c (field bs 0 8) 8 runs with
      | .ok a, .ok r, .ok w =>
        let sc := shScaleFor fmt a.1 (field r.1 67 1)
        let ps := (pfsOf w.1).map fun x => workingCopy fmt e.f.numMode (fv32 sc) x
        (match s.wrBytes e.c (field bs 40 8 + 68) (leBytes 4 sc.toNat) with
         | .error y => .error y
         | .ok s =>
           if a.2.isSome || w.2.isSome then ((s.poisonRuns e.c (nth b 7) (fmtOf fmt).size runs).opSpoil e.c e.i).secondPass e t
           else
             match s.wrRuns e.c (nth b 7) (fmtOf fmt).size runs (wbBytes (fmtOf fmt).size ps) with
             | .error y => .error y
             | .ok s => (s.opCount e.c e.i (planeCount NumStat.zero k ps)).secondPass e t)
      | .error y, _, _ => .error y
      | .ok _, .error y, _ => .error y
      | .ok _, .ok _, .error y => .error y

/-- Record the masters' amaxes (R282). -/
def State.updHist (s : State) (e : UEnv) : List (Nat × List Nat × List Byte) → Except OpErr State
  | [] => .ok s
  | (k, b, bs) :: t =>
    if (kvGet k e.u.scales).isNone then s.updHist e t
    else
      match s.masterAmax e b bs, s.rdBytes e.c (field bs 40 8) 128 with
      | .ok a, .ok r =>
        (match s.wrBytes e.c (field bs 40 8) (shRecorded r.1 a.1) with
         | .error y => .error y
         | .ok s => s.updHist e t)
      | .error y, _ => .error y
      | .ok _, .error y => .error y

/-- The commit, in one action (R269). -/
def State.updCommit (s : State) (e : UEnv) : State :=
  s.opTry e.c e.i (s.ownedBuckets e) fun l =>
    s.opTry e.c e.i (s.secondPass e l.1) fun s =>
      s.opTry e.c e.i (s.updHist e l.1) fun s =>
        s.opTry e.c e.i (s.rdBytes e.c e.f.lscale 64) fun r =>
          let ls := lossScale r.1 true
          let s := match r.2 with | some pa => s.opPoison e.c e.i 0 pa | none => s
          s.opTry e.c e.i (s.wrBytes e.c e.f.lscale (ls.1.take 20)) fun s =>
            let named (g : Nat) : Bool := e.u.bks.any fun b => nth b 0 == g
            let s := s.tradeDo e.c fun t =>
              { t with states := (enumFrom 0 t.states).map fun x => x.2.commit (named x.1) }
            s.opEnd e.c e.i .ok (updBlock e.u.refreshed e.u.retries e.u.fallbacks (field ls.1 4 1) ls.2)

/-- Before a phase starts, the operation's WORKCOUNT object holds the first index (R73, R268). -/
def State.claimStart (s : State) (so : Nat) : State :=
  match kvGet so s.sos with
  | some o => s.soSet so { o with value := 0 }
  | none => s

/-- Move on when a phase is finished (R268, R269): the refresh phase follows when every unit of the element phase has, and claims its
units from the operation's WORKCOUNT object anew, from 0 (log 97). -/
def State.updNext (s : State) (c i : Nat) : State :=
  match s.updEnv c i with
  | none => s
  | some e =>
    if e.u.refreshing then (if e.u.sidesDone.length = e.u.sides.length then s.updCommit e else s)
    else
      s.opTry c i (s.ownedBuckets e) fun l =>
        if e.u.done.length < (e.units l.1).length then s
        else
          s.opTry c i (s.sidesDue e l.1) fun sides =>
            let s := (s.updDo c i fun u =>
              { u with refreshing := true, sides := sides.1, held := [], attempts := [], exhausted := [] }).claimStart e.f.claimSo
            match s.updEnv c i with
            | some e => if sides.1.isEmpty then s.updCommit e else s
            | none => s

/-! ## Commands -/

/-- The bucket table of the reduction that an update names. -/
def State.updTable (s : State) (c : Nat) (p : Plan) (f : UpdF) : Rd (List (List Nat)) :=
  match p.ops[f.reduce]? with
  | some (.tradeReduce t n _) =>
    (match s.rdBytes c t (64 * n) with
     | .ok r => .ok ((List.range n).map (bucketAt r.1), r.2)
     | .error y => .error y)
  | _ => .ok ([], none)

/-- The scales of owned FP8 working copies with a history (R280, R281): a scale that the history gives is written at once. -/
def State.updScales (s : State) (e : UEnv) : List (Nat × List Nat × List Byte) → Except OpErr State
  | [] => .ok s
  | (k, b, bs) :: t =>
    if nth b 7 = 0 ∨ !(fmtOf (nth b 8)).isFp8 ∨ field bs 40 8 = 0 then s.updScales e t
    else
      match s.rdBytes e.c (field bs 40 8) 128 with
      | .error y => .error y
      | .ok r =>
        let sc := shHistory (nth b 8) r.1
        let s := s.updDo e.c e.i fun u => { u with scales := kvSet k sc u.scales }
        match sc with
        | none => s.updScales e t
        | some w =>
          match s.wrBytes e.c (field bs 40 8 + 68) (leBytes 4 w.toNat) with
          | .error y => .error y
          | .ok s => s.updScales e t

/-- Do the groups of the table pass, with the shapes of owned buckets (R263)? -/
def UEnv.paramsOk (e : UEnv) (l : List (Nat × List Nat × List Byte)) : Bool :=
  (e.u.bks.all fun b => groupOk (e.pg b)) && l.all fun x => pgAlgo (e.pg x.2.1) != 2 || bsRows x.2.2 * bsCols x.2.2 == nth x.2.1 2

/-- The update of a reduction that did not end ST_OK: the loss-scale rule for an overflow, the same status (R262, R272). -/
def State.updSkip (s : State) (c i : Nat) (f : UpdF) (st : Status) : State :=
  s.opTry c i (s.rdBytes c f.lscale 64) fun r =>
    let ls := if st = .gradOverflow then lossScale r.1 false else (r.1, 0)
    s.opTry c i (if st = .gradOverflow then s.wrBytes c f.lscale (ls.1.take 20) else .ok s) fun s =>
      s.opEnd c i st (updBlock 0 0 0 (field ls.1 4 1) ls.2)

/-- OPT_UPDATE (R73, R260 to R263). A count that the host has set to its maximum since the reduction refuses the commit as LIMIT would have
(R248). -/
def execOptUpdate (c i : Nat) (errs : List SectorErr) (s : State) : Host.Outcome State Fault Refusal :=
  done <|
    let s := s.opRecover c i (fun o => o.kind == 0x000C) errs
    match s.opOf c i, s.tradeOf c with
    | some (_, p, r, .optUpdate f, _), some _ =>
      if !s.mayIssue c i then s
      else
        match (r.ops[f.reduce]?).map OpRun.status with
        | some .ok =>
          let zero : UpdProg :=
            { groups := [], bks := [], held := [], attempts := [], done := [], exhausted := [], refreshing := false, sides := [], sidesDone := [],
              refreshed := 0, retries := 0, fallbacks := 0, scales := [] }
          let s := (s.opBegin c i (.upd zero)).claimStart f.claimSo
          s.opTry c i (s.rdBytes c f.groups 4096) fun g =>
            s.opTry c i (s.updTable c p f) fun t =>
              match pFirst g.2 t.2 with
              | some pa => (s.opPoison c i 0 pa).opEnd c i .ok []
              | none =>
                let s := s.updDo c i fun u => { u with groups := chunks 64 64 g.1, bks := t.1 }
                match s.updEnv c i with
                | none => s
                | some e =>
                  s.opTry c i (s.ownedBuckets e) fun l =>
                    if e.u.bks.any (fun b => decide (2 ^ 64 - 1 ≤ e.t.stepOf (nth b 0))) then s.updSkip c i f .stepLimit
                    else if let some pa := l.2 then (s.opPoison c i 0 pa).opEnd c i .ok []
                    else if !e.paramsOk l.1 then s.opEnd c i .updateParam []
                    else s.opTry c i (s.updScales e l.1) fun s => s.updNext c i
        | some st => (s.opBegin c i .none).updSkip c i f st
        | none => s
    | some (_, _, _, .optUpdate _, _), none => if s.mayIssue c i then (s.opBegin c i .none).opEnd c i .tradeLink [] else s
    | _, _ => s

/-- A parity failure of a unit (R118, R270): a re-run, or at the third the outputs are poisoned by `spoil`. -/
def State.unitFails (s : State) (e : UEnv) (core u : Nat) (spoil : State → State) : State :=
  let n := kvGetD u e.u.attempts 0 + 1
  if n < 3 then (s.recompute e.c core 9).updDo e.c e.i fun p => { p with attempts := kvSet u n p.attempts }
  else spoil (((s.detect core 1).unrecovered e.c).post 0x0303 e.c (leBytes 2 core ++ zeros 2 ++ leBytes 4 e.i ++ leBytes 1 0))

/-- The ranges a unit reads: its elements, and for algorithm 2 its block slot (R266, R273). -/
def UEnv.reads (e : UEnv) (b : List Nat) (bs : List Byte) (j : Nat) : List (Nat × Nat) :=
  ((e.runs b bs j).flatMap fun r =>
    [(nth b 4 + 4 * r.1, 4 * r.2), (field bs 0 8 + 8 * r.1, 8 * r.2), (field bs 8 8 + 4 * r.1, 4 * r.2)]
      ++ (if field bs 16 8 = 0 then [] else [(field bs 16 8 + 4 * r.1, 4 * r.2)]))
  ++ (if pgAlgo (e.pg b) = 2 then [(slotOf bs (pgBlock (e.pg b)) j, 24 * pgBlock (e.pg b) * pgBlock (e.pg b) + 64)] else [])

/-- The ranges a unit writes beside those that it reads (R267, R274). -/
def UEnv.writes (e : UEnv) (b : List Nat) (bs : List Byte) (j : Nat) : List (Nat × Nat) :=
  let g := e.pg b
  let k := pgBlock g
  (if nth b 7 = 0 then [] else (e.runs b bs j).map fun r => (nth b 7 + (fmtOf (nth b 8)).size * r.1, (fmtOf (nth b 8)).size * r.2))
  ++ (if pgAlgo g = 2 then
      let q := blockGeo bs k j
      let slot := slotOf bs k j
      let nx := (e.t.stepOf (nth b 0) + 1) % 2
      [(statPlane slot k false nx, 4 * q.2.2.1 * q.2.2.1), (statPlane slot k true nx, 4 * q.2.2.2 * q.2.2.2)]
    else [])

/-- A position claims the next unit, or keeps the one it holds for a re-run (R73, R270). -/
def State.updClaim (s : State) (e : UEnv) (pos : Nat) : SoRes × State :=
  match kvGet pos e.u.held with
  | some u => (.done u, s)
  | none => s.soApply e.f.claimSo 10 1 e.c pos

/-- May a unit of an update run on a core: none of the operation's buffers lies in a saved position's window, so that nothing in the unit or in the
commit behind it waits (R269, R338), and the core's channels carry both ways (R18)? -/
def State.unitReady (s : State) (c i core : Nat) : Bool :=
  s.mayLoad core && s.mayStore core && (match s.opOf c i with
    | some (_, p, _, o, _) => !s.spansWait c (s.buffersOf c p o)
    | none => false)

/-- The state in which a position holds a claimed unit. -/
def State.updHold (s : State) (c i pos u : Nat) : State := s.updDo c i fun p => { p with held := kvSet pos u p.held }

/-- UPDATE_UNIT (R73, R266 to R268, R270): a position claims the next unit, or runs again the one it holds; it keeps one whose inputs wait for a rebuild
(R186). -/
def execUpdateUnit (c i pos : Nat) (check : Check) (errs : List SectorErr) (s : State) : Host.Outcome State Fault Refusal :=
  done <|
    match s.updEnv c i, s.coreOf c pos with
    | some e, some core =>
      if e.u.refreshing || e.u.exhausted.contains pos || !s.unitReady c i core then s
      else
        s.opTry c i (s.ownedBuckets e) fun l =>
          let a := s.updClaim e pos
          match a.1 with
          | .fail st => a.2.claimFailed c i st
          | .wait _ => a.2
          | .done u =>
            match (e.units l.1)[u]? with
            | none => (a.2.updDo c i fun p => { p with exhausted := insNat pos p.exhausted }).updNext c i
            | some x =>
              let b := x.2.1
              let bs := x.2.2.1
              let j := x.2.2.2
              let fin (s : State) : State := (s.updDo c i fun p => { p with held := kvDel pos p.held, done := insNat u p.done }).updNext c i
              if check ≠ .pass then
                ((a.2.wordSeen core check).updHold c i pos u).unitFails e core u fun s => fin (s.spoilUnit e b bs j)
              else
                let out := a.2.physSpans c (e.writes b bs j)
                let s := (a.2.recoverRanges c (e.reads b bs j) errs).recoverPartial c out errs
                if s.rebuildDue (a.2.physSpans c (e.reads b bs j) ++ out) then s.updHold c i pos u
                else s.opTry c i (s.rdBytes c e.f.lscale 64) fun ls => s.opTry c i (s.runUnit e (field ls.1 4 1) ls.2 x) fin
    | _, _ => s

/-- The slot that a due side's refresh reads (R273, R276). -/
def State.sideSlot (s : State) (e : UEnv) (x : Nat × Nat × Nat) : List (Nat × Nat) :=
  match e.u.bks[x.1]?, s.bsEntry e x.1 with
  | some b, .ok bs => [(slotOf bs.1 (pgBlock (e.pg b)) x.2.1, 24 * pgBlock (e.pg b) * pgBlock (e.pg b) + 64)]
  | _, _ => []

/-- REFRESH_UNIT (R268, R275 to R279): a position claims the next due side, or runs again the one it holds. -/
def execRefreshUnit (c i pos : Nat) (check : Check) (errs : List SectorErr) (s : State) : Host.Outcome State Fault Refusal :=
  done <|
    match s.updEnv c i, s.coreOf c pos with
    | some e, some core =>
      if !e.u.refreshing || e.u.exhausted.contains pos || !s.unitReady c i core then s
      else
        let a := s.updClaim e pos
        match a.1 with
        | .fail st => a.2.claimFailed c i st
        | .wait _ => a.2
        | .done u =>
          match e.u.sides[u]? with
          | none => a.2.updDo c i fun p => { p with exhausted := insNat pos p.exhausted }
          | some x =>
            let s := a.2.updHold c i pos u
            let fin (s : State) : State := (s.updDo c i fun p => { p with held := kvDel pos p.held, sidesDone := insNat u p.sidesDone }).updNext c i
            if check ≠ .pass then (s.wordSeen core check).unitFails e core u fun s => s.opTry c i (s.runRefresh e true x) fin
            else
              let slot := s.sideSlot e x
              let s := s.recoverRanges c slot errs
              if s.rebuildDue (s.physSpans c slot) then s else s.opTry c i (s.runRefresh e false x) fin
    | _, _ => s

end Sys2Proof.Machine
end

