-- ==== Sys2Proof/Machine/Experts.lean ====
section
/-! DEFINITION. Sparsity and conditional computation (08_sparsity_and_experts): packing, expert dispatch, expert exchange. -/
namespace Sys2Proof.Machine

/-! ## Element conversion (R37, R55) -/

/-- An element moved between tensors: where the formats agree its value is written unscaled, as any unit writes it (R30, R36, R55, R56),
otherwise it is converted. -/
def moveElem (src dst : Fmt) (mode : Nat) (n : Nat) (ss ds : FV) : Wb :=
  if src = dst then
    let x := readFv src.ff (modeFlush mode) n
    if src.isFloat then
      writeback src.ff mode x.1 ((if x.1.isInf then flINFIN else 0#4) ||| (if x.2 then flFLUSH else 0#4)) x.1.isNan
    else ⟨n, false, false, false, 0⟩
  else match loadBits src (modeFlush mode) n ss with
    | a :: _ => wbFmt dst mode a ds
    | [] => ⟨0, false, false, false, 0⟩

/-- Is a stored floating-point element zero of either sign? -/
def zeroBits (f : Fmt) (n : Nat) : Bool := (fvOf f.ff n).isZero

/-! ## OMT_PACK and OMT_UNPACK (R210, R211) -/

/-- Positions of sub-block `k` of a block. -/
def subPos (br bc k : Nat) : List (Nat × Nat) :=
  (List.range 8).flatMap fun i => (List.range 8).map fun j => (32 * br + 8 * (k / 4) + i, 32 * bc + 8 * (k % 4) + j)

/-- Is a position inside the shape? -/
def TDesc.inside (d : TDesc) (x : Nat × Nat) : Bool := decide (x.1 < d.dim 0 ∧ x.2 < d.dim 1)

/-- The converted elements of a block's sub-blocks that `map` names: by position, none outside the shape; an empty sub-block is +0 as it
stands (R211). -/
def State.packBlock (s : State) (c mode : Nat) (a b : TDesc) (br bc map : Nat) : Rd (List (List (Option Wb))) :=
  rdAll (fun k => rdAll (fun (x : Nat × Nat) =>
    if !a.inside x then .ok (none, none)
    else if !bitOf map k then .ok (some ⟨0, false, false, false, 0⟩, none)
    else match s.rdElem2 c a x.1 x.2, s.rdScale c a x.1 x.2, s.rdScale c b x.1 x.2 with
      | .ok n, .ok ss, .ok ds => .ok (some (moveElem a.format b.format mode n.1 ss.1 ds.1), pFirst n.2 (pFirst ss.2 ds.2))
      | .error e, _, _ => .error e
      | .ok _, .error e, _ => .error e
      | .ok _, .ok _, .error e => .error e) (subPos br bc k)) (List.range 16)

/-- Is a sub-block occupied (R210)? -/
def subOccupied (f : Fmt) (l : List (Option Wb)) : Bool := l.any fun x => match x with | some w => !zeroBits f w.pat | none => false

/-- A packed block: its map and its data bytes. -/
def packedBlock (f : Fmt) (l : List (List (Option Wb))) : Nat × List Byte :=
  let occ := (enumFrom 0 l).filter fun x => subOccupied f x.2
  ((occ.map fun x => 2 ^ x.1).sum, occ.flatMap fun x => x.2.flatMap fun y => leBytes f.size (match y with | some w => w.pat | none => 0))

/-- Write the planes of a packed tensor: offsets, data, then maps; `o` counts sub-blocks. -/
def State.packWrite (s : State) (c : Nat) (d : TDesc) : List (Nat × Nat × List Byte) → Nat → Except OpErr State
  | [], _ => .ok s
  | (i, m, l) :: t, o =>
    match s.wrBytes c (d.omtOfs + 4 * i) (leBytes 4 o) with
    | .error e => .error e
    | .ok s =>
      match s.wrBytes c (d.omtData + 64 * d.format.size * o) l with
      | .error e => .error e
      | .ok s =>
        match s.packWrite c d t (o + popBelow m 16) with
        | .error e => .error e
        | .ok s => s.wrBytes c (d.omtMap + 2 * i) (leBytes 2 m)

/-- The blocks of a tensor in row-major order. -/
def TDesc.blockList (d : TDesc) : List (Nat × Nat) := (List.range d.omtRows).flatMap fun r => (List.range d.omtCols).map fun c => (r, c)

/-- Counts of moved elements by row and column (R58, R109). -/
def moveCount (l : List ((Nat × Nat) × Wb)) : NumStat :=
  l.foldl (fun n x => n.count x.2 ⟨x.2.kind, x.1.1, x.1.2, noGroup, 0, 0⟩) NumStat.zero

/-- The elements of blocks with their positions, those inside the shape. -/
def movedElems (bl : List (Nat × Nat)) (l : List (List (List (Option Wb)))) : List ((Nat × Nat) × Wb) :=
  (List.zip bl l).flatMap fun x => (enumFrom 0 x.2).flatMap fun k =>
    (List.zip (subPos x.1.1 x.1.2 k.1) k.2).filterMap fun y => y.2.map fun w => (y.1, w)

/-- The ranges that packed blocks fill. -/
def packSpans (b : TDesc) (packed : List (Nat × List Byte)) : List (Nat × Nat) :=
  [(b.omtOfs, 4 * packed.length), (b.omtMap, 2 * packed.length), (b.omtData, 64 * b.format.size * (packed.map fun x => popBelow x.1 16).sum)]

/-- Write the packed blocks; sectors that the writes cover lose their poison (R188). -/
def State.packPlanes (s : State) (c : Nat) (b : TDesc) (packed : List (Nat × List Byte)) : Except OpErr State :=
  (s.coverClear c (packSpans b packed)).packWrite c b (enumFrom 0 packed) 0

/-- Write the elements of an unpacked tensor. -/
def State.unpackWrite (s : State) (c : Nat) (b : TDesc) (els : List ((Nat × Nat) × Wb)) : Except OpErr State :=
  wrAll (fun s (y : (Nat × Nat) × Wb) => s.wrElem c b [y.1.1, y.1.2] y.2.pat)
    (s.coverClear c (els.map fun y => (b.at [y.1.1, y.1.2], b.format.size))) els

/-- OMT_PACK (R210); a rebuild that its reads or partial writes call for comes before it (R186). -/
def execOmtPack (c i : Nat) (errs : List SectorErr) (s : State) : Host.Outcome State Fault Refusal :=
  done <|
    match s.opOf c i with
    | some (_, p, _, .omtPack sd dd mode, _) =>
      if !s.mayIssue c i then s
      else match p.ten sd, p.ten dd with
        | some a, some b =>
          let s := s.recoverRanges c a.ranges errs
          let reads := rdAll (fun x : Nat × Nat => s.packBlock c mode a b x.1 x.2 0xFFFF) b.blockList
          let outs := match reads with
            | .ok l => s.physSpans c (packSpans b (l.1.map (packedBlock b.format)))
            | .error _ => []
          let s := s.recoverPartial c outs errs
          if !s.mayIssue c i then s
          else
          let s := s.opBegin c i .none
          s.opTry c i reads fun l =>
            (match l.2 with
             | some pa => ((b.ranges.foldl (fun s r => s.vpoison c r.1 r.2) s).opPoison c i 0 pa).opEnd c i .ok []
             | none =>
               let packed := l.1.map (packedBlock b.format)
               if b.omtCap < (packed.map fun x => popBelow x.1 16).sum then s.opEnd c i .omtFull []
               else s.opTry c i (s.packPlanes c b packed) fun s => (s.opCount c i (moveCount (movedElems b.blockList l.1))).opEnd c i .ok [])
        | _, _ => s
    | _ => s

/-- OMT_UNPACK (R211): every block is checked as it is read. -/
def execOmtUnpack (c i : Nat) (errs : List SectorErr) (s : State) : Host.Outcome State Fault Refusal :=
  done <|
    match s.opOf c i with
    | some (_, p, _, .omtUnpack sd dd mode, _) =>
      if !s.mayIssue c i then s
      else match p.ten sd, p.ten dd with
        | some a, some b =>
          let s := (s.recoverRanges c a.ranges errs).recoverPartial c (s.physSpans c b.ranges) errs
          if !s.mayIssue c i then s
          else
          let s := s.opBegin c i .none
          s.opTry c i (rdAll (fun x : Nat × Nat => s.omtBlock c a x.1 x.2) a.blockList) fun chk =>
            s.opTry c i (rdAll (fun x : (Nat × Nat) × Nat × Nat => s.packBlock c mode a b x.1.1 x.1.2 x.2.1) (List.zip a.blockList chk.1)) fun l =>
              (match pFirst chk.2 l.2 with
               | some pa => ((b.ranges.foldl (fun s r => s.vpoison c r.1 r.2) s).opPoison c i 0 pa).opEnd c i .ok []
               | none =>
                 let els := movedElems a.blockList l.1
                 s.opTry c i (s.unpackWrite c b els) fun s => (s.opCount c i (moveCount els)).opEnd c i .ok [])
        | _, _ => s
    | _ => s

/-! ## An expert operation (R214) -/

/-- An expert operation in progress or about to begin. -/
structure XEnv where
  c : Nat
  i : Nat
  p : Plan
  r : Run
  f : ExpF
  q : OpRun

/-- The expert operation of a context with this index. -/
def State.expOp (s : State) (c i : Nat) : Option XEnv :=
  match s.opOf c i with
  | some (_, p, r, .expert f, q) => some ⟨c, i, p, r, f, q⟩
  | _ => none

/-- The exchange group of an operation. -/
def State.expxOf (s : State) (e : XEnv) : Option Expx := if e.f.group = 0 then none else kvGet (gkey e.c e.f.group) s.expx

/-- Change an exchange group. -/
def State.expxDo (s : State) (c tag : Nat) (f : Expx → Expx) : State :=
  { s with expx := kvMap (fun k g => if k = gkey c tag then f g else g) s.expx }

/-- Change the exchange group of an operation that has one. -/
def State.groupDo (s : State) (e : XEnv) (f : Expx → Expx) : State := if e.f.group = 0 then s else s.expxDo e.c e.f.group f

/-- Members of the exchange, 1 without one, and this member's rank. -/
def exSize (g : Option Expx) : Nat := match g with | some x => x.f.size | none => 1
def exRank (g : Option Expx) : Nat := match g with | some x => x.f.rank | none => 0

/-- Experts on each member. -/
def ExpF.per (f : ExpF) (g : Option Expx) : Nat := f.experts / exSize g

/-- Chunks of 4,096 tokens (R216). -/
def ExpF.chunks (f : ExpF) : Nat := ceilDiv f.tokens 4096

/-- The bytes at a plain table's address. -/
def XEnv.table (e : XEnv) (s : State) (desc o n : Nat) : Rd (List Byte) :=
  match e.p.ten desc with
  | none => .ok (zeros n, none)
  | some d => s.rdBytes e.c (d.addr + o) n

/-! ## Routing (R215 to R217) -/

/-- What routing finds for a token: active, eligible experts, its choices with their scores, whether its row holds a NaN. -/
structure Routed where
  active : Bool
  eligible : Nat
  chosen : List (Nat × W32)
  nan : Bool

/-- Descending score, then ascending expert (R215). -/
def ranksBefore (a b : Nat × W32) : Bool := decide (ordKey b.2 < ordKey a.2) || (ordKey a.2 == ordKey b.2 && decide (a.1 ≤ b.1))

/-- The choices of token `t` (R215). -/
def XEnv.route (e : XEnv) (s : State) (t : Nat) : Rd Routed :=
  let act : Rd Bool := if e.f.predDesc = 0 then .ok (true, none) else (e.table s e.f.predDesc (t / 8) 1).map fun r => (bitOf (leNat r.1) (t % 8), r.2)
  let el : Rd Nat := if e.f.emaskDesc = 0 then .ok (2 ^ 1024 - 1, none) else (e.table s e.f.emaskDesc 0 128).map fun r => (leNat r.1, r.2)
  match act, el with
  | .error x, _ => .error x
  | .ok _, .error x => .error x
  | .ok a, .ok m =>
    if !a.1 then .ok (⟨false, 0, [], false⟩, a.2)
    else match e.p.ten e.f.scoreDesc with
      | none => .ok (⟨false, 0, [], false⟩, none)
      | some d =>
        match s.rdRow e.c d [t] e.f.experts with
        | .error x => .error x
        | .ok row =>
          let ws := (enumFrom 0 row.1).map fun x => (x.1, BitVec.ofNat 32 x.2)
          let ok := ws.filter fun x => bitOf m.1 x.1
          .ok (⟨true, ok.length, (ok.mergeSort ranksBefore).take e.f.topk, ws.any fun x => isNan32 x.2⟩, pFirst a.2 (pFirst m.2 row.2))

/-- An assignment: token, choice rank, expert, score, and its place among the source's rows for that expert. -/
structure Assign where
  t : Nat
  j : Nat
  e : Nat
  w : W32
  ord : Nat

/-- All assignments in token order, with the counts by expert (R216). -/
def assignAll (experts : Nat) (l : List (Nat × Routed)) : List Assign × List Nat :=
  l.foldl (fun acc x => (enumFrom 0 x.2.chosen).foldl (fun (acc : List Assign × List Nat) y =>
    (acc.1 ++ [⟨x.1, y.1, y.2.1, y.2.2, nth acc.2 y.2.1⟩], acc.2.modify y.2.1 (· + 1))) acc) ([], List.replicate experts 0)

/-- Totals by owned expert, from the counts of every source. -/
def totalsOf (per : Nat) (base : List (List Nat)) : List Nat := (List.range per).map fun k => (base.map fun b => nth b k).sum

/-- z: the overflow rows of all experts below (R216). -/
def overBelow (cap : Nat) (tot : List Nat) (k : Nat) : Nat := ((tot.take k).map fun n => n - cap).sum

/-- Overflow flag and slot of a position of an owned expert (R216). -/
def slotFor (cap : Nat) (tot : List Nat) (k pos : Nat) : Bool × Nat :=
  if pos < cap then (false, pos) else (true, overBelow cap tot k + (pos - cap))

/-- The first position of a source's rows for an owned expert (R226). -/
def basePos (base : List (List Nat)) (src k : Nat) : Nat := ((base.take src).map fun b => nth b k).sum

/-- An assignment record (R217, R226). -/
def recordOf (f : ExpF) (g : Option Expx) (base : List (List Nat)) (a : Assign) : List Byte :=
  let per := f.per g
  let own := a.e / per == exRank g
  let x := if own then slotFor f.cap (totalsOf per base) (a.e % per) (basePos base (exRank g) (a.e % per) + a.ord) else (false, a.t * f.topk + a.j)
  leBytes 2 a.e ++ leBytes 1 (b2n x.1 + 2 * b2n (!own)) ++ zeros 1 ++ leBytes 4 x.2

/-- A record of no expert. -/
def noRecord : List Byte := leBytes 2 0xFFFF ++ zeros 6

/-- The assignment records of all tokens (R217). -/
def routeRecords (f : ExpF) (g : Option Expx) (base : List (List Nat)) (l : List (Nat × Routed)) : List Byte :=
  l.flatMap fun x => (List.range f.topk).flatMap fun j =>
    match (assignAll f.experts l).1.find? fun a => a.t == x.1 && a.j == j with
    | some a => recordOf f g base a
    | none => noRecord

/-- The count table of the owned experts: rows in the buffer, rows that overflow, the first overflow row (R216, R217). -/
def routeCounts (f : ExpF) (tot : List Nat) : List Byte :=
  (enumFrom 0 tot).flatMap fun n => leBytes 4 (min n.2 f.cap) ++ leBytes 4 (n.2 - f.cap) ++ leBytes 4 (overBelow f.cap tot n.1) ++ zeros 4

/-- Write the selected scores (R217). -/
def State.routeScores (s : State) (e : XEnv) (sd : TDesc) (l : List (Nat × Routed)) : Except OpErr State :=
  wrAll (fun s (x : Nat × Routed) =>
    wrAll (fun s j => s.wrElem e.c sd [x.1, j] (((x.2.chosen[j]?).map fun y => (canon32 y.2).toNat).getD 0)) s (List.range e.f.topk))
    (s.coverClear e.c (l.flatMap fun x => (List.range e.f.topk).map fun j => (sd.at [x.1, j], sd.format.size))) l

/-- Write the results of routing: records, selected scores, count table, status block (R215 to R217, R230); `bad`: records and count table
are poisoned (R224), `src`: so are the selected scores, by a poisoned source (R187). -/
def State.routeWrite (s : State) (e : XEnv) (g : Option Expx) (base : List (List Nat)) (l : List (Nat × Routed)) (bad src : Bool) : State :=
  match e.p.ten e.f.recDesc, e.p.ten e.f.selDesc, e.p.ten e.f.cntDesc with
  | some rd, some sd, some cd =>
    let k := e.f.topk
    let as_ := (assignAll e.f.experts l)
    let tot := totalsOf (e.f.per g) base
    let recs := routeRecords e.f g base l
    let cnt := routeCounts e.f tot
    let num := as_.1.foldl (fun n a => if isNan32 a.w then n.count ⟨a.w.toNat, false, true, false, 1⟩ ⟨1, a.t, a.j, noGroup, 0, 0⟩ else n) NumStat.zero
    s.opTry e.c e.i (s.wrBytes e.c rd.addr recs) fun s =>
      s.opTry e.c e.i (s.routeScores e sd l) fun s =>
        s.opTry e.c e.i (s.wrBytes e.c cd.addr cnt) fun s =>
          let block := leBytes 6 as_.1.length ++ leBytes 4 ((as_.2.map fun n => n - e.f.cap).sum) ++ leBytes 4 (as_.2.foldl max 0)
            ++ leBytes 4 (l.filter fun x => x.2.active && decide (x.2.eligible < k)).length ++ leBytes 4 (l.filter fun x => x.2.nan).length ++ zeros 2
          if bad || src then
            let s := (s.vpoison e.c rd.addr recs.length).vpoison e.c cd.addr cnt.length
            ((if src then s.vpoison e.c sd.addr sd.span else s).opSpoil e.c e.i).opEnd e.c e.i .ok block
          else (s.opCount e.c e.i num).opEnd e.c e.i .ok block
  | _, _, _ => s

/-! ## Expert exchange (R225 to R229) -/

/-- An expert operation's outputs that one member writes whole at its end: a route's tables, a combine's rows (R296). -/
def expUndefined (p : Plan) (f : ExpF) : List (Nat × Nat) :=
  if f.op = 0 then p.rangesOf [f.recDesc, f.selDesc, f.cntDesc] else if f.op = 2 then p.rangesOf [f.outDesc] else []

/-- The group fails (R229), and with it the operation in progress; rows already written stay. -/
def State.expxFail (s : State) (c tag reason port : Nat) (st : Status) : State :=
  match kvGet (gkey c tag) s.expx with
  | none => s
  | some g =>
    let step := match (kvGet c s.ctxs).bind Ctx.run with | some r => r.step | none => 0
    let s := (s.expxDo c tag fun g => { g with form := { g.form with state := 2 }, op := none, landed := [] }).dropRows c
    let s := s.post 0x0522 c (groupData tag reason port step)
    match g.op with
    | none => s
    | some i =>
      let s := s.abandonOp c i
      let s := match s.opOf c i with
        | some (_, p, _, .expert f, _) => s.undefine c (expUndefined p f)
        | _ => s
      s.opEnd c i st []

/-- After a port went DOWN: a group with no port left one way fails (R229), and with one that still forms its create (log 39). -/
def State.expxPorts (s : State) : State :=
  s.expx.foldl (fun s e =>
    let g := e.2
    if g.form.state ≠ 2 && (s.allDead (g.f.portOut.take g.f.ports) || s.allDead (g.f.portIn.take g.f.ports)) then
      (s.expxFail (e.1 / 2 ^ 32) (e.1 % 2 ^ 32) 4 0xFF .expxLink).formReply .expx (e.1 / 2 ^ 32) (e.1 % 2 ^ 32) .expxLink
    else s) s

/-- A message of this member. -/
def XEnv.msg (e : XEnv) (g : Expx) (dst : Nat) : ExpxMsg := { ctx := e.c, tag := e.f.group, op := e.i, src := g.f.rank, dst := dst }

/-- The last operation before `i` of this kind whose records are in the same tensor, with the same group. -/
def Plan.expBefore (p : Plan) (f : ExpF) (kind i : Nat) : Option Nat :=
  ((List.range i).reverse).find? fun j => match p.ops[j]? with
    | some (.expert g) => g.op == kind && g.group == f.group && g.recDesc == f.recDesc
    | _ => false

/-- The route whose records an operation uses (R217, R222, R223); itself where the plan has none. -/
def XEnv.routeOp (e : XEnv) : Nat := if e.f.op = 0 then e.i else (e.p.expBefore e.f 0 e.i).getD e.i

/-- The scatter whose rows a combine sends back; none where the plan has none. -/
def XEnv.scatterOp (e : XEnv) : Option Nat := e.p.expBefore e.f 1 e.i

/-- The counts of every source that an operation's rows follow. -/
def Expx.baseOf (g : Expx) (e : XEnv) : List (List Nat) := kvGetD e.routeOp g.base []

/-- Does an operation of the plan use the records of route `i`? -/
def Plan.usesRoute (p : Plan) (i j : Nat) : Bool :=
  match p.ops[j]? with
  | some (.expert f) => f.op != 0 && p.expBefore f 0 j == some i
  | _ => false

/-- The other members. -/
def Expx.others (g : Expx) : List Nat := (List.range g.f.size).filter (· != g.f.rank)

/-- All routed tokens; `none` for an error. -/
def XEnv.routeAll (e : XEnv) (s : State) : Rd (List (Nat × Routed)) :=
  rdAll (fun t => (e.route s t).map fun r => ((t, r.1), r.2)) (List.range e.f.tokens)

/-- The exchange of counts: once every source's are here the route ends; each source's oldest counts are to be this route's (R226, R229);
a grant goes to every source once the count table stands (R227). -/
def State.routeExchange (s : State) (e : XEnv) (g : Expx) (bad src : Bool) (l : List (Nat × Routed)) : State :=
  let got := g.others.filterMap fun m => (kvGet m g.counts).bind List.head?
  if got.any fun x => x.step ≠ e.r.step ∨ x.op ≠ e.i then s.expxFail e.c e.f.group 3 0xFF .expxSkew
  else if got.length < g.f.size - 1 then s
  else
    let per := e.f.per (some g)
    let own := (assignAll e.f.experts l).2
    let base := (List.range g.f.size).map fun m =>
      if m = g.f.rank then (own.drop (m * per)).take per else (((kvGet m g.counts).bind List.head?).map ExpxCount.counts).getD []
    let bad := bad || got.any fun x => x.poisoned
    let fresh {α : Type} (l : KV α) : KV α := l.filter fun x => !e.p.usesRoute e.i x.1
    let s := s.expxDo e.c e.f.group fun g =>
      { g with taken := g.taken ++ g.others.map (fun m => (m, e.r.step, e.i)), landed := g.landed.filter (fun w => !e.p.usesRoute e.i w.op), counts := kvMap (fun _ l => l.drop 1) g.counts, base := kvSet e.i base g.base, op := none, rows := fresh g.rows, returned := fresh g.returned }
    let s := s.routeWrite e (some g) base l bad src
    match s.opOf e.c e.i with
    | some (_, _, _, _, q) => if q.status = .memFault then s else g.others.foldl (fun s m => s.expxSend g 0 msgGrant (e.msg g m) [] false) s
    | none => g.others.foldl (fun s m => s.expxSend g 0 msgGrant (e.msg g m) [] false) s

/-- The route goes on once every chunk has been counted, while its context is not saved (R224, R228). -/
def State.routeNext (s : State) (c i : Nat) : State :=
  match s.expOp c i with
  | none => s
  | some e =>
    match e.q.st, e.q.prog with
    | .begun, .exp q =>
      if q.chunks.length < e.f.chunks || !s.circRuns c then s
      else
        s.opTry c i (e.routeAll s) fun l =>
          match s.expxOf e with
          | none => s.routeWrite e none [(assignAll e.f.experts l.1).2] l.1 q.poisoned l.2.isSome
          | some g => s.routeExchange e g q.poisoned l.2.isSome l.1
    | _, _ => s

/-- Send this member's counts to every owner (R226 step 1). -/
def State.countsSend (s : State) (e : XEnv) : State :=
  match s.expxOf e with
  | none => s
  | some g =>
    match e.routeAll s, e.q.prog with
    | .ok l, .exp q =>
      let per := e.f.per (some g)
      let own := (assignAll e.f.experts l.1).2
      g.others.foldl (fun s m =>
        s.expxSend g 4 unitCount (e.msg g m) (leBytes 8 e.r.step ++ ((own.drop (m * per)).take per).flatMap (leBytes 4)) (q.poisoned || l.2.isSome)) s
    | _, _ => s

/-- May an operation with an exchange go on: FORMED, or the status under which it ends; none while it forms. -/
def State.expxReady (s : State) (e : XEnv) : Option Status :=
  if e.f.group = 0 then some .ok
  else match s.expxOf e with
    | none => some .expxLink
    | some g => if g.form.state = 0 then none else if g.form.state = 2 then some .expxLink else some .ok

/-- An expert operation begins (`next`), or one in progress goes on (`again`): with what landed while its context was saved (R224,
R228). -/
def State.expBegin (s : State) (c i op : Nat) (prog : Prog) (again : State → State) (next : XEnv → State → State) : State :=
  match s.expOp c i with
  | none => s
  | some e =>
    if e.f.op = op ∧ e.q.st = .begun then again s
    else if e.f.op ≠ op ∨ !s.mayIssue c i then s
    else match s.expxReady e with
      | none => s
      | some .ok =>
        let s := (s.opBegin c i prog).groupDo e fun g => { g with op := some i }
        (match s.expOp c i with | some e => next e s | none => s)
      | some st => (s.opBegin c i .none).opEnd c i st []

/-- EXPERT_ROUTE (R214 to R217). -/
def execExpertRoute (c i : Nat) (errs : List SectorErr) (s : State) : Host.Outcome State Fault Refusal :=
  done ((s.opRecover c i (PlanOp.isExpert 0) errs).expBegin c i 0 (.exp { chunks := [], attempts := [], poisoned := false }) (fun s => s.routeNext c i) fun e s =>
    s.groupDo e fun g => { g with grants := g.grants.filter fun x => x.1 != i })

/-- ROUTE_CHUNK_COUNT (R216, R224): chunk c on the engine of die c mod 4. -/
def execRouteChunkCount (c i chunk : Nat) (check : Check) (errs : List SectorErr) (s : State) : Host.Outcome State Fault Refusal :=
  done <|
    match s.expOp c i with
    | none => s
    | some e =>
      match e.q.st, e.q.prog with
      | .begun, .exp q =>
        if e.f.op ≠ 0 ∨ e.f.chunks ≤ chunk ∨ q.chunks.contains chunk ∨ !s.circRuns c then s
        else
          let n := kvGetD chunk q.attempts 0 + 1
          if check ≠ .pass ∧ n < 3 then
            (s.recompute c (0x0100 + chunk % 4) 8).progSet c i (.exp { q with attempts := kvSet chunk n q.attempts })
          else
            let s := if check ≠ .pass then (s.detect (0x0100 + chunk % 4) 1).unrecovered c else s
            let reads := e.p.rangesOf [e.f.scoreDesc, e.f.predDesc, e.f.emaskDesc]
            let outs := s.physSpans c (e.p.rangesOf [e.f.recDesc, e.f.selDesc, e.f.cntDesc])
            let s := (s.recoverRanges c reads errs).recoverPartial c outs errs
            if s.rebuildDue (s.physSpans c reads ++ outs) then s
            else
            let first := (List.range (min 4096 (e.f.tokens - 4096 * chunk))).map (· + 4096 * chunk)
            s.opTry c i (rdAll (fun t => e.route s t) first) fun r =>
              let q2 : ExpProg := { q with chunks := insNat chunk q.chunks, poisoned := q.poisoned || decide (check ≠ .pass) }
              let s := s.progSet c i (.exp q2)
              let s := match r.2 with | some pa => s.opPoison c i chunk pa | none => s
              if q2.chunks.length < e.f.chunks then s
              else
                let s := match s.expOp c i with | some e => s.countsSend e | none => s
                s.routeNext c i
      | _, _ => s

/-! ## Scatter (R222, R226) -/

/-- The records of a token order: token, rank, expert, overflow, remote, slot. -/
structure Rec where
  t : Nat
  j : Nat
  e : Nat
  ovf : Bool
  remote : Bool
  slot : Nat

/-- All records that name an expert (R217). -/
def XEnv.records (e : XEnv) (s : State) : Rd (List Rec) :=
  match e.table s e.f.recDesc 0 (8 * e.f.tokens * e.f.topk) with
  | .error x => .error x
  | .ok r =>
    .ok (((enumFrom 0 (chunks 8 (e.f.tokens * e.f.topk) r.1)).filterMap fun x =>
      let ex := field x.2 0 2
      let fl := field x.2 2 1
      if ex = 0xFFFF then none else some ⟨x.1 / e.f.topk, x.1 % e.f.topk, ex, bitOf fl 0, bitOf fl 1, field x.2 4 4⟩), r.2)

/-- The weight of an assignment; none without weights. -/
def XEnv.weight (e : XEnv) (s : State) (t j : Nat) : Rd (Option Entry) :=
  match e.p.ten e.f.wDesc with
  | none => .ok (none, none)
  | some d =>
    match s.rdElem e.c d [t, j] with
    | .error x => .error x
    | .ok r => .ok (some (loadEnt (BitVec.ofNat 32 r.1)), r.2)

/-- A token's row as it travels to its slot (R222): a byte for its form, then each element as `X_DESC` holds it, or, with weights, the FP32 word of
the product behind which its flags stand (log 35). -/
def XEnv.rowBody (e : XEnv) (s : State) (x : Rec) : Rd (List Byte) :=
  match e.p.ten e.f.xDesc, e.weight s x.t x.j with
  | none, _ => .ok ([], none)
  | some _, .error y => .error y
  | some d, .ok w =>
    match s.rdRow e.c d [x.t] e.f.rowLen with
    | .error y => .error y
    | .ok l =>
      .ok (leBytes 1 (match w.1 with | none => d.format.size | some _ => 5) ++ l.1.flatMap (fun n => match w.1 with
        | none => leBytes d.format.size n
        | some a =>
          let p := eMul (modeFlush e.f.numMode) a ((loadBits d.format (modeFlush e.f.numMode) n (fvInt 1)).headD Entry.zero)
          leBytes 4 p.v.toNat ++ leBytes 1 (p.fl.toNat + 16 * b2n p.nin)), pFirst w.2 l.2)

/-- The elements of such a row as its owner writes them (R55, R222): a product is rounded to the tensor's format, an element of the same format copied
exactly, another converted. -/
def storeRow (mode : Nat) (dst : Fmt) (sc : List FV) (l : List Byte) : List Wb :=
  let k := leNat (l.take 1)
  let src : Fmt := fmtOf (if k = 2 then 0 else 1)
  (List.zip (chunks k l.length (l.drop 1)) sc).map fun z =>
    if k = 5 then
      let w := field z.1 4 1
      wbFmt dst mode ⟨BitVec.ofNat 32 (field z.1 0 4), BitVec.ofNat 4 w, bitOf w 4⟩ z.2
    else if src = dst then ⟨leNat z.1, false, false, false, 0⟩
    else moveElem src dst mode (leNat z.1) (fvInt 1) z.2

/-- A token's row as it is written to a tensor (R222). -/
def XEnv.rowFor (e : XEnv) (s : State) (x : Rec) (dst : TDesc) (row : Nat) : Rd (List Wb) :=
  match e.rowBody s x, rdAll (fun k => s.rdScale e.c dst row k) (List.range e.f.rowLen) with
  | .ok l, .ok sc => .ok (storeRow e.f.numMode dst.format sc.1 l.1, pFirst l.2 sc.2)
  | .error y, _ => .error y
  | .ok _, .error y => .error y

/-- The counts of a written row (R58). -/
def rowCount (row : Nat) (l : List Wb) : NumStat := (enumFrom 0 l).foldl (fun n x => n.count x.2 ⟨x.2.kind, row, x.1, noGroup, 0, 0⟩) NumStat.zero

/-- A row's bytes. -/
def rowBytes (f : Fmt) (l : List Wb) : List Byte := l.flatMap fun w => leBytes f.size w.pat

/-- Where a local record's row goes: descriptor and row (R216, R217). -/
def XEnv.rowSlot (e : XEnv) (per : Nat) (x : Rec) : Option (TDesc × Nat) :=
  (e.p.ten (if x.ovf then e.f.ovfDesc else e.f.bufDesc)).map fun d => (d, if x.ovf then x.slot else x.e % per * e.f.cap + x.slot)

/-- The ranges that rows fill. -/
def XEnv.rowSpans (e : XEnv) (l : List (TDesc × Nat)) : List (Nat × Nat) := l.map fun x => (x.1.at [x.2, 0], e.f.rowLen * x.1.format.size)

/-- Copy a local row to its slot (R222); a poisoned one poisons it (R187). -/
def State.scatterRow (s : State) (e : XEnv) (per : Nat) (x : Rec) : Except OpErr State :=
  match e.rowSlot per x with
  | none => .ok s
  | some (d, row) =>
    match e.rowFor s x d row with
    | .error y => .error y
    | .ok l =>
      match s.wrBytes e.c (d.at [row, 0]) (rowBytes d.format l.1) with
      | .error y => .error y
      | .ok s =>
        match l.2 with
        | some pa => .ok ((s.vpoison e.c (d.at [row, 0]) (e.f.rowLen * d.format.size)).opPoison e.c e.i x.t pa)
        | none => .ok (s.opCount e.c e.i (rowCount row l.1))

/-- Remote records of an owner in the order of R226 step 3, with their ordinal among this source's rows for the expert. -/
def remoteRows (per owner : Nat) (l : List Rec) : List (Rec × Nat) :=
  ((List.range per).map (· + owner * per)).flatMap fun ex => (enumFrom 0 (l.filter fun x => x.e == ex)).map fun x => (x.2, x.1)

/-- Send one row (R226 step 3), with its poison (R187); its owner writes and counts it (R58). -/
def State.rowSend (s : State) (e : XEnv) (g : Expx) (owner : Nat) (first : Bool) (x : Rec × Nat) : Except OpErr State :=
  match e.rowBody s x.1 with
  | .error y => .error y
  | .ok l =>
    let s := if !first then s else match l.2 with
      | some pa => s.opPoison e.c e.i x.1.t pa
      | none => s
    .ok (s.expxSend g 4 unitRow (e.msg g owner) (leBytes 4 x.1.e ++ leBytes 4 x.2 ++ leBytes 4 x.1.slot ++ l.1) l.2.isSome)

/-- Rows expected from the other members. -/
def Expx.expected (g : Expx) (e : XEnv) : Nat := (g.others.map fun m => (((g.baseOf e)[m]?).getD []).sum).sum

/-- Send the rows of owners that have granted and have not had them; end once all have gone and all have landed (R226, R227); nothing
moves while the context is saved (R228) or what it reads waits for a rebuild (R186). -/
def State.scatterNext (s : State) (c i : Nat) : State :=
  match s.expOp c i with
  | none => s
  | some e =>
    match s.expxOf e, e.q.st, s.circRuns c && !s.rebuildDue (s.physSpans c (opReads e.p (.expert e.f))) with
    | some g, .begun, true =>
      s.opTry c i (e.records s) fun l =>
        let per := e.f.per (some g)
        let due := g.others.filter fun m => g.grants.contains (e.routeOp, m) && !g.sent.contains m
        let r := wrAll (fun s m =>
          match wrAll (fun s x => s.rowSend e g m true x) s (remoteRows per m l.1) with
          | .error y => .error y
          | .ok s => .ok (s.expxDo c e.f.group fun g => { g with sent := insNat m g.sent })) s due
        s.opTry c i r fun s =>
          match s.expxOf e with
          | none => s
          | some g =>
            let need := g.others.filter fun m => l.1.any fun x => x.e / per == m
            if need.all g.sent.contains && decide (g.expected e ≤ (kvGetD i g.rows []).length) then
              (s.expxDo c e.f.group fun g => { g with op := none }).opEnd c i .ok []
            else s
    | _, _, _ => s

/-- The spans that an operation of this member writes: a scatter's own rows, a combine's output. -/
def XEnv.outSpans (e : XEnv) (s : State) : List (Nat × Nat) :=
  if e.f.op = 1 then
    (match e.records s with
     | .ok l => s.physSpans e.c (e.rowSpans ((l.1.filter fun x => !x.remote).filterMap (e.rowSlot (e.f.per (s.expxOf e)))))
     | .error _ => [])
  else s.physSpans e.c (e.p.rangesOf [e.f.outDesc])

/-- The errors of an operation's reads and partial writes, before it begins; a rebuild that they call for comes first (R185, R186, R188). -/
def State.expRecover (s : State) (c i op : Nat) (errs : List SectorErr) : State :=
  let s := s.opRecover c i (PlanOp.isExpert op) errs
  match s.expOp c i with
  | some e => if e.f.op = op ∧ s.mayIssue c i then s.recoverPartial c (e.outSpans s) errs else s
  | none => s

/-- EXPERT_SCATTER (R222, R226). -/
def execExpertScatter (c i : Nat) (errs : List SectorErr) (s : State) : Host.Outcome State Fault Refusal :=
  done <| (s.expRecover c i 1 errs).expBegin c i 1 .none (fun s => s.scatterNext c i) fun e s =>
    s.opTry c i (e.records s) fun l =>
      let g := s.expxOf e
      let per := e.f.per g
      let s := match l.2 with | some pa => s.opPoison c i 0 pa | none => s
      let own := l.1.filter fun x => !x.remote
      s.opTry c i (wrAll (fun s x => s.scatterRow e per x) s own) fun s =>
        if g.isNone then s.opEnd c i .ok []
        else (s.expxDo c e.f.group fun g => { g with sent := [] }).scatterNext c i

/-! ## Combine (R223, R226) -/

/-- The row that a record names, as entries (R223). -/
def XEnv.outRow (e : XEnv) (s : State) (per : Nat) (x : Rec) : Rd (List Entry) :=
  let y := if x.remote then (e.f.retDesc, x.t * e.f.topk + x.j)
    else if x.ovf then (e.f.yovfDesc, x.slot) else (e.f.yDesc, x.e % per * e.f.cap + x.slot)
  match e.p.ten y.1 with
  | none => .ok ([], none)
  | some d =>
    match s.rdRow e.c d [y.2] e.f.rowLen, rdAll (fun k => s.rdScale e.c d y.2 k) (List.range e.f.rowLen) with
    | .ok l, .ok sc => .ok ((List.zip l.1 sc.1).map fun z => (loadBits d.format (modeFlush e.f.numMode) z.1 z.2).headD Entry.zero, pFirst l.2 sc.2)
    | .error z, _ => .error z
    | .ok _, .error z => .error z

/-- Form and write one token's output row (R223). -/
def State.combineRow (s : State) (e : XEnv) (per : Nat) (recs : List Rec) (t : Nat) : Except OpErr State :=
  match e.p.ten e.f.outDesc with
  | none => .ok s
  | some d =>
    let mine := recs.filter fun x => x.t == t
    match rdAll (fun x => match e.outRow s per x, e.weight s x.t x.j with
        | .ok y, .ok w => .ok ((y.1, w.1.getD oneEnt), pFirst y.2 w.2)
        | .error z, _ => .error z
        | .ok _, .error z => .error z) mine, rdAll (fun k => s.rdScale e.c d t k) (List.range e.f.rowLen) with
    | .ok ys, .ok sc =>
      let fl := modeFlush e.f.numMode
      let acc := (List.range e.f.rowLen).map fun k => ys.1.foldl (fun a y => eFma fl y.2 (y.1.getD k Entry.zero) a) Entry.zero
      let ws := (List.zip acc sc.1).map fun z => wbFmt d.format e.f.numMode z.1 z.2
      (match s.wrBytes e.c (d.at [t, 0]) (rowBytes d.format ws) with
       | .error z => .error z
       | .ok s =>
         match pFirst ys.2 sc.2 with
         | some pa => .ok ((s.vpoison e.c (d.at [t, 0]) (e.f.rowLen * d.format.size)).opPoison e.c e.i t pa)
         | none => .ok (s.opCount e.c e.i (rowCount t ws)))
    | .error z, _ => .error z
    | .ok _, .error z => .error z

/-- Is a token active (R214)? -/
def XEnv.active (e : XEnv) (s : State) (t : Nat) : Rd Bool :=
  if e.f.predDesc = 0 then .ok (true, none) else (e.table s e.f.predDesc (t / 8) 1).map fun r => (bitOf (leNat r.1) (t % 8), r.2)

/-- The combine proper, once every returned row is here, while its context is not saved (R228). -/
def State.combineNext (s : State) (c i : Nat) : State :=
  match s.expOp c i with
  | none => s
  | some e =>
    let reads := s.physSpans c (e.p.rangesOf [e.f.yDesc, e.f.yovfDesc, e.f.retDesc, e.f.recDesc, e.f.wDesc])
    if e.q.st ≠ .begun ∨ !s.circRuns c ∨ s.rebuildDue reads then s
    else
      s.opTry c i (e.records s) fun l =>
        let g := s.expxOf e
        let per := e.f.per g
        let back := match g with | some g => (kvGetD i g.returned []).length | none => 0
        if back < (l.1.filter fun x => x.remote).length then s
        else
          s.opTry c i (rdAll (fun t => e.active s t) (List.range e.f.tokens)) fun act =>
            let ts := ((enumFrom 0 act.1).filter Prod.snd).map Prod.fst
            let s := match pFirst l.2 act.2 with | some pa => s.opPoison c i 0 pa | none => s
            s.opTry c i (wrAll (fun s t => s.combineRow e per l.1 t) s ts) fun s =>
              (s.groupDo e fun g => { g with op := none, returned := kvDel i g.returned }).opEnd c i .ok []

/-- The slot of a row that landed here: the tensor's descriptor of a pair (buffer, overflow) and its row (R226 step 2). -/
def XEnv.landSlot (e : XEnv) (g : Expx) (bufs : Nat × Nat) (src ex ord : Nat) : Nat × Nat :=
  let per := e.f.per (some g)
  let k := ex % per
  let x := slotFor e.f.cap (totalsOf per (g.baseOf e)) k (basePos (g.baseOf e) src k + ord)
  if x.1 then (bufs.2, x.2) else (bufs.1, k * e.f.cap + x.2)

/-- Send one output row back to its source (R226 step 5): as it stands where `RET_DESC` has its format, otherwise widened (R223). -/
def State.returnSend (s : State) (e : XEnv) (g : Expx) (x : Nat × Nat × Nat × Nat) : Except OpErr State :=
  let y := e.landSlot g (e.f.yDesc, e.f.yovfDesc) x.1 x.2.1 x.2.2.1
  match e.p.ten y.1 with
  | none => .ok s
  | some d =>
    let same := match e.p.ten e.f.retDesc with | some r => decide (r.format = d.format) | none => true
    let body : Rd (List Byte) :=
      if same then s.rdBytes e.c (d.at [y.2, 0]) (e.f.rowLen * d.format.size)
      else match s.rdRow e.c d [y.2] e.f.rowLen, rdAll (fun k => s.rdScale e.c d y.2 k) (List.range e.f.rowLen) with
        | .ok l, .ok sc =>
          .ok ((List.zip l.1 sc.1).flatMap (fun z => leBytes 4 ((loadBits d.format (modeFlush e.f.numMode) z.1 z.2).headD Entry.zero).v.toNat), pFirst l.2 sc.2)
        | .error z, _ => .error z
        | .ok _, .error z => .error z
    match body with
    | .error z => .error z
    | .ok l =>
      let s := match l.2 with | some pa => s.opPoison e.c e.i y.2 pa | none => s
      .ok (s.expxSend g 4 unitReturn (e.msg g x.1) (leBytes 4 x.2.2.2 ++ l.1) l.2.isSome)

/-- The rows that a combine sends back. -/
def Expx.heldRows (g : Expx) (e : XEnv) : List (Nat × Nat × Nat × Nat) := match e.scatterOp with | some j => kvGetD j g.rows [] | none => []

/-- The errors that a combine's step meets: before it begins, and on the returned rows while it goes on (R185, R228). -/
def State.combineRecover (s : State) (c i : Nat) (errs : List SectorErr) : State :=
  match s.expOp c i with
  | none => s
  | some e =>
    if e.f.op = 2 ∧ e.q.st = .begun ∧ s.circRuns c then s.recoverRanges c (e.p.rangesOf [e.f.yDesc, e.f.yovfDesc, e.f.retDesc, e.f.recDesc, e.f.wDesc]) errs
    else s.expRecover c i 2 errs

/-- EXPERT_COMBINE (R223, R226). -/
def execExpertCombine (c i : Nat) (errs : List SectorErr) (s : State) : Host.Outcome State Fault Refusal :=
  done <| (s.combineRecover c i errs).expBegin c i 2 .none (fun s => s.combineNext c i) fun e s =>
    match s.expxOf e with
    | none => s.combineNext c i
    | some g => s.opTry c i (wrAll (fun s x => s.returnSend e g x) s (g.heldRows e)) fun s => s.combineNext c i

/-! ## Landing (R226 to R229) -/

/-- A unit or message for this member, or passed on toward the one it names. -/
def State.expxFor (s : State) (m : ExpxMsg) (vc kind : Nat) (l : List Byte) (bad : Bool) (body : Expx → State → State) : State :=
  match kvGet (gkey m.ctx m.tag) s.expx with
  | none => s
  | some g =>
    if g.form.state ≠ 1 then s
    else if m.dst ≠ g.f.rank then s.expxSend g vc kind m l bad
    else body g s

/-- The expert operation of a message: the one of its index in the plan, with this stage and group. -/
def State.expxTarget (s : State) (m : ExpxMsg) (op : Nat) : Option XEnv :=
  match s.expOp m.ctx m.op with
  | some e => if e.f.op = op ∧ e.f.group = m.tag then some e else none
  | none => none

/-- EXPX_COUNT_LAND (R226, R227, R229): the first copy of a source's counts for a step and operation counts (R402). -/
def execExpxCountLand (m : ExpxMsg) (step : Nat) (counts : List Nat) (poisoned : Bool) (s : State) : Host.Outcome State Fault Refusal :=
  done <| State.landed (c := m.ctx) (vc := 4) <| s.expxFor m 4 unitCount (leBytes 8 step ++ counts.flatMap (leBytes 4)) poisoned fun g s =>
    let n : ExpxCount := { step := step, op := m.op, counts := counts, poisoned := poisoned }
    let had := g.taken.contains (m.src, step, m.op) || (kvGetD m.src g.counts []).any fun x => x.step == step && x.op == m.op
    if had then s
    else
      let s := s.expxDo m.ctx m.tag fun g => { g with counts := kvSet m.src (kvGetD m.src g.counts [] ++ [n]) g.counts }
      match g.op with
      | some i => s.routeNext m.ctx i
      | none => s

/-- EXPX_ROW_GRANT (R227): the owner `m.src` grants. -/
def execExpxRowGrant (m : ExpxMsg) (s : State) : Host.Outcome State Fault Refusal :=
  done <| s.expxFor m 0 msgGrant [] false fun g s =>
    let s := s.expxDo m.ctx m.tag fun g => { g with grants := (g.grants.filter (· != (m.op, m.src))) ++ [(m.op, m.src)] }
    match g.op.bind (s.expOp m.ctx) with
    | some e => if e.f.op = 1 then (s.recoverRanges e.c (opReads e.p (.expert e.f)) m.errs).scatterNext e.c e.i else s
    | none => s

/-- A damaged row is a detected error of the memory that it lands in, recovered by asking again (R228, R416). -/
def State.rowDamaged (s : State) (c : Nat) (g : Expx) (w : RowAt) : State :=
  let u := ((w.spans.head?.map Prod.fst).bind s.memUnit).getD 0
  ((s.detect u 1).recovered c).askRow c g w

/-- A row stands at its place: the sectors that waited for it are whole, and it counts once (R228). -/
def State.rowStands (s : State) (m : ExpxMsg) (w : RowAt) : State :=
  ({ s with rowDue := s.rowDue.filter fun b => !inSpans w.spans ⟨b.2, 0, true, 1⟩ } : State).expxDo m.ctx m.tag fun g =>
    { g with landed := (g.landed.filter fun z => z.spans != w.spans) ++ [w] }

/-- EXPX_ROW_LAND (R226 step 3, R227, R228): the row goes to its slot; a damaged one is asked for again, and one that was asked for takes its place
again. -/
def execExpxRowLand (m : ExpxMsg) (expert ordinal ret : Nat) (row : List Byte) (poisoned damaged : Bool) (s : State) :
    Host.Outcome State Fault Refusal :=
  done <| State.landed (c := m.ctx) (vc := 4) <| s.expxFor m 4 unitRow (leBytes 4 expert ++ leBytes 4 ordinal ++ leBytes 4 ret ++ row) poisoned fun g s =>
    match s.expxTarget m 1 with
    | none => s
    | some e =>
      let y := e.landSlot g (e.f.bufDesc, e.f.ovfDesc) m.src expert ordinal
      match e.p.ten y.1 with
      | none => s
      | some d =>
        let r := (d.at [y.2, 0], e.f.rowLen * d.format.size)
        let w : RowAt := ⟨m.op, false, m.src, expert, ordinal, ret, s.physSpans m.ctx [r]⟩
        let had := (kvGetD m.op g.rows []).any fun x => x.1 == m.src && x.2.1 == expert && x.2.2.1 == ordinal
        if damaged then s.rowDamaged m.ctx g w
        else if had && !(s.rowDue.any fun b => inSpans w.spans ⟨b.2, 0, true, 1⟩) then s
        else
          let s := s.recoverPartial m.ctx w.spans m.errs
          s.opTry e.c e.i (rdAll (fun k => s.rdScale e.c d y.2 k) (List.range e.f.rowLen)) fun sc =>
            let ws := storeRow e.f.numMode d.format sc.1 row
            s.opTry e.c e.i (s.wrBytes e.c r.1 (rowBytes d.format ws)) fun s =>
              let bad := poisoned || sc.2.isSome
              let s := (if bad then s.vpoison e.c r.1 r.2 else s).rowStands m w
              if had then s
              else
                let s := if bad then s else s.opCount e.c e.i (rowCount y.2 ws)
                let s := s.expxDo m.ctx m.tag fun g => { g with rows := kvSet m.op (kvGetD m.op g.rows [] ++ [(m.src, expert, ordinal, ret)]) g.rows }
                if g.op = some m.op then s.scatterNext e.c e.i else s

/-- The elements of a returned row as they are stored (R226 step 5): in the tensor's own format as they came, otherwise from FP32. -/
def storeReturn (mode n : Nat) (dst : Fmt) (sc : List FV) (l : List Byte) : List Byte :=
  if l.length = n * dst.size then l
  else rowBytes dst ((List.zip (wordsOf l) sc).map fun z => wbFmt dst mode (loadEnt z.1) z.2)

/-- EXPX_RETURN_LAND (R226 step 5, R227, R228). -/
def execExpxReturnLand (m : ExpxMsg) (ret : Nat) (row : List Byte) (poisoned damaged : Bool) (s : State) : Host.Outcome State Fault Refusal :=
  done <| State.landed (c := m.ctx) (vc := 4) <| s.expxFor m 4 unitReturn (leBytes 4 ret ++ row) poisoned fun g s =>
    match s.expxTarget m 2 with
    | none => s
    | some e =>
      match e.p.ten e.f.retDesc with
      | none => s
      | some d =>
        let r := (d.at [ret, 0], e.f.rowLen * d.format.size)
        let w : RowAt := ⟨m.op, true, m.src, 0, 0, ret, s.physSpans m.ctx [r]⟩
        let had := (kvGetD m.op g.returned []).contains ret
        if damaged then s.rowDamaged m.ctx g w
        else if had && !(s.rowDue.any fun b => inSpans w.spans ⟨b.2, 0, true, 1⟩) then s
        else
          let s := s.recoverPartial m.ctx w.spans m.errs
          s.opTry e.c e.i (rdAll (fun k => s.rdScale e.c d ret k) (List.range e.f.rowLen)) fun sc =>
            s.opTry e.c e.i (s.wrBytes e.c r.1 (storeReturn e.f.numMode e.f.rowLen d.format sc.1 row)) fun s =>
              let s := (if poisoned || sc.2.isSome then s.vpoison e.c r.1 r.2 else s).rowStands m w
              let s := if had then s
                else s.expxDo m.ctx m.tag fun g => { g with returned := kvSet m.op (insNat ret (kvGetD m.op g.returned [])) g.returned }
              if g.op = some m.op then s.combineNext e.c e.i else s

/-- EXPX_ROW_RESEND_REQUEST (R228): a row from its source, a returned row from its owner. -/
def execExpxRowResendRequest (m : ExpxMsg) (expert ordinal ret : Nat) (s : State) : Host.Outcome State Fault Refusal :=
  done <| s.expxFor m 0 msgResend (leBytes 4 expert ++ leBytes 4 ordinal ++ leBytes 4 ret) false fun g s =>
    match s.expxTarget m 1, s.expxTarget m 2 with
    | some e, _ =>
      let s := s.recoverRanges e.c (e.p.rangesOf [e.f.xDesc, e.f.wDesc, e.f.recDesc]) m.errs
      s.opTry e.c e.i (e.records s) fun l =>
        (match (remoteRows (e.f.per (some g)) m.src l.1).find? fun x => x.1.e == expert && x.2 == ordinal with
         | some x => s.opTry e.c e.i (s.rowSend e g m.src false x) fun s => s
         | none => s)
    | none, some e =>
      let s := s.recoverRanges e.c (e.p.rangesOf [e.f.yDesc, e.f.yovfDesc]) m.errs
      (match (g.heldRows e).find? fun x => x.1 == m.src && x.2.2.2 == ret with
       | some x => s.opTry e.c e.i (s.returnSend e g x) fun s => s
       | none => s)
    | none, none => s

/-! ## Host commands (R225) -/

/-- The limits of R225. -/
def ExpxFields_ok (f : ExpxFields) : Bool :=
  decide (1 ≤ f.ctx ∧ f.ctx ≤ 1023 ∧ 2 ≤ f.size ∧ f.size ≤ 64 ∧ f.rank < f.size ∧ 1 ≤ f.ports ∧ f.ports ≤ 4)
    && decide f.members.Nodup && decide (f.portOut.take f.ports ++ f.portIn.take f.ports).Nodup

/-- EXPX_GROUP_CREATE (R225, R227): completes with formation; the count area, 4 KiB for each member, must find room in the management frames
(log 126). -/
def execExpxGroupCreate (h : PktHead) (f : ExpxFields) (s : State) : Host.Outcome State Fault Refusal :=
  .next <| s.commit h 0x0530 1 fun s =>
    let ports := f.portOut.take f.ports ++ f.portIn.take f.ports
    if !ExpxFields_ok f || (kvGet (gkey f.ctx f.tag) s.expx).isSome || !(ports.all s.portFree) then s.replyWrite h 0x0530 1 .expxFormMismatch []
    else if (kvGet f.ctx s.ctxs).isNone then s.replyWrite h 0x0530 1 .ctxUnknown []
    else if !s.framesFit (4096 * f.size) then s.replyWrite h 0x0530 1 .memCapacity []
    else
      let g : Expx := { f := f, form := Form.new h s.refCount, op := none, counts := [], base := [], grants := [], rows := [], sent := [],
                        returned := [] }
      let s := { s with expx := kvSet (gkey f.ctx f.tag) g s.expx }
      (s.bindPorts (ports.map fun p => (p, 5)) f.tag).formStart (expxView f)

/-- EXPX_GROUP_DESTROY (R152, R225; log 39). -/
def execExpxGroupDestroy (h : PktHead) (tag ctx : Nat) (s : State) : Host.Outcome State Fault Refusal :=
  s.command h 0x0531 1 fun s =>
    match kvGet (gkey ctx tag) s.expx with
    | none => refuse .paramRange s
    | some g =>
      let s := if g.op.isSome then s.expxFail ctx tag 4 0xFF .expxLink else s
      let s := s.formReply .expx ctx tag .expxFormTimeout
      let s := s.bindPorts ((g.f.portOut.take g.f.ports ++ g.f.portIn.take g.f.ports).map fun p => (p, 0)) 0
      (.ok, [], { s with expx := kvDel (gkey ctx tag) s.expx })

/-- EXPX_GROUP_QUERY (R152, R225; 64 bits each, log 18): state, sources whose counts have landed, rows landed, rows returned. -/
def execExpxGroupQuery (h : PktHead) (tag ctx : Nat) (s : State) : Host.Outcome State Fault Refusal :=
  s.command h 0x0532 1 fun s =>
    match kvGet (gkey ctx tag) s.expx with
    | none => refuse .paramRange s
    | some g => (.ok, leBytes 8 g.form.state ++ leBytes 8 (g.counts.filter fun x => !x.2.isEmpty).length ++
        leBytes 8 (g.rows.map fun x => x.2.length).sum ++ leBytes 8 (g.returned.map fun x => x.2.length).sum, s)

end Sys2Proof.Machine
end

