-- ==== Sys2Proof/Machine/Stage.lean ====
section
/-! DEFINITION. Stage queues (11_job_mapping R284, R287 to R291; R368). -/
namespace Sys2Proof.Machine

/-- The largest part of an item that one unit carries (R398). -/
def itemSegBytes : Nat := 65536

/-- Change a stage queue end. -/
def State.stageDo (s : State) (c tag : Nat) (f : StageQ → StageQ) : State :=
  { s with stageQ := kvMap (fun k q => if k = gkey c tag then f q else q) s.stageQ }

/-- Ports toward the peer. -/
def StageQ.ports (q : StageQ) : List Nat := q.f.port.take q.f.ports

/-- Is the other end on this module (R287)? -/
def State.stageLocal (s : State) (f : StageFields) : Bool := f.peer == s.vl.moduleId && f.ports == 0

/-- The stage operation in progress on a queue end. -/
def State.stageOp (s : State) (c tag : Nat) : Option (Nat × StqF) :=
  match kvGet c s.ctxs with
  | none => none
  | some x =>
    match x.plan, x.run with
    | some p, some r =>
      (enumFrom 0 (List.zip p.ops r.ops)).findSome? fun e =>
        match e.2.1 with
        | .stage f => if f.tag = tag && e.2.2.st = .begun then some (e.1, f) else none
        | _ => none
    | _, _ => none

/-- The queue end fails (R289), and with it the operation that waits; what a GET was to return is undefined (R296). -/
def State.stageFail (s : State) (c tag reason port : Nat) (st : Status) : State :=
  let w := s.stageOp c tag
  let s := s.stageDo c tag fun q => { q with form := { q.form with state := 2 } }
  let s := s.post 0x0532 c (groupData tag reason port (s.runStep c))
  match w with
  | none => s
  | some x => (s.undefine c (if x.2.result = 0 then [] else [(x.2.result, 8)])).opEnd c x.1 st []

/-- After a port went DOWN: a remote queue with every port down fails (R289), and with one that still forms its create (log 39); an operation that
waits for it to form then meets the failed queue (R368). -/
def State.stagePorts (s : State) : State :=
  s.stageQ.foldl (fun s e =>
    let c := e.1 / 2 ^ 32
    let tag := e.1 % 2 ^ 32
    if e.2.form.state ≠ 2 && s.allDead e.2.ports then (s.stageFail c tag 4 0xFF .stageLink).formReply .stage c tag .stageLink else s) s

/-! ## Host commands (R287) -/

/-- The limits of R287 on one end's fields. -/
def StageFields_ok (f : StageFields) (me : Nat) : Bool :=
  decide (1 ≤ f.ctx ∧ f.ctx ≤ 1023 ∧ 1 ≤ f.peerCtx ∧ f.peerCtx ≤ 1023 ∧ 1 ≤ f.slots ∧ f.slots ≤ 255 ∧ f.ports ≤ 4)
    && (f.ports == 0) == (f.peer == me) && !(f.peer == me && f.peerCtx == f.ctx)
    && decide (64 ≤ f.itemBytes ∧ f.itemBytes ≤ 2 ^ 30) && f.itemBytes % 64 == 0
    && (!f.consumer || f.base % 2 ^ 21 == 0) && decide (f.port.take f.ports).Nodup

/-- A local queue forms when both ends exist (R287): alike in every shared field, or both fail. -/
def State.stageJoin (s : State) (f : StageFields) : State :=
  match kvGet (gkey f.peerCtx f.tag) s.stageQ with
  | none => s
  | some o =>
    let same := s.stageLocal o.f && o.f.peerCtx == f.ctx && o.f.consumer != f.consumer && o.f.slots == f.slots && o.f.itemBytes == f.itemBytes
    if o.form.state ≠ 0 then s.formFail .stage f.ctx f.tag 0 0xFF .stageFormMismatch
    else if same then (s.formDone .stage f.peerCtx f.tag).formDone .stage f.ctx f.tag
    else (s.formFail .stage f.peerCtx f.tag 0 0xFF .stageFormMismatch).formFail .stage f.ctx f.tag 0 0xFF .stageFormMismatch

/-- Is the other end of a local queue here too? -/
def State.stagePaired (s : State) (f : StageFields) : Bool := s.stageLocal f && (kvGet (gkey f.peerCtx f.tag) s.stageQ).isSome

/-- Stage queues that the module holds (R287): one whose two ends both lie here counts once. -/
def State.stageCount (s : State) : Nat := (s.stageQ.filter fun e => !(e.2.f.consumer && s.stagePaired e.2.f)).length

/-- STAGE_QUEUE_CREATE (R284, R287): completes with formation. -/
def execStageQueueCreate (h : PktHead) (f : StageFields) (s : State) : Host.Outcome State Fault Refusal :=
  .next <| s.commit h 0x0540 1 fun s =>
    let ports := f.port.take f.ports
    let mine := (s.stageQ.filter fun e => e.1 / 2 ^ 32 == f.ctx).length
    if !StageFields_ok f s.vl.moduleId || (!s.stagePaired f && decide (256 ≤ s.stageCount)) || decide (64 ≤ mine)
        || (kvGet (gkey f.ctx f.tag) s.stageQ).isSome || !(ports.all s.portFree) then
      s.replyWrite h 0x0540 1 .stageFormMismatch []
    else if (kvGet f.ctx s.ctxs).isNone then s.replyWrite h 0x0540 1 .ctxUnknown []
    else
      let q : StageQ := { f := f, form := Form.new h s.refCount, putIdx := 0, getIdx := 0, relIdx := 0, credit := f.slots, landed := [],
                          segs := [] }
      let s := { s with stageQ := kvSet (gkey f.ctx f.tag) q s.stageQ }
      if s.stageLocal f then s.stageJoin f
      else (s.bindPorts (ports.map fun p => (p, 6)) f.tag).formStart (stageView s.vl.moduleId f)

/-- STAGE_QUEUE_DESTROY (R287, R152): an operation that waits fails with ST_STAGE_LINK, a create that still forms times out
(log 39). -/
def execStageQueueDestroy (h : PktHead) (tag ctx : Nat) (s : State) : Host.Outcome State Fault Refusal :=
  s.command h 0x0541 1 fun s =>
    match kvGet (gkey ctx tag) s.stageQ with
    | none => refuse .paramRange s
    | some q =>
      let s := if (s.stageOp ctx tag).isSome then s.stageFail ctx tag 4 0xFF .stageLink else s
      let s := s.formReply .stage ctx tag .stageFormTimeout
      let s := s.bindPorts (q.ports.map fun p => (p, 0)) 0
      (.ok, [], { s with stageQ := kvDel (gkey ctx tag) s.stageQ })

/-- The next item index of a queue's producer and of its consumer (R287): of a remote other end what this end knows, the items released
to it or landed here (log 18). -/
def State.stageNext (s : State) (tag : Nat) (q : StageQ) : Nat × Nat :=
  let other := if s.stageLocal q.f then kvGet (gkey q.f.peerCtx tag) s.stageQ else none
  if q.f.consumer then (match other with | some o => o.putIdx | none => q.relIdx + q.landed.length, q.getIdx)
  else (q.putIdx, match other with | some o => o.getIdx | none => q.putIdx - (q.f.slots - q.credit))

/-- STAGE_QUEUE_QUERY (R152, R287; 64 bits each, log 18): state, slots in use, the producer's next item index, the consumer's. -/
def execStageQueueQuery (h : PktHead) (tag ctx : Nat) (s : State) : Host.Outcome State Fault Refusal :=
  s.command h 0x0542 1 fun s =>
    match kvGet (gkey ctx tag) s.stageQ with
    | none => refuse .paramRange s
    | some q =>
      let n := s.stageNext tag q
      (.ok, leBytes 8 q.form.state ++ leBytes 8 (if q.f.consumer then q.landed.length else q.f.slots - q.credit) ++ leBytes 8 n.1
        ++ leBytes 8 n.2, s)

/-! ## Operations (R288) -/

/-- Address of an item's slot. -/
def StageQ.slotAddr (q : StageQ) (i : Nat) : Nat := q.f.base + i % q.f.slots * q.f.itemBytes

/-- The 64-byte item header (R288): step, index, byte count. -/
def itemHeader (step index bytes : Nat) : List Byte := padTo 64 (leBytes 8 step ++ leBytes 8 index ++ leBytes 8 bytes)

/-- GET's item is there: the step is checked (R289), the slot's address returned. -/
def State.getDone (s : State) (c i : Nat) (f : StqF) (q : StageQ) (step : Nat) : State :=
  if step ≠ s.runStep c then s.stageFail c f.tag 3 0xFF .stageSkew
  else
    let a := q.slotAddr q.getIdx
    let s := s.stageDo c f.tag fun q => { q with getIdx := q.getIdx + 1 }
    if f.result = 0 then s.opEnd c i .ok [] else s.opTry c i (s.wrBytes c f.result (leBytes 8 a)) fun s => s.opEnd c i .ok []

/-- A GET in progress takes its item once it has landed, while its context is resident. -/
def State.getTry (s : State) (c i : Nat) (f : StqF) : State :=
  match kvGet (gkey c f.tag) s.stageQ with
  | none => s
  | some q =>
    match q.landed.find? fun e => e.1 == q.getIdx with
    | some e => if s.circRuns c then s.getDone c i f q e.2 else s
    | none => s

/-- GETs of a queue that the context's run has yet to finish. -/
def State.getsLeft (s : State) (c tag : Nat) : Nat :=
  match kvGet c s.ctxs with
  | none => 0
  | some x =>
    match x.plan, x.run with
    | some p, some r =>
      ((List.zip p.ops r.ops).filter fun e => match e.1 with
        | .stage f => f.tag = tag && f.op = 1 && e.2.st ≠ .ended
        | _ => false).length
    | _, _ => 0

/-- Does a header differ from the consumer's expectation (R289): an index outside its free slots, or an item of the run in progress with
another step?  An item of a later run is checked when its GET runs. -/
def State.stageSkew (s : State) (c tag step index : Nat) (q : StageQ) : Bool :=
  decide (q.relIdx + q.f.slots ≤ index) || (decide (index < q.getIdx + s.getsLeft c tag) && step != s.runStep c)

/-- An item segment lands at the consumer (R288, R289, R402); the first complete copy counts. -/
def State.stageLand (s : State) (c tag step index seg : Nat) (data : List Byte) (last bad : Bool) : State :=
  match kvGet (gkey c tag) s.stageQ with
  | none => s
  | some q =>
    if q.form.state ≠ 1 ∨ !q.f.consumer then s
    else if decide (index < q.relIdx) || q.landed.any (fun e => e.1 == index) || q.segs.any (fun e => e.1 == index && e.2.1 == seg) then s
    else if s.stageSkew c tag step index q ∨ q.f.itemBytes < seg * itemSegBytes + data.length then s.stageFail c tag 3 0xFF .stageSkew
    else
      let a := q.slotAddr index + seg * itemSegBytes
      let wait := s.stageOp c tag
      match s.wrBytes c a data with
      | .error e => (match wait with
        | some w => s.opFault c w.1 e
        | none => s)
      | .ok s =>
        let s := if bad then s.vpoison c a data.length else s
        let segs := q.segs ++ [(index, seg, last)]
        let mine := segs.filter fun e => e.1 == index
        let whole := mine.any fun e => e.2.2 && mine.length == e.2.1 + 1
        let s := s.stageDo c tag fun q =>
          if whole then { q with landed := q.landed ++ [(index, step)], segs := q.segs.filter fun e => e.1 != index } else { q with segs := segs }
        match wait with
        | some w => if w.2.op = 1 then s.getTry c w.1 w.2 else s
        | none => s

/-- Send segment `seg` of an item. -/
def State.stageUnit (s : State) (c : Nat) (q : StageQ) (index seg : Nat) (l : List Byte) (bad : Bool) : State :=
  match s.sharePort q.ports index with
  | none => s
  | some p =>
    let u : TxUnit := { vc := 5, ctx := c, bind := q.f.tag, payload := l, signal := none, landed := none, poison := bad,
                        cont := seg != 0 }
    { s with ports := s.ports.modify p fun x => { x with txq := x.txq ++ [u] } }

/-- The item's segments, each with its number and whether its source reads as poisoned (R187). -/
def State.itemSegs (s : State) (c addr bytes : Nat) : Rd (List (Nat × List Byte × Bool)) :=
  rdAll (fun k => match s.rdBytes c (addr + k * itemSegBytes) (min itemSegBytes (bytes - k * itemSegBytes)) with
    | .ok r => .ok ((k, r.1, r.2.isSome), none)
    | .error e => .error e) (List.range (ceilDiv bytes itemSegBytes))

/-- PUT with a credit (R288): the item leaves behind its header, in segments, or is copied into a local slot. -/
def State.putTry (s : State) (c i : Nat) (f : StqF) : State :=
  match s.opOf c i, kvGet (gkey c f.tag) s.stageQ with
  | some (_, p, r, _, _), some q =>
    if q.credit = 0 then s
    else
      s.opTry c i (s.itemSegs c (((p.ten f.srcDesc).map TDesc.addr).getD 0) q.f.itemBytes) fun l =>
        let n := l.1.length
        let s := s.stageDo c f.tag fun q => { q with credit := q.credit - 1, putIdx := q.putIdx + 1 }
        let s := l.1.foldl (fun s e =>
          if s.stageLocal q.f then s.stageLand q.f.peerCtx f.tag r.step q.putIdx e.1 e.2.1 (e.1 + 1 == n) e.2.2
          else s.stageUnit c q q.putIdx e.1 ((if e.1 = 0 then itemHeader r.step q.putIdx q.f.itemBytes else []) ++ e.2.1) e.2.2) s
        s.opEnd c i .ok []
  | _, _ => s

/-- Does an operation wait for its queue to form (R368)? -/
def State.stageForms (s : State) (c : Nat) (f : StqF) : Bool :=
  match kvGet (gkey c f.tag) s.stageQ with
  | some q => q.form.state == 0
  | none => false

/-- What R368 and R288 hold against an operation as it begins: no queue or a failed one, the wrong end, a slot not released. -/
def State.stageRefuse (s : State) (c : Nat) (f : StqF) : Option Status :=
  match kvGet (gkey c f.tag) s.stageQ with
  | none => some .stageLink
  | some q =>
    if q.form.state = 2 then some .stageLink
    else if q.f.consumer != (f.op != 0) then some .planStage
    else if f.op = 1 && decide (q.relIdx + q.f.slots ≤ q.getIdx) then some .planStage
    else if f.op = 2 && decide (q.getIdx ≤ q.relIdx) then some .planStage
    else none

/-- A STAGE operation of one code: it begins when it may and its queue has formed (R368), and one in progress goes on while its context is
not saved. -/
def State.stageRun (s : State) (c i code : Nat) (go : StqF → State → State) : State :=
  match s.opOf c i with
  | some (_, _, _, .stage f, q) =>
    if f.op ≠ code then s
    else if s.mayIssue c i then
      if s.stageForms c f then s
      else
        let s := s.opBegin c i (.wait 0)
        match s.stageRefuse c f with
        | some st => s.opEnd c i st []
        | none => go f s
    else if q.st = .begun && s.circRuns c then go f s
    else s
  | _ => s

/-- STQ_PUT (R288): one credit, waiting while none is free. -/
def execStqPut (c op : Nat) (errs : List SectorErr) (s : State) : Host.Outcome State Fault Refusal :=
  done <| s.stageRun c op 0 fun f s =>
    match s.opOf c op, kvGet (gkey c f.tag) s.stageQ with
    | some (_, p, _, _, _), some q =>
      if q.credit = 0 then s
      else
        let src := [(((p.ten f.srcDesc).map TDesc.addr).getD 0, q.f.itemBytes)]
        let s := s.recoverRanges c src errs
        if s.rebuildDue (s.physSpans c src) then s else s.putTry c op f
    | _, _ => s

/-- STQ_GET (R288). -/
def execStqGet (c : Nat) (at_ : OpAt) (s : State) : Host.Outcome State Fault Refusal :=
  done <| (s.resultRecover c at_).stageRun c at_.op 1 fun f s => s.getTry c at_.op f

/-- A credit comes back to the producer (R288): a PUT that waits takes it while its context is resident. -/
def State.stageCredit (s : State) (c tag : Nat) : State :=
  match kvGet (gkey c tag) s.stageQ with
  | none => s
  | some q =>
    if q.form.state ≠ 1 ∨ q.f.consumer ∨ q.f.slots ≤ q.credit then s
    else
      let s := s.stageDo c tag fun q => { q with credit := q.credit + 1 }
      match s.stageOp c tag with
      | some w => if w.2.op = 0 && s.circRuns c then s.putTry c w.1 w.2 else s
      | none => s

/-- STQ_RELEASE (R288): the oldest held item ends, its credit goes back. -/
def execStqRelease (c op : Nat) (s : State) : Host.Outcome State Fault Refusal :=
  done <| s.stageRun c op 2 fun f s =>
    match kvGet (gkey c f.tag) s.stageQ with
    | none => s
    | some q =>
      let s := s.stageDo c f.tag fun q => { q with relIdx := q.relIdx + 1, landed := q.landed.filter fun e => e.1 != q.relIdx }
      let s := s.opEnd c op .ok []
      if s.stageLocal q.f then s.stageCredit q.f.peerCtx f.tag
      else
        match s.sharePort q.ports q.relIdx with
        | some p => s.sendUnit p 0 c f.tag (ctlMsg msgCredit (leBytes 4 f.tag ++ leBytes 4 1))
        | none => s

/-- STAGE_ITEM_LAND (R288, R289, R402). -/
def execStageItemLand (c tag step index segment : Nat) (data : List Byte) (last poisoned : Bool) (s : State) :
    Host.Outcome State Fault Refusal :=
  done <| ((s.progress 5 c tag).stageLand c tag step index segment data last poisoned).landed c 5

/-- STAGE_CREDIT_RETURN (R288). -/
def execStageCreditReturn (c tag : Nat) (s : State) : Host.Outcome State Fault Refusal :=
  done <| (s.progress 5 c tag).stageCredit c tag

/-- STAGE_STALL_TIMEOUT (R289): a waiting end posts EV_STAGE_STALL. -/
def execStageStallTimeout (c tag : Nat) (s : State) : Host.Outcome State Fault Refusal :=
  done <|
    match kvGet (gkey c tag) s.stageQ with
    | some q =>
      (match s.stageOp c tag with
       | some w =>
         (match s.stallDue 5 c tag q.f.stallLimit (match s.opOf c w.1 with | some (_, _, _, _, o) => o.began | none => 0) with
          | some x => x.2.post 0x0533 c (groupData tag 2 0xFF x.1)
          | none => s)
       | none => s)
    | none => s

end Sys2Proof.Machine
end

