-- ==== Sys2Proof/Machine/Marks.lean ====
section
/-! DEFINITION. The step record (12_determinism R302 and R303), lull snapshots and readings (11_job_mapping R295), trace marks
(21_registers R466). -/
namespace Sys2Proof.Machine

/-! ## STEP_MARK (R302) -/

/-- The environmental statuses of R296 that a plan operation can end with by its own status; ST_STEP_SKEW and ST_POISON are so by what they
follow, which the span keeps (`State.opEnd`, `State.unrecovered`; log 86). -/
def Status.environmental (st : Status) : Bool :=
  match st with
  | .eddyLink | .tradeLink | .stageLink | .expxLink | .soLink | .eddyFormTimeout | .tradeFormTimeout | .stageFormTimeout
  | .expxFormTimeout | .waitHolderPreempted | .waitTimeout | .mcHome => true
  | _ => false

/-- CRC-32C over the CRC-32Cs of 4 KiB chunks (R303). -/
def fingerprint (l : List Byte) : Nat := crc32c ((chunks 4096 (l.length + 1) l).flatMap fun b => leBytes 4 (crc32c b))

/-- One entry of `RC_FP` (R302): tensor, fingerprint, bytes, whether poison was met. -/
def fpEntry (tensor bytes fp : Nat) (poison : Bool) : List Byte := leBytes 4 tensor ++ leBytes 4 fp ++ leBytes 7 bytes ++ leBytes 1 (b2n poison)

/-- The fingerprint entry of one tensor range of STEP_MARK, with the poison that its bytes hold (R302). -/
def State.fpOf (s : State) (c : Nat) (e : Nat × Nat × Nat) : Rd (List Byte) :=
  match s.rdBytes c e.2.1 e.2.2 with
  | .ok b => .ok (fpEntry e.1 e.2.2 (fingerprint b.1) b.2.isSome, b.2)
  | .error z => .error z

/-- Operations since the previous STEP_MARK, in plan order, with their status blocks: earlier runs', then those of this run before `i`. -/
def sinceMark (m : MarkSpan) (r : Run) (i : Nat) : List (Status × List Byte) :=
  m.statuses ++ ((enumFrom 0 r.ops).filter fun o => decide (m.firstOp ≤ o.1 ∧ o.1 < i)).map fun o => (o.2.status, o.2.blocks o.1)

/-- `RC_STATUS_FP` (R303). -/
def statusFp (l : List (Status × List Byte)) : Nat := crc32c (l.flatMap fun x => leBytes 2 x.1.code ++ x.2)

/-- The first of equal entries only. -/
def firsts : List Nat → List Nat
  | [] => []
  | a :: t => a :: (firsts t).filter (· != a)

/-- Addresses of the loss-scale records that a plan's updates name, and of the scale records of the buckets of its context's Trade ring,
in plan order and bucket order (R303; log 85). -/
def State.stateRecords (s : State) (c : Nat) (p : Plan) : List Nat :=
  firsts (p.ops.filterMap fun o => match o with | .optUpdate f => some f.lscale | _ => none)
    ++ firsts (p.ops.flatMap fun o => match o with
      | .tradeReduce t n _ => ((s.bucketTable c t n).getD []).map fun b => nth b 6
      | _ => [])

/-- `RC_STATE_FP` (R303): the 64 group state records, the loss-scale records, the scale records in bucket order. -/
def State.stateFp (s : State) (c : Nat) (p : Plan) : Rd Nat :=
  let groups := match s.tradeOf c with | some g => g.2.states.flatMap GroupState.bytes | none => []
  match rdAll (fun a => s.rdBytes c a 64) (s.stateRecords c p) with
  | .error e => .error e
  | .ok r => .ok (crc32c (groups ++ r.1.flatten), r.2)

/-- The step record without its fingerprint entries (R302): bytes 0 to 127. -/
def State.recordHead (s : State) (c : Nat) (x : Ctx) (p : Plan) (r : Run) (nfp statFp stateFp : Nat) (l : List (Status × List Byte)) : List Byte :=
  let first := ((l.map Prod.fst).find? fun st => st != .ok).getD .ok
  let env := x.mark.envir || l.any fun y => y.1.environmental
  leBytes 4 s.ident.cls ++ leBytes 2 s.vl.moduleId ++ leBytes 2 c ++ leBytes 8 r.step ++ leBytes 8 r.seed.toNat ++ leBytes 32 p.digest.toNat
    ++ leBytes 32 ((s.fw.running.map Manifest.digest).getD 0).toNat
    ++ leBytes 16 (Config.shake256 (cellsRead s.fw.flash (identArea + 64) 64)).toNat ++ leBytes 2 first.code ++ leBytes 1 nfp
    ++ leBytes 1 (b2n env + 2 * b2n (x.mark.recovered != 0)) ++ leBytes 4 statFp ++ leBytes 4 stateFp ++ leBytes 4 x.mark.recovered
    ++ leBytes 8 (s.refCount - x.mark.since)

/-- STEP_MARK (R302 to R304): the record is written, the span starts anew; ST_POISON where a tensor held poison. An error of its own reads
that could not be recovered belongs to the span that it ends. -/
def execStepMark (c i : Nat) (errs : List SectorErr) (s : State) : Host.Outcome State Fault Refusal :=
  done <|
    let s := s.opRecover c i (fun o => o.kind == 0x000D) errs
    match s.opOf c i with
    | some (x, p, r, .stepMark addr es, _) =>
      if !s.mayIssue c i then s
      else
        let s := s.opBegin c i .none
        s.opTry c i (rdAll (s.fpOf c) es) fun fps =>
          s.opTry c i (s.stateFp c p) fun sfp =>
            let l := sinceMark x.mark r i
            let met := pFirst fps.2 sfp.2
            let env := x.mark.envir || (match met with | some pa => s.hwPoisoned pa | none => false)
            let head := s.recordHead c { x with mark := { x.mark with envir := env } } p r es.length (statusFp l) sfp.1 l
            s.opTry c i (s.wrBytes c addr (padTo 384 (head ++ fps.1.flatten))) fun s =>
              let s := match met with | some pa => s.opPoison c i 0 pa | none => s
              let s := s.ctxDo c fun x =>
                { x with mark := { since := s.refCount, firstOp := i + 1, recovered := 0, envir := false, statuses := [] } }
              s.opEnd c i .ok []
    | _ => s

/-! ## Lull counters (R295) -/

/-- LULL_SNAP (R295): the context's counters summed over its positions. -/
def execLullSnap (c : Nat) (at_ : OpAt) (s : State) : Host.Outcome State Fault Refusal :=
  let i := at_.op
  done <|
    let s := s.resultRecover c at_
    match s.opOf c i with
    | some (x, _, _, .lullSnap addr, _) =>
      if !s.mayIssue c i then s
      else
        let s := s.opBegin c i .none
        s.opTry c i (s.wrBytes c addr x.lullSum) fun s => s.opEnd c i .ok []
    | _ => s

/-- LULL_READ (R295, R359, R414): 104 bytes for each position of the range. -/
def execLullRead (h : PktHead) (ctx first count : Nat) (s : State) : Host.Outcome State Fault Refusal :=
  let die := match kvGet ctx s.ctxs with
    | some x => (match x.positions[first]? with | some q => 0x0100 + q.home / 48 | none => 0x0100)
    | none => 0x0100
  s.mgmtCommand h 0x0710 (ceilDiv (32 + 104 * min count 4) 64) die fun s =>
    match kvGet ctx s.ctxs with
    | none => refuse (if ctx = 0 then .paramRange else if 1 ≤ count ∧ count ≤ 4 then .ctxUnknown else .paramRange) s
    | some x =>
      guarded [(count == 0 || decide (count > 4), .paramRange), (decide (first + count > x.positions.length), .telRange)] s fun s =>
        (.ok, ((x.positions.drop first).take count).flatMap fun q => lullRecord q.lulls q.ovf.toNat, s)

/-! ## TRACE_MARK (R466) -/

/-- TRACE_MARK (R330, R466): the entry's code is `TM_CODE`, byte 8 of its data is 0. -/
def execTraceMark (c i : Nat) (s : State) : Host.Outcome State Fault Refusal :=
  done <|
    match s.opOf c i with
    | some (_, _, _, .traceMark code data, _) =>
      if !s.mayIssue c i then s
      else
        let s := s.opBegin c i .none
        let s := { s with trq := s.trq.push s.refCount code c (leBytes 8 data.toNat) }
        s.opEnd c i .ok []
    | _ => s

end Sys2Proof.Machine
end

