-- ==== Sys2Proof/Machine/Power.lean ====
section
/-! DEFINITION. Clocks and readings (18_error_detection R418 to R425), the power governor, thermal limits, input voltage
(20_power R449 to R457), and what a reset leaves (R452, 21_registers R463). -/
namespace Sys2Proof.Machine

/-! ## Islands (R19, R418, R453) -/

/-- Telemetry units of the 227 islands (R418). -/
def islandUnits : List Nat :=
  List.range 192 ++ (List.range 4).map (· + 0x0100) ++ (List.range 8).map (· + 0x0110) ++ (List.range 4).map (· + 0x0120)
    ++ (List.range 16).map (· + 0x0130) ++ [0x0140, 0x0141, 0x0142]

/-- Core and die-NoC islands, the ones that the governor lowers for power (R454). -/
def governed (unit : Nat) : Bool := decide (unit < 192) || decide (0x0100 ≤ unit ∧ unit < 0x0104)

/-- Nominal clock of an island in kHz (R19). -/
def nominalKhz (unit : Nat) : Nat :=
  if unit < 192 then 2500000
  else if unit < 0x0110 then 2000000
  else if unit < 0x0120 then 1200000
  else if unit < 0x0130 then 1067000
  else if unit < 0x0140 then 1660000
  else if unit = 0x0142 then 1600000
  else 2000000

/-- The step of an island: the lower of the common step and its thermal step (R454, R456). -/
def State.islandStep (s : State) (unit : Nat) : Nat :=
  let t := kvGetD unit s.power.thermSteps 125
  if governed unit then min s.power.step t else t

/-- The current clock in kHz (R453). -/
def State.islandKhz (s : State) (unit : Nat) : Nat := nominalKhz unit * s.islandStep unit / 125

/-- Account the time since the last change of clocks: clock steps x ns under index 4, time below nominal under index 5 (R419), time
with an island lowered by the governor (R421). -/
def State.accrue (s : State) : State :=
  let dt := s.refCount - s.power.since
  let one (t : KV Nat) (u : Nat) : KV Nat :=
    let n := s.islandStep u
    let t := kvSet (u * 0x10000 + 4) (kvGetD (u * 0x10000 + 4) t 0 + n * dt) t
    if n < 125 then kvSet (u * 0x10000 + 5) (kvGetD (u * 0x10000 + 5) t 0 + dt) t else t
  { s with tel := islandUnits.foldl one s.tel,
           power := { s.power with since := s.refCount, capNs := s.power.capNs + (if s.power.step < 125 then dt else 0) } }

/-! ## Readings (R419 to R421) -/

/-- The hottest sensor of a unit, if one has been read. -/
def State.unitTemp (s : State) (unit : Nat) : Option Int :=
  (s.power.temps.filter fun t => t.1.2 == unit && t.1.1 != .coldPlate && t.1.1 != .conversion).foldl
    (fun m t => match m with | none => some t.2 | some x => some (max x t.2)) none

/-- The latest temperature of a sensor. -/
def State.tempOf (s : State) (k : SensorKind) (unit : Nat) : Option Int :=
  (s.power.temps.find? fun t => t.1 == (k, unit)).map Prod.snd

/-- The unit of the hottest island sensor with its temperature, the lowest unit among equals (R421). -/
def State.hotUnit (s : State) : Option (Nat × Int) :=
  islandUnits.foldl (fun m u => match s.unitTemp u, m with
    | none, _ => m
    | some t, none => some (u, t)
    | some t, some x => if x.2 < t then some (u, t) else m) none

/-- The limit in force in W (R25). -/
def State.powerLimit (s : State) : Nat := min 1800 s.power.cap

/-- A 64-bit reading. -/
def word64 (i : Int) : Nat := uInt 64 i

/-- Kinds of telemetry units. -/
inductive UnitKind where
  | core | noc | hbm | lp | vauri (p : Nat) | hub | ucie | cp | module
  deriving DecidableEq, Repr

/-- The unit of a number, if this order number has it (R418). -/
def State.unitKind (s : State) (u : Nat) : Option UnitKind :=
  if u < 192 then some .core
  else if 0x0100 ≤ u ∧ u < 0x0104 then some .noc
  else if 0x0110 ≤ u ∧ u < 0x0118 then some .hbm
  else if 0x0120 ≤ u ∧ u < 0x0124 then some .lp
  else if 0x0130 ≤ u ∧ u < 0x0130 + s.ident.order.ports then some (.vauri (u - 0x0130))
  else if u = 0x0140 then some .hub
  else if u = 0x0141 then some .ucie
  else if u = 0x0142 then some .cp
  else if u = 0x0200 then some .module
  else none

/-- Counters of a port in the order of R420: all of R411 but `VP_REPLAY`. -/
def Port.telIdx : Nat → Nat
  | 8 => 0 | 9 => 1 | 10 => 2 | 11 => 3 | 12 => 5 | 13 => 6 | _ => 7

/-- Readings 8 to 14 of an island (R420). -/
def State.kindReading (s : State) (k : UnitKind) (u i : Nat) : Nat :=
  match k with
  | .vauri p => match s.ports[p]? with | some q => nth q.counters (Port.telIdx i) | none => 0
  | .ucie => if i = 8 then s.hi.crcRetry else if i = 9 then s.hi.retrains else 0
  | .hbm => if i = 11 then word64 ((s.tempOf .hbm u).getD 0) else kvGetD (u * 0x10000 + i) s.tel 0
  | .core | .noc | .lp | .hub | .cp | .module => kvGetD (u * 0x10000 + i) s.tel 0

/-- Island cycles since reset (R419). -/
def State.cyclesOf (s : State) (u : Nat) : Nat := kvGetD (u * 0x10000 + 4) s.tel 0 * nominalKhz u / 125000000

/-- Overflow bits of the counters that clocks and time raise: TM_CYCLES and TM_SLOW_NS (R325, R419). -/
def State.timeMask (s : State) (u : Nat) : Nat :=
  (if s.cyclesOf u < 2 ^ 64 - 1 then 0 else 2 ^ 4) ||| (if kvGetD (u * 0x10000 + 5) s.tel 0 < 2 ^ 64 - 1 then 0 else 2 ^ 5)

/-- Overflow mask of a unit, reading 15 (R419, R420). -/
def State.kindMask (s : State) (k : UnitKind) (u : Nat) : Nat :=
  let own := kvGetD u s.telOvf 0 ||| s.timeMask u
  match k with
  | .vauri p => match s.ports[p]? with
    | some q => own ||| ((List.range 7).map fun j => if q.cntOvf.getLsbD (Port.telIdx (j + 8)) then 2 ^ (j + 8) else 0).sum
    | none => own
  | .ucie => own ||| (if s.hi.crcRetry = 2 ^ 64 - 1 then 2 ^ 8 else 0) ||| (if s.hi.retrains = 2 ^ 64 - 1 then 2 ^ 9 else 0)
  | .core | .noc | .hbm | .lp | .hub | .cp | .module => own

/-- A reading that nothing but a measurement gives is free (log 40): no sensor has been read, or current and auxiliary power. -/
def State.freeReading (s : State) : Nat × State := let r := s.fresh; (r.1.toNat, r.2)

/-- TM_ENERGY_EST (R419): the estimate since reset has grown by a free amount since it was last read (log 40); at its maximum it sticks. -/
def State.energyReading (s : State) (u : Nat) : Nat × State :=
  let r := s.fresh
  let t := r.2.telAdd u 6 r.1.toNat
  (kvGetD (u * 0x10000 + 6) t.tel 0, t)

/-- One reading of an island (R419); clocks are accounted to this moment. -/
def State.islandReading (s : State) (k : UnitKind) (u i : Nat) : Nat × State :=
  match i with
  | 0 => (match s.unitTemp u with | some t => (word64 t, s) | none => s.freeReading)
  | 1 => (match kvGet (u * 0x10000 + 1) s.tel, s.unitTemp u with | some t, _ => (t, s) | none, some t => (word64 t, s) | none, none => s.freeReading)
  | 2 => (s.islandKhz u, s)
  | 3 => (nominalKhz u, s)
  | 4 => (min (2 ^ 64 - 1) (s.cyclesOf u), s)
  | 5 => (min (2 ^ 64 - 1) (kvGetD (u * 0x10000 + 5) s.tel 0), s)
  | 6 => s.energyReading u
  | 7 => (kvGetD (u * 0x10000 + 7) s.tel 0, s)
  | 15 => (s.kindMask k u, s)
  | 11 => if k = .hbm ∧ s.tempOf .hbm u = none then s.freeReading else (s.kindReading k u 11, s)
  | j => (s.kindReading k u j, s)

/-- One reading of the module unit (R421). -/
def State.moduleReading (s : State) (i : Nat) : Nat × State :=
  match i with
  | 0 => (s.power.vinMv, s)
  | 2 => (s.power.pinMw, s)
  | 3 => (s.power.pin1sMw, s)
  | 4 => (min (2 ^ 64 - 1) (s.power.energy / 100000), s)
  | 6 => (s.powerLimit, s)
  | 7 => (match s.power.temps.find? fun t => t.1.1 == .coldPlate with | some t => (word64 t.2, s) | none => s.freeReading)
  | 8 => (match s.hotUnit with | some h => (h.1, s) | none => s.freeReading)
  | 9 => (s.refCount, s)
  | 10 => (s.power.capNs, s)
  | _ => s.freeReading

/-- Readings from an index on. -/
def State.readings (s : State) (k : UnitKind) (u : Nat) : Nat → Nat → List Byte × State
  | _, 0 => ([], s)
  | i, n + 1 =>
    let r := if k = .module then s.moduleReading i else s.islandReading k u i
    let t := State.readings r.2 k u (i + 1) n
    (leBytes 8 r.1 ++ t.1, t.2)

/-- The die-NoC unit on whose die an island lies: stacks 2d and 2d + 1 are die d's (R171); the hub die's units count at the CP's own controller, for which
die 0 stands (log 40). -/
def dieNoc (unit : Nat) : Nat :=
  if unit < 192 then 0x0100 + unit / 48 else if unit < 0x0104 then unit else if 0x0110 ≤ unit ∧ unit < 0x0118 then 0x0100 + (unit - 0x0110) / 2 else 0x0100

/-- TEL_READ (R418 to R424), with the management messages that it takes (R414). -/
def execTelRead (h : PktHead) (unit first count : Nat) (s : State) : Host.Outcome State Fault Refusal :=
  s.mgmtCommand h 0x0701 (if 1 ≤ count ∧ count ≤ 56 then ceilDiv (32 + 8 * count) 64 else 1) (dieNoc unit) fun s =>
    if count = 0 ∨ 56 < count then refuse .paramRange s
    else
      match s.unitKind unit with
      | none => refuse .telRange s
      | some k =>
        if (if k = .module then 10 else 15) < first + count - 1 then refuse .telRange s
        else
          let r := s.accrue.readings k unit first count
          (.ok, r.1, r.2)

/-! ## The host cap (R455) -/

/-- m°C as °C x 8. -/
def eighths (t : Int) : Int := t * 8 / 1000

/-- The lowest step of any island. -/
def State.lowestStep (s : State) : Nat := islandUnits.foldl (fun m u => min m (s.islandStep u)) 125

/-- Is a thermal limit acting? -/
def State.thermalActing (s : State) : Bool := s.power.thermSteps.any fun t => decide (t.2 < 125)

/-- PWR_CAP_SET (R26, R455). -/
def execPwrCapSet (h : PktHead) (cap : Nat) (s : State) : Host.Outcome State Fault Refusal :=
  s.command h 0x0901 1 fun s =>
    guarded [(!decide (1200 ≤ cap ∧ cap ≤ 1800), .powerRange)] s fun s => (.ok, [], { s with power := { s.power with cap := cap } })

/-- PWR_QUERY (R455). -/
def execPwrQuery (h : PktHead) (s : State) : Host.Outcome State Fault Refusal :=
  s.command h 0x0902 1 fun s =>
    let free := s.freeReading.2.freeReading
    let hot : (Nat × Nat) × State := match s.hotUnit with
      | some x => ((x.1, uInt 16 (eighths x.2)), s)
      | none => ((s.freeReading.1, free.1), free.2)
    let flags := b2n (decide (s.power.step < 125)) + 2 * b2n s.thermalActing
      + 4 * b2n (!decide (54000 ≤ s.power.vinMv ∧ s.power.vinMv ≤ 62000))
    (.ok, leBytes 2 s.power.cap ++ leBytes 2 s.powerLimit ++ leBytes 4 (s.power.pin1sMw / 1000) ++ leBytes 1 s.power.step
      ++ leBytes 1 s.lowestStep ++ leBytes 2 hot.1.1 ++ leBytes 2 hot.1.2 ++ leBytes 1 flags ++ zeros 1, hot.2)

/-! ## The governor (R454) -/

/-- Do the islands run: inputs good, no shutdown? -/
def State.powered (s : State) : Bool := s.power.pwrGood

/-- GOVERNOR_TICK (R454): above the limit the common step falls at once; after 1 ms (100 ticks) below 0.97 of it, it rises by one where
no thermal limit holds a governed island lower. -/
def execGovernorTick (pin pin1s : Nat) (s : State) : Host.Outcome State Fault Refusal :=
  done <|
    if !s.powered then s
    else
      let lim := s.powerLimit * 1000
      let n := s.power.step
      let low := if 100 * pin < 97 * lim then s.power.low + 1 else 0
      let held := s.power.thermSteps.any fun t => governed t.1 && decide (t.2 < n)
      let s := { s with power := { s.power with pinMw := pin, pin1sMw := pin1s, low := low, energy := s.power.energy + pin } }
      if lim < pin then
        let s := s.accrue
        { s with power := { s.power with step := max 30 (n * lim / pin - 1), low := 0 } }
      else if 100 ≤ low ∧ n < 125 ∧ !held then
        let s := s.accrue
        { s with power := { s.power with step := n + 1 } }
      else s

/-! ## What a reset leaves (R452, R463) -/

/-- The intent that an interrupted store leaves open (R430): of the copy to the active image its own, which INSTALL alone ends; else the one that was open
before it (R442). -/
def FlashStore.interrupted (st : FlashStore) : Option Intent :=
  let own : Intent := { kind := st.kind, target := st.base }
  if st.kind = .copyActive then some own else st.left.or (some own)

/-- Every island in reset, of either kind: registers and windows at their reset values, nothing of a context or a reply left; flash, fuses,
configuration store, an open intent, the management domain, the verdicts that the CP keeps until power-down (R115) and the model's own
fields stay. -/
def State.toReset (s : State) : State :=
  let z := State.reset
  let interrupted := match s.fw.store with | some f => f.interrupted | none => s.fw.intent
  { z with
    ident := s.ident, cfgCur := s.cfgCur, cfgPend := s.cfgPend, mirror := s.mirror, mem := s.mem, poison := s.poison, hwPoison := s.hwPoison,
    monoCache := s.monoCache, freeCtr := s.freeCtr, pending := s.pending,
    ports := (List.range 16).map fun p => Port.reset (decide (p < s.ident.order.ports)),
    power := { s.power with
      cap := 1800, step := 125, thermSteps := [], low := 0, capNs := 0, energy := 0, since := 0, posted := [], vinPosted := [], alarm := none },
    fw := { s.fw with
      intent := interrupted, store := none, waiting := [], stgEnd := 0, stgFresh := true, running := none, sched := none,
      schedDecided := false, copying := false, log := [], attKey := 0, shadow := [], loaded := false, fuses := [] },
    recw := { z.recw with cause := s.recw.cause, restart := s.recw.restart } }

/-! ## Thermal limits (R456, R457) -/

/-- Warning, throttle (none for the cold plate) and shutdown limits in m°C (R456). -/
def limitsOf : SensorKind → List (Nat × Int)
  | .junction => [(0, 95000), (1, 105000), (2, 115000)]
  | .hbm => [(0, 85000), (1, 95000), (2, 105000)]
  | .lpddr => [(0, 85000), (1, 95000), (2, 105000)]
  | .conversion => [(0, 105000), (1, 115000), (2, 125000)]
  | .coldPlate => [(0, 50000), (2, 70000)]

/-- The throttle limit. -/
def throttleOf (k : SensorKind) : Option Int := ((limitsOf k).find? fun l => l.1 == 1).map Prod.snd

/-- The islands that a sensor controls (R456). -/
def controlled (k : SensorKind) (unit : Nat) : List Nat :=
  match k with
  | .junction =>
    if unit < 192 then (List.range 48).map (· + unit / 48 * 48)
    else if unit < 0x0104 then unit :: (List.range 48).map (· + (unit - 0x0100) * 48)
    else [unit]
  | .hbm => [unit]
  | .lpddr => [unit]
  | .conversion => islandUnits.filter governed
  | .coldPlate => []

/-- Post a crossing unless the limit was crossed within the last 100 ms (R423). -/
def State.thermalPost (s : State) (k : SensorKind) (unit lim : Nat) (t : Int) : State :=
  let key := (k, unit, lim)
  let recent := s.power.posted.any fun p => p.1 == key && decide (s.refCount < p.2 + 100000000)
  if recent then s
  else
    let s := { s with power := { s.power with posted := (key, s.refCount) :: s.power.posted.filter fun p => p.1 != key } }
    s.post 0x0701 noCtx (leBytes 2 unit ++ leBytes 2 (uInt 16 (eighths t)) ++ leBytes 1 lim)

/-- Take one sample: readings, and an event for each limit that it crosses upward. -/
def State.sample1 (s : State) (x : Sample) : State :=
  let old := s.tempOf x.kind x.unit
  let k := x.unit * 0x10000 + 1
  let top : KV Nat := match kvGet k s.tel with
    | some w => if sInt 64 w < x.temp then kvSet k (word64 x.temp) s.tel else s.tel
    | none => kvSet k (word64 x.temp) s.tel
  let s := { s with tel := top,
                    power := { s.power with temps := ((x.kind, x.unit), x.temp) :: s.power.temps.filter fun t => t.1 != (x.kind, x.unit) } }
  (limitsOf x.kind).foldl (fun s l =>
    let below : Bool := match old with | none => true | some o => decide (o < l.2)
    if below && decide (l.2 ≤ x.temp) then s.thermalPost x.kind x.unit l.1 x.temp else s) s

/-- Set an island's thermal step. -/
def State.setTherm (s : State) (unit n : Nat) : State :=
  { s with power := { s.power with thermSteps := if n ≥ 125 then kvDel unit s.power.thermSteps else kvSet unit n s.power.thermSteps } }

/-- A thermal shutdown (R457): THERM_N low, every rail off but the management domain's, an abrupt reset; the mirror shows it halted. -/
def State.thermalShutdown (s : State) : State :=
  let t := s.toReset
  { t with power := { t.power with pwrGood := false, thermN := false }, mirror := { t.mirror with state := 2 }, monoCache := [] }

/-- THERMAL_SAMPLE (R422, R423, R456, R457). -/
def execThermalSample (xs : List Sample) (s : State) : Host.Outcome State Fault Refusal :=
  done <|
    let s := if s.powered then s.accrue else s
    let s := xs.foldl State.sample1 s
    if !s.powered then s
    else if xs.any fun x => (limitsOf x.kind).any fun l => l.1 == 2 && decide (l.2 ≤ x.temp) then s.thermalShutdown
    else
      let hot := (xs.filter fun x => match throttleOf x.kind with | some l => decide (l ≤ x.temp) | none => false).flatMap fun x =>
        controlled x.kind x.unit
      hot.dedup.foldl (fun s u => s.setTherm u (max 30 (kvGetD u s.power.thermSteps 125 - 1))) s

/-- THERMAL_STEP_UP (R456): the sensor is 5 °C below its limit, and so is every other that controls the island. -/
def execThermalStepUp (k : SensorKind) (unit : Nat) (s : State) : Host.Outcome State Fault Refusal :=
  done <|
    let cool (k : SensorKind) (t : Int) : Bool := match throttleOf k with | some l => decide (t + 5000 ≤ l) | none => true
    match s.tempOf k unit with
    | none => s
    | some t =>
      if !s.powered || !cool k t then s
      else
        let s := s.accrue
        (controlled k unit).foldl (fun s u =>
          if s.power.temps.all fun z => !(controlled z.1.1 z.1.2).contains u || cool z.1.1 z.2 then
            s.setTherm u (kvGetD u s.power.thermSteps 125 + 1)
          else s) s

/-! ## Input voltage (R449, R450) -/

/-- Post an EV_POWER_INPUT unless its kind was posted within the last 100 ms (R423). -/
def State.vinPost (s : State) (kind : Nat) : State :=
  if (match kvGet kind s.power.vinPosted with | some t => decide (s.refCount < t + 100000000) | none => false) then s
  else
    let s := { s with power := { s.power with vinPosted := kvSet kind s.refCount s.power.vinPosted } }
    s.post 0x0901 noCtx (leBytes 4 s.power.vinMv ++ leBytes 1 kind)

/-- A voltage that has held for its qualification time (R431, R450): whether a store may begin, and the events: each crossing of 54 V or 62 V,
and the return to 54.5-61.5 V after one. -/
def State.inputVoltage (s : State) (mv : Nat) : State :=
  let inside := decide (54000 ≤ mv ∧ mv ≤ 62000)
  let was := s.power.vinMv
  let s := { s with power := { s.power with vinMv := mv, stable := inside } }
  if !s.powered then s
  else if mv < 54000 then
    if s.power.alarm = some 0 ∧ was < 54000 then s else ({ s with power := { s.power with alarm := some 0 } } : State).vinPost 0
  else if 62000 < mv then
    if s.power.alarm = some 1 ∧ 62000 < was then s else ({ s with power := { s.power with alarm := some 1 } } : State).vinPost 1
  else if s.power.alarm.isSome && decide (54500 ≤ mv ∧ mv ≤ 61500) then
    ({ s with power := { s.power with alarm := none } } : State).vinPost 2
  else s

/-- INPUT_SHUTDOWN (R449, R452): the input is below its shutdown level or above its maximum; PWR_GOOD falls, an abrupt reset. Without
the auxiliary input the management domain is off too. -/
def execInputShutdown (aux : Bool) (mv : Nat) (s : State) : Host.Outcome State Fault Refusal :=
  done <|
    let bad := if aux then decide (mv < 10800) || decide (13500 < mv) else decide (mv < 50000) || decide (66000 < mv)
    if !bad then s
    else
      let t := { s.toReset with monoCache := [] }
      let p := { t.power with pwrGood := false, stable := false }
      if aux then { t with power := { p with auxOk := false, straps := 0, i2cOut := [], i2cBuf := [] }, mirror := State.reset.mirror }
      else { t with power := { p with busOk := false, vinMv := mv } }

/-- Every sensor reads below its warning limit (R457). -/
def State.coolEnough (s : State) : Bool :=
  s.power.temps.all fun t => (limitsOf t.1.1).all fun l => l.1 != 0 || decide (t.2 < l.2)

/-- Rails ramp with both inputs in range, after a thermal shutdown only once every sensor is below its warning limit (R451, R457). -/
def State.railsUp (s : State) : State :=
  if s.power.auxOk && s.power.busOk && !s.power.pwrGood && (s.power.thermN || s.coolEnough) then
    { s with power := { s.power with pwrGood := true, thermN := true } }
  else s

/-- AUX_POWER_UP (R451 step 1, R461): the management domain is powered, the straps are sampled, the mirror answers with state 0. -/
def execAuxPowerUp (straps : Nat) (s : State) : Host.Outcome State Fault Refusal :=
  done <|
    if s.power.auxOk then s
    else
      let t := { s with power := { s.power with auxOk := true, straps := straps % 8 }, mirror := { State.reset.mirror with cls := s.ident.cls % 65536 } }
      t.railsUp

/-- BUSBAR_POWER_UP (R451 steps 2 and 3): the voltage reads within its operating range, where is free (log 40). -/
def execBusbarPowerUp (s : State) : Host.Outcome State Fault Refusal :=
  done <|
    if s.power.busOk then s
    else
      let r := s.fresh
      ({ r.2 with power := { r.2.power with busOk := true, vinMv := 54000 + r.1.toNat % 8001 } } : State).railsUp

/-! ## The telemetry mirror (R425, R461) -/

/-- `MR_STATE`: 2 in a halt or a thermal shutdown, 3 in recovery mode, 1 running, else starting. -/
def State.mirrorState (s : State) : Nat :=
  if s.halted || !s.power.thermN then 2 else if s.hi.bootStage = 2 then 3 else if s.hi.bootStage = 4 then 1 else 0

/-- The highest of the temperatures, zero where none has been read. -/
def hottest : List Int → Int
  | [] => 0
  | t :: l => l.foldl max t

/-- The hottest junction sensor of a compute die (0 to 3) with its two HBM controllers (R171), or of the hub die (4) with its LPDDR5X controllers
and ports. -/
def State.dieTemp (s : State) (d : Nat) : Int :=
  let mine := if d < 4 then (List.range 48).map (· + 48 * d) ++ [0x0100 + d, 0x0110 + 2 * d, 0x0111 + 2 * d]
    else [0x0140, 0x0141, 0x0142] ++ (List.range 16).map (· + 0x0130) ++ (List.range 4).map (· + 0x0120)
  hottest ((s.power.temps.filter fun t => t.1.1 == .junction && mine.contains t.1.2).map Prod.snd)

/-- TELEMETRY_MIRROR_REFRESH (R425). -/
def execTelemetryMirrorRefresh (s : State) : Host.Outcome State Fault Refusal :=
  done <|
    if !s.power.auxOk then s
    else
      let hot := hottest (s.power.temps.map Prod.snd)
      let cold := (s.power.temps.find? fun t => t.1.1 == .coldPlate).map Prod.snd
      let flags := b2n (decide (s.power.step < 125)) + 2 * b2n s.thermalActing + 4 * b2n (s.ports.any fun p => p.state == 4)
        + 8 * b2n s.linkLost
      { s with mirror := {
          state := s.mirrorState, cls := s.ident.cls % 65536, vin := s.power.vinMv / 10, pin := s.power.pin1sMw / 1000,
          limit := s.powerLimit, tempMax := uInt 16 (eighths hot), tempDie := (List.range 5).map fun d => uInt 16 (eighths (s.dieTemp d)),
          coldPlate := uInt 16 (eighths (cold.getD 0)), flags := flags } }

/-- The mirror's bytes by offset (R425). -/
def Mirror.bytes (m : Mirror) : List Byte :=
  leBytes 2 m.state ++ leBytes 2 m.cls ++ leBytes 2 m.vin ++ leBytes 2 m.pin ++ leBytes 2 m.limit ++ leBytes 2 m.tempMax
    ++ m.tempDie.flatMap (leBytes 2) ++ leBytes 2 m.coldPlate ++ leBytes 2 m.flags

/-- ALERT_N is low while any of `MR_FLAGS` [3:0] is set (R460). -/
def State.alertN (s : State) : Bool := s.mirror.flags % 16 == 0

/-- I2C_MIRROR_READ (R425, R461): at 0x58 + ADDR while the auxiliary input is in range; writes are ignored. -/
def execI2cMirrorRead (addr offset len : Nat) (write : Bool) (s : State) : Host.Outcome State Fault Refusal :=
  done <|
    if !s.power.auxOk || addr != 0x58 + s.power.straps || write then s
    else { s with power := { s.power with i2cOut := slice s.mirror.bytes offset len } }

end Sys2Proof.Machine
end

