-- ==== Sys2Proof/Machine/Firmware.lean ====
section
/-! DEFINITION. Firmware, recovery and identity (19_firmware R426 to R448), persistent configuration (15 R360), resets and the start
sequence (20_power R451 and R452). -/
namespace Sys2Proof.Machine

/-! One declaration after another, so that the check's memory is not shared among many threads. -/
set_option Elab.async false

/-! ## The flash (R426) -/

def actMark : Nat := 0x0E00_0000
def stgBase : Nat := 0x1000_0000
def stgMark : Nat := 0x1E00_0000
def pendRec : Nat := 0x1E00_1000
def cfgStore : Nat := 0x0E01_1000
def intentLog : Nat := 0x0E03_1000
/-- 224 MiB. -/
def imageArea : Nat := 0x0E00_0000

/-- Bytes of the flash. -/
def Firmware.bytes (f : Firmware) (a n : Nat) : List Byte := cellsRead f.flash a n

/-- A little-endian field of the flash. -/
def Firmware.num (f : Firmware) (a n : Nat) : Nat := leNat (f.bytes a n)

/-- Erase a range. -/
def Firmware.erase (f : Firmware) (a n : Nat) : Firmware :=
  { f with flash := f.flash.filter fun c => !decide (a ≤ c.1 ∧ c.1 < a + n) }

/-- Program bytes. -/
def Firmware.program (f : Firmware) (a : Nat) (l : List Byte) : Firmware := { f with flash := cellsWrite f.flash a l }

/-- A digest's 32 bytes. -/
def digestBytes (d : BitVec 256) : List Byte := leBytes 32 d.toNat

/-- A commit marker (R426). -/
def markerBytes (digest : BitVec 256) (bytes : Nat) : List Byte :=
  let b := padTo 60 (leBytes 4 0x4B52_4D43 ++ digestBytes digest ++ leBytes 4 bytes)
  b ++ leBytes 4 (crc32c b)

/-- The digest of a marker whose magic and CRC hold (R426). -/
def Firmware.marker (f : Firmware) (a : Nat) : Option (BitVec 256) :=
  let b := f.bytes a 60
  if field b 0 4 = 0x4B52_4D43 ∧ f.num (a + 60) 4 = crc32c b then some (BitVec.ofNat 256 (field b 4 32)) else none

/-- A list of exactly `n` bytes. -/
def exactly (n : Nat) (l : List Byte) : List Byte := padTo n (l.take n)

/-- Bytes with their CRC-32C behind them, `n` in all. -/
def sealed (n : Nat) (l : List Byte) : List Byte := let b := exactly (n - 4) l; b ++ leBytes 4 (crc32c b)

/-- Codes of store kinds, as EV_FW_STORE_FAIL and `REC_INTENT` give them (log 41). -/
def StoreKind.code : StoreKind → Nat
  | .staging => 1 | .stagingMark => 2 | .pendingAct => 3 | .config => 4 | .copyActive => 5 | .fuse => 6

/-! ## The intent log (R430; its record's layout: log 128) -/

/-- Write a record: 1 intent, 2 completion, 3 completion as failed. The two sectors of 1,024 records are used alternately; each is erased as it is
entered. -/
def Firmware.record (f : Firmware) (type : Nat) (t : Intent) : Firmware :=
  let n := f.logSeq
  let f := if n % 1024 = 0 then f.erase (intentLog + n % 2048 * 64) 65536 else f
  { f.program (intentLog + n % 2048 * 64)
      (sealed 64 (leBytes 8 n ++ leBytes 1 type ++ leBytes 1 t.kind.code ++ zeros 2 ++ leBytes 4 t.target)) with logSeq := n + 1 }

/-! ## The configuration store (R426, R448; its layout: log 128) -/

/-- The older copy, which the next store writes. -/
def Firmware.cfgBase (f : Firmware) : Nat := cfgStore + (f.cfgSeq + 1) % 2 * 65536

/-- A copy: sequence number, keys 1 to 4 current and pending, journal chain head and count, boot count, CRC-32C. -/
def State.cfgBytes (s : State) : List Byte :=
  sealed 128 (leBytes 8 (s.fw.cfgSeq + 1) ++ (s.cfgCur.take 4).flatMap (leBytes 4) ++ (s.cfgPend.take 4).flatMap (leBytes 4)
    ++ leBytes 16 s.fw.chain.toNat ++ leBytes 8 s.fw.count ++ leBytes 4 s.fw.boots)

/-- Write the older copy. -/
def State.cfgWrite (s : State) : State :=
  { s with fw := { (s.fw.erase s.fw.cfgBase 65536).program s.fw.cfgBase s.cfgBytes with cfgSeq := s.fw.cfgSeq + 1 } }

/-- The copy at an address, if its CRC holds. -/
def Firmware.cfgCopy (f : Firmware) (a : Nat) : Option (List Byte) :=
  let b := f.bytes a 124
  if f.num (a + 124) 4 = crc32c b then some b else none

/-- The valid copy with the higher number. -/
def Firmware.cfgNewest (f : Firmware) : Option (List Byte) :=
  match f.cfgCopy cfgStore, f.cfgCopy (cfgStore + 65536) with
  | some x, some y => some (if field x 0 8 < field y 0 8 then y else x)
  | some x, none => some x
  | none, y => y

/-- A start takes the configuration, the journal's chain and the boot count from it. -/
def State.cfgLoad (s : State) : State :=
  match s.fw.cfgNewest with
  | none => s
  | some b =>
    { s with
      cfgCur := (List.range 4).map (fun k => field b (8 + 4 * k) 4) ++ s.cfgCur.drop 4
      cfgPend := (List.range 4).map (fun k => field b (24 + 4 * k) 4) ++ s.cfgPend.drop 4
      fw := { s.fw with cfgSeq := field b 0 8, chain := BitVec.ofNat 128 (field b 40 16), count := field b 56 8, boots := field b 64 4 } }

/-- A persistent change: its journal entry, and the chain in the configuration store with it (R448). -/
def State.journalStored (s : State) (code : Nat) (payload : List Byte) : State := (s.journal code true noCtx payload).cfgWrite

/-! ## The manifest (R428, R429) -/

/-- The signature's length. -/
def sigBytes : Nat := 29792

/-- The component entry of index `i` in an image at `a`: kind, SVN, floor, offset, size, digest. -/
def Firmware.comp (f : Firmware) (a i : Nat) : Nat × Nat × Nat × Nat × Nat × BitVec 256 :=
  let o := a + 128 + 64 * i
  (f.num o 1, f.num (o + 1) 1, f.num (o + 2) 1, f.num (o + 4) 4, f.num (o + 8) 4, BitVec.ofNat 256 (f.num (o + 24) 32))

/-- What the manifest of an image says (R428). -/
def Firmware.manifest (f : Firmware) (a : Nat) : Manifest :=
  { cls := f.num (a + 8) 4, stateFmt := f.num (a + 12) 4, release := f.num (a + 16) 8, bytes := f.num (a + 24) 4,
    revoke := f.num (a + 30) 1 % 16,
    comps := (List.range 6).map fun i => let c := f.comp a i; (c.1, c.2.1, c.2.2.1, c.2.2.2.2.2),
    digest := Config.shake256 (f.bytes a 512) }

/-- Check 1 of R429: magic, format, size, kinds, bodies, reserved bytes. -/
def Firmware.formatOk (f : Firmware) (a : Nat) : Bool :=
  let n := f.num (a + 24) 4
  let cs := (List.range 6).map (f.comp a)
  let bodies := cs.map fun c => (c.2.2.2.1, c.2.2.2.2.1)
  f.num a 4 == 0x5A4E_4D46 && f.num (a + 4) 4 == 1 && decide (512 + sigBytes ≤ n ∧ n ≤ imageArea) && f.num (a + 28) 2 == 6
    && [1, 2, 3, 4, 5, 6].all (fun k => (cs.filter fun c => c.1 == k).length == 1)
    && bodies.all (fun b => b.1 % 4096 == 0 && decide (512 ≤ b.1 ∧ b.1 + b.2 + sigBytes ≤ n))
    && ((List.range 6).all fun i => (List.range 6).all fun j =>
      decide (i ≥ j) || !meetAny [bodies.getD i (0, 0)] [bodies.getD j (0, 0)])
    && f.num (a + 30) 1 < 16 && f.num (a + 31) 1 == 0 && f.num (a + 96) 32 == 0
    && (List.range 6).all fun i => let o := a + 128 + 64 * i
      f.num (o + 3) 1 == 0 && f.num (o + 12) 4 == 0 && f.num (o + 56) 8 == 0

/-- The checks of R429 in order; the status that FW_STAGE_COMMIT gives the first failure. -/
def Firmware.verify (f : Firmware) (a : Nat) : Except Status Manifest :=
  let n := f.num (a + 24) 4
  let pub := f.bytes (a + 32) 64
  let m := f.manifest a
  if !f.formatOk a then .error .fwFormat
  else if !((List.range 4).any fun i => f.fzKey.getD i 0 == Config.shake256 pub && !bitOf f.fzRevoke i && !bitOf m.revoke i) then
    .error .fwSignature
  else if !Config.slhVerify pub (f.bytes a (n - sigBytes)) (f.bytes (a + n - sigBytes) sigBytes) then .error .fwSignature
  else if !((List.range 6).all fun i => let c := f.comp a i
      Config.shake256 (f.bytes (a + c.2.2.2.1) c.2.2.2.2.1) == c.2.2.2.2.2) then .error .fwSignature
  else if !(m.comps.all fun c => decide (nth f.fzSvn (c.1 - 1) ≤ c.2.1 ∧ c.2.1 ≤ 64)) then .error .fwSvn
  else .ok m

/-! ## Stores (R430 to R432) -/

/-- Opcodes of the commands that the security engine executes, and of CFG_SET, whose store it makes. -/
def SecCmd.opcode : SecCmd → Nat
  | .stageWrite .. => 0x0801 | .stageCommit => 0x0802 | .activate .. => 0x0803 | .quote .. => 0x0810 | .ident _ => 0x0811 | .cfgSet .. => 0x0230

/-- Is an activation scheduled (R433): a pending-activation record, or a ring step? -/
def Firmware.scheduled (f : Firmware) : Bool := f.pendingAct.isSome || f.sched.isSome

/-- Begin a store (R430): its intent is in the log, and what it erases is erased. A staging store takes the commit back (R434), the copy to the active
image first erases `ACT_MARK`, then the area (R436). -/
def State.storeBegin (s : State) (st : FlashStore) : State :=
  let t : Intent := { kind := st.kind, target := st.base }
  let f := s.fw.record 1 t
  let f := match st.erase with | some r => f.erase r.1 r.2 | none => f
  { s with fw := { f with intent := some t, store := some st, staged := if st.kind = .staging then none else f.staged } }

/-- The copy to the active image (R436). -/
def copyStore (owner : StoreOwner) (left : Option Intent) : FlashStore :=
  { kind := .copyActive, owner := owner, base := 0, erase := some (0, imageArea + 4096), data := [], cmd := none, left := left }

/-- The stores that no command waits for, each once the input is stable and no store is in progress (R431): the copy behind a calm point (R439 step 7),
whose chain value is stored as it begins (log 128), and the fuse programs of R440. -/
def State.bgRun (s : State) : State :=
  if s.fw.store.isSome || !s.power.stable || s.hi.bootStage != 4 then s
  else if s.fw.copying then s.cfgWrite.storeBegin (copyStore .background none)
  else
    match s.fw.fuses with
    | [] => s
    | x :: t => ({ s with fw := { s.fw with fuses := t } } : State).storeBegin
        { kind := .fuse, owner := .background, base := x.1, erase := none, data := [], cmd := none, fuse := some x }

/-- An ordered reset takes place once its reply is visible and no store is in progress (R452); a halt that came first stands (R415). -/
def State.orderedReset (s : State) : State :=
  if s.resetDue && !s.halted && s.fw.store.isNone && !(s.held.any fun r => r.opcode == 0x0820) then s.toReset else s

/-- Journal payload bytes 16 to 31: a digest's first 16. -/
def digest16 (d : BitVec 256) : List Byte := leBytes 16 d.toNat

/-! ## Identity (R443 to R446) -/

/-- The identity certificate, as the flash holds it (R426, R443). -/
def Firmware.identCert (f : Firmware) : List Byte := f.bytes identArea 29920

/-- The attestation key certificate (R444). -/
def State.attCert (s : State) : List Byte :=
  let b := padTo 128 (leBytes 4 0x5A4E_414B ++ leBytes 4 s.fw.boots ++ exactly 64 (Config.attestKey s.fw.attKey)
    ++ digestBytes ((s.fw.running.map Manifest.digest).getD 0))
  b ++ exactly sigBytes (Config.slhSign s.fw.fzIdKey b)

/-- A measurement log entry's 64 bytes (R445). -/
def LogEntry.bytes (e : LogEntry) : List Byte :=
  padTo 64 (leBytes 2 e.kind ++ zeros 2 ++ leBytes 4 e.value ++ zeros 8 ++ digestBytes e.digest)

/-- The quote (R446). -/
def State.quoteBytes (s : State) (nonce : BitVec 256) : List Byte :=
  let log := s.fw.log.flatMap LogEntry.bytes
  let b := padTo 128 (leBytes 4 0x5A4E_5154 ++ leBytes 4 ((s.fw.running.map Manifest.cls).getD 0) ++ digestBytes nonce
      ++ leBytes 2 (if s.vl.valid then s.vl.moduleId else 0xFFFF) ++ zeros 2 ++ leBytes 4 s.fw.boots
      ++ digestBytes (Config.shake256 log) ++ leBytes 16 s.fw.chain.toNat ++ leBytes 8 s.fw.count ++ leBytes 8 s.refCount
      ++ leBytes 4 s.fw.log.length) ++ log
  b ++ exactly 49856 (Config.attestSign s.fw.attKey b)

/-- Does a destination of `n` bytes lie in the host window? -/
def State.inHost (s : State) (a n : Nat) : Bool := s.region a = .host && s.region (a + n - 1) = .host

/-! ## The security engine's commands (R432 to R437) -/

/-- A host command of the engine ends. -/
def State.secReply (s : State) (h : PktHead) (c : SecCmd) (st : Status) : State := s.replyWrite h c.opcode 1 st []

/-- A store for a host command: refused where the input is not stable (R431). -/
def State.secStore (s : State) (h : PktHead) (c : SecCmd) (kind : StoreKind) (base : Nat) (erase : Option (Nat × Nat)) (l : List Byte) : State :=
  if !s.power.stable then s.secReply h c .fwPower
  else s.storeBegin { kind := kind, owner := .host h s.refCount c.opcode, base := base, erase := erase, data := l, cmd := some c }

/-- What refuses a write to the staging image (R433). -/
def Firmware.stageRefuse (f : Firmware) (offset n : Nat) : Option Status :=
  if f.scheduled then some .fwBusy
  else if imageArea < offset + n ∨ (!f.stgFresh ∧ offset < f.stgEnd) then some .fwStaging
  else none

/-- The erasure that a write brings: the marker and the image area, on the first after a start or a commit (R433). -/
def Firmware.stageErase (f : Firmware) : Option (Nat × Nat) := if f.stgFresh then some (stgBase, imageArea + 4096) else none

/-- The staged components' bodies by kind, the shadow of R437. -/
def Firmware.bodies (f : Firmware) : List (Nat × List Byte) :=
  (List.range 6).map fun i => let c := f.comp stgBase i; (c.1, f.bytes (stgBase + c.2.2.2.1) c.2.2.2.2.1)

/-- Do the shadow's digests match its manifest (R437, R439)? -/
def shadowOk (l : List (Nat × List Byte)) (m : Manifest) : Bool :=
  m.comps.all fun c => l.any fun b => b.1 == c.1 && Config.shake256 b.2 == c.2.2.2

/-- Ring-step activation (R437): the shadow is made and checked; the spec names no status for a digest that does not match, the model's is that of
check 4 (log 130). -/
def State.ringActivate (s : State) (tag step : Nat) : Status × State :=
  if s.fw.scheduled then (.fwBusy, s)
  else if !(s.trade.any fun g => g.1 % 2 ^ 32 == tag) then (.tradeNoRing, s)
  else
    match s.fw.staged with
    | none => (.fwStaging, s)
    | some m =>
      if some m.cls ≠ s.fw.running.map Manifest.cls ∨ some m.stateFmt ≠ s.fw.running.map Manifest.stateFmt then (.fwFormat, s)
      else if 64 < s.fw.log.length + 7 then (.fwBusy, s)
      else if !shadowOk s.fw.bodies m then (.fwSignature, s)
      else
        let s := { s with fw := { s.fw with sched := some (tag, step), schedDecided := false, shadow := s.fw.bodies } }
        (.ok, s.journal 0x0004 false noCtx (leBytes 1 1 ++ zeros 3 ++ leBytes 4 tag ++ leBytes 8 step))

/-- A CFG_SET that stored nothing (R360, R376): its key is again what it was, where no later CFG_SET of the key waits, else that one finds it so. -/
def State.cfgRevert (s : State) (key old : Nat) : State :=
  let same (w : PktHead × Nat × SecCmd) : Bool := match w.2.2 with | .cfgSet k _ _ => k == key | _ => false
  match s.fw.waiting.findIdx? same with
  | none => { s with cfgPend := s.cfgPend.set (key - 1) old }
  | some i =>
    { s with fw := { s.fw with waiting := s.fw.waiting.modify i fun w => match w.2.2 with
      | .cfgSet k _ v => (w.1, w.2.1, .cfgSet k old v)
      | _ => w } }

/-- The engine takes up one command: it ends, or its store begins. -/
def State.secRun (s : State) (h : PktHead) (c : SecCmd) : State :=
  match c with
  | .stageWrite offset data =>
    (match s.fw.stageRefuse offset data.length with
     | some st => s.secReply h c st
     | none => s.secStore h c .staging (stgBase + offset) s.fw.stageErase data)
  | .stageCommit =>
    if s.fw.scheduled then s.secReply h c .fwBusy
    else
      match s.fw.verify stgBase with
      | .error st => s.secReply h c st
      | .ok m => s.secStore h c .stagingMark stgMark none (markerBytes m.digest m.bytes)
  | .activate mode tag step =>
    if mode = 1 then
      let r := s.ringActivate tag step
      r.2.secReply h c r.1
    else if s.fw.scheduled then s.secReply h c .fwBusy
    else
      match s.fw.staged with
      | none => s.secReply h c .fwStaging
      | some m => s.secStore h c .pendingAct pendRec none (digestBytes m.digest)
  | .quote nonce dest =>
    let q := s.quoteBytes nonce
    if s.inHost dest (128 + 64 * s.fw.log.length + 49856) then (s.physWrite dest q).secReply h c .ok else s.secReply h c .paramRange
  | .ident dest =>
    if s.inHost dest 59840 then (s.physWrite dest (s.fw.identCert ++ s.attCert)).secReply h c .ok else s.secReply h c .paramRange
  | .cfgSet key old _ =>
    if !s.power.stable then
      (s.cfgRevert key old).secReply h c .fwPower
    else s.storeBegin { kind := .config, owner := .host h s.refCount c.opcode, base := s.fw.cfgBase,
                          erase := some (s.fw.cfgBase, 65536), data := [], cmd := some c }

/-- Take up waiting commands in order while no store is in progress (R432). -/
def State.secDrain : Nat → State → State
  | 0, s => s
  | n + 1, s =>
    if s.fw.store.isSome then s
    else
      match s.fw.waiting with
      | [] => s
      | w :: t => State.secDrain n (({ s with fw := { s.fw with waiting := t } } : State).secRun w.1 w.2.2)

/-- A command reaches the engine in commit-point order (R432). -/
def State.secSubmit (s : State) (h : PktHead) (c : SecCmd) : State :=
  let s := { s with fw := { s.fw with waiting := s.fw.waiting ++ [(h, s.refCount, c)] } }
  State.secDrain (s.fw.waiting.length) s

/-- FW_STAGE_WRITE (R433). -/
def execFwStageWrite (h : PktHead) (offset : Nat) (data : List Byte) (s : State) : Host.Outcome State Fault Refusal :=
  .next <| s.commit h 0x0801 1 fun s =>
    if data.length % 64 ≠ 0 ∨ data.length < 64 ∨ 4032 < data.length then s.replyWrite h 0x0801 1 .paramRange []
    else s.secSubmit h (.stageWrite offset data)

/-- FW_STAGE_COMMIT (R434). -/
def execFwStageCommit (h : PktHead) (s : State) : Host.Outcome State Fault Refusal :=
  .next <| s.commit h 0x0802 1 fun s => s.secSubmit h .stageCommit

/-- FW_ACTIVATE (R436, R437). -/
def execFwActivate (h : PktHead) (mode tag step : Nat) (s : State) : Host.Outcome State Fault Refusal :=
  .next <| s.commit h 0x0803 1 fun s => s.secSubmit h (.activate mode tag step)

/-- ATTEST_QUOTE (R446). -/
def execAttestQuote (h : PktHead) (nonce : BitVec 256) (dest : Nat) (s : State) : Host.Outcome State Fault Refusal :=
  .next <| s.commit h 0x0810 1 fun s => s.secSubmit h (.quote nonce dest)

/-- IDENT_READ (R444). -/
def execIdentRead (h : PktHead) (dest : Nat) (s : State) : Host.Outcome State Fault Refusal :=
  .next <| s.commit h 0x0811 1 fun s => s.secSubmit h (.ident dest)

/-- FW_QUERY (R441). -/
def execFwQuery (h : PktHead) (s : State) : Host.Outcome State Fault Refusal :=
  s.command h 0x0804 2 fun s =>
    let f := s.fw
    let dig (m : Option (BitVec 256)) : List Byte := digest16 (m.getD 0)
    let st := b2n f.staged.isSome + 2 * b2n f.pendingAct.isSome + 4 * b2n f.sched.isSome + 8 * b2n f.copying
    let sch := f.sched.getD (0, 0)
    (.ok, dig (f.running.map Manifest.digest) ++ dig (f.marker actMark) ++ dig (f.staged.map Manifest.digest)
      ++ leBytes 8 ((f.running.map Manifest.release).getD 0) ++ leBytes 8 ((f.staged.map Manifest.release).getD 0)
      ++ (List.range 6).flatMap (fun i => leBytes 1 (nth f.fzSvn i)) ++ leBytes 1 st ++ zeros 1 ++ leBytes 4 f.boots
      ++ leBytes 4 sch.1 ++ leBytes 8 sch.2 ++ zeros 8, s)

/-! ## Configuration (R360) -/

/-- Are the persistent values in range together (R170, R199, R340)? -/
def State.cfgOk (s : State) (v : List Nat) : Bool :=
  let d := nth v 0
  d % 2 == 0 && decide (d ≤ 24) && decide (nth v 1 + 24 ≤ s.ident.order.hbm - 4 * d) && nth v 2 % 4 == 0 && decide (nth v 2 ≤ 4 * d)
    && decide (nth v 3 ≤ 256)

/-- CFG_SET (R360): checked against the pending values; a persistent value is pending from here and journalled with its store. -/
def execCfgSet (h : PktHead) (key value : Nat) (s : State) : Host.Outcome State Fault Refusal :=
  .next <| s.commit h 0x0230 1 fun s =>
    if key = 0 ∨ 5 < key then s.replyWrite h 0x0230 1 .cfgKey []
    else if key = 5 then
      if 1000000 < value then s.replyWrite h 0x0230 1 .cfgValue []
      else (({ s with cfgCur := s.cfgCur.set 4 value, cfgPend := s.cfgPend.set 4 value } : State).replyWrite h 0x0230 1 .ok [])
    else
      let v := s.cfgPend.set (key - 1) value
      if !s.cfgOk v then s.replyWrite h 0x0230 1 .cfgValue []
      else ({ s with cfgPend := v } : State).secSubmit h (.cfgSet key (nth s.cfgPend (key - 1)) value)

/-- CFG_GET (R360). -/
def execCfgGet (h : PktHead) (key : Nat) (s : State) : Host.Outcome State Fault Refusal :=
  s.command h 0x0231 1 fun s =>
    guarded [(key == 0 || decide (5 < key), .cfgKey)] s fun s =>
      (.ok, leBytes 4 (nth s.cfgCur (key - 1)) ++ leBytes 4 (nth s.cfgPend (key - 1)), s)

/-! ## Start and recovery (R435, R436, R440, R442, R445) -/

/-- Copy the staging image to the active area, its marker with it, and erase the pending-activation record (R436). -/
def Firmware.copyImage (f : Firmware) : Firmware :=
  let n := f.num (stgBase + 24) 4
  let img := f.bytes stgBase n
  let m := f.manifest stgBase
  let f := ((f.erase 0 (imageArea + 4096)).program 0 img).program actMark (markerBytes m.digest n)
  { f.erase pendRec 4096 with pendingAct := none, active := some m }

/-- Training of the mainband starts (R379): from `HI_RATE_MAX`, where 0 counts as 1. -/
def State.ucieStart (s : State) (again : Bool) : State :=
  let r := max 1 s.hi.rateMax
  { s with hi := { s.hi with train := some { rate := r, fault := false, attempt := 0, highest := r, again := again, started := false } } }

/-- `REC_INTENT`: the kind, and the target in the upper half (log 41). -/
def Intent.shown (t : Intent) : Nat := t.kind.code + 2 ^ 32 * t.target

/-- The boot ROM enters recovery mode (R442). -/
def State.enterRecovery (s : State) (cause : Nat) : State :=
  { s with hi := { s.hi with bootStage := 2 },
           recw := { State.reset.recw with cause := cause, intent := (s.fw.intent.map Intent.shown).getD 0 } }

/-- The fuses' digest (R445): keys, revocations and thermometer codes. -/
def Firmware.fuseDigest (f : Firmware) : BitVec 256 :=
  Config.shake256 (f.fzKey.flatMap digestBytes ++ leBytes 1 f.fzRevoke ++ f.fzSvn.flatMap fun n => leBytes 8 (2 ^ n - 1))

/-- Log entries of kinds 3 to 9 for a manifest (R445). -/
def Manifest.logEntries (m : Manifest) : List LogEntry :=
  { kind := 3, value := m.release, digest := m.digest }
    :: ([1, 2, 3, 4, 5, 6].map fun k => match m.comps.find? fun c => c.1 == k with
      | some c => { kind := 3 + k, value := c.2.1, digest := c.2.2.2 }
      | none => { kind := 3 + k, value := 0, digest := 0 })

/-- The eleven entries of a start (R445). -/
def State.startLog (s : State) (m : Manifest) : List LogEntry :=
  [{ kind := 1, value := 0, digest := Config.bootRomDigest }, { kind := 2, value := 0, digest := s.fw.fuseDigest }] ++ m.logEntries
    ++ [{ kind := 10, value := 0, digest := Config.shake256 ((s.cfgPend.take 4).flatMap (leBytes 4)) },
        { kind := 11, value := 0, digest := Config.shake256 s.fw.identCert }]

/-- The fuse programs that an activated manifest asks for (R440): floors of at most the 64 bits of a code (R427), then revocations. -/
def Firmware.fusesDue (f : Firmware) (m : Manifest) : List (Nat × Nat) :=
  let new := m.revoke &&& (15 - f.fzRevoke % 16)
  (m.comps.map fun c => (c.1, min 64 c.2.2.1)).filter (fun x => decide (nth f.fzSvn (x.1 - 1) < x.2)) ++ if new = 0 then [] else [(0, new)]

/-- A fuse program is made (R440), with its event and journal entry. -/
def State.fuseDone (s : State) (x : Nat × Nat) : State :=
  if x.1 = 0 then
    ({ s with fw := { s.fw with fzRevoke := s.fw.fzRevoke ||| x.2 } } : State).journalStored 0x0007 (zeros 3 ++ leBytes 1 x.2)
  else
    let old := nth s.fw.fzSvn (x.1 - 1)
    let d := leBytes 1 x.1 ++ leBytes 1 old ++ leBytes 1 x.2
    if x.2 ≤ old then s
    else ((({ s with fw := { s.fw with fzSvn := s.fw.fzSvn.set (x.1 - 1) x.2 } } : State).post 0x0804 noCtx d).journalStored 0x0007 (d ++ zeros 1))

/-- `BOOT_STAGE` 4, once training has ended (R435 step 8): the journal queue opens with the entries that waited, the start is journalled, and an
activation's fuses are due. -/
def State.startReady (s : State) : State :=
  let s := { s with hi := { s.hi with bootStage := 4 } }
  let s := s.fw.jwait.foldl (fun s e => { s with jrq := s.jrq.push s.refCount e.1 e.2.1 e.2.2 }) s
  let s := { s with fw := { s.fw with jwait := [] } }
  let s := match s.fw.running with
    | some m => if s.fw.act || s.recw.restart then { s with fw := { s.fw with act := false, fuses := s.fw.fusesDue m } } else s
    | none => s
  let s := s.journal 0x000A false noCtx (leBytes 4 s.fw.boots ++ leBytes 1 s.recw.cause)
  ({ s with recw := State.reset.recw } : State).bgRun

/-- Where a start with no verified image ends (R435, R442). -/
def State.startFail (s : State) (st : Status) : State := s.enterRecovery (if st = .fwSvn then 3 else 2)

/-- The active image, if its marker stands and it verifies (R435 step 5). -/
def Firmware.bootable (f : Firmware) : Except Status Manifest :=
  match f.marker actMark with
  | none => .error .fwFormat
  | some d =>
    match f.verify 0 with
    | .error st => .error st
    | .ok m => if m.digest = d then .ok m else .error .fwSignature

/-- Steps 6 to 8 of the start (R435): the digests hold again, the components run, the key and the log are made, memory is initialised and the
configuration in force; `BOOT_STAGE` 4 follows when UCIe training has ended. -/
def State.startRun (s : State) : State :=
  match s.fw.bootable with
  | .error st => s.startFail st
  | .ok m =>
    let s := { s with hi := { s.hi with bootStage := 3 },
                      fw := { s.fw with running := some m, active := some m, attKey := s.fw.boots, log := s.startLog m },
                      cfgPend := s.cfgPend.take 4 ++ [10000], mem := [], poison := [] }
    let s := { s with cfgCur := s.cfgPend }
    if s.hi.train.isNone then s.startReady else s

/-- Step 5 of the start (R435): the image verifies and the store of the boot count begins. -/
def State.startVerify (s : State) : State :=
  match s.fw.bootable with
  | .error st => s.startFail st
  | .ok _ =>
    if !s.power.stable then s
    else s.storeBegin { kind := .config, owner := .start, base := s.fw.cfgBase, erase := some (s.fw.cfgBase, 65536), data := [], cmd := none }

/-- A store of the start has completed (R435, R436): the copy to the active image, journalled with it, or the boot count, which the start that raised it
stores with the configuration that it puts in force. -/
def State.startStored (s : State) (kind : StoreKind) (ok : Bool) : State :=
  if kind = .copyActive then
    (if ok then
      ({ s with fw := { s.fw with act := true } } : State).journalStored 0x0005 (digest16 ((s.fw.active.map Manifest.digest).getD 0) ++ leBytes 1 0)
    else s).startVerify
  else if ok then
    ({ s with cfgCur := s.cfgPend.take 4 ++ s.cfgCur.drop 4, fw := { s.fw with boots := s.fw.boots + 1 } } : State).cfgWrite.startRun
  else s.enterRecovery 2

/-- The start from step 4 on (R435). -/
def State.startOn (s : State) : State :=
  if s.fw.pendingAct.isSome && (s.fw.marker stgMark).isSome then s.storeBegin (copyStore .start none) else s.startVerify

/-- The start sequence (R435); before its stores it waits for a stable input, at `BOOT_STAGE` 1 (R431). The sideband serves from step 1, and the adapter
trains when it is up (R379). -/
def State.start (s : State) : State :=
  let s := ({ s with hi := { s.hi with bootStage := 1 } } : State).cfgLoad.ucieStart false
  if s.fw.intent.isSome then s.enterRecovery 1
  else if !s.power.recoveryN then s.enterRecovery 4
  else if !s.power.stable then s
  else s.startOn

/-- INPUT_VOLTAGE_EVENT (R431, R450): the voltage that has held for its qualification time; a start that waited for it goes on. -/
def execInputVoltageEvent (mv : Nat) (s : State) : Host.Outcome State Fault Refusal :=
  done <|
    let t := s.inputVoltage mv
    if t.hi.bootStage = 1 && t.power.stable && t.powered && t.fw.store.isNone then t.startOn else t.bgRun

/-- RESET_RELEASE (R451 step 4): PWR_GOOD and RESET_N high for 1 ms; RECOVERY_N is sampled and the start begins. -/
def execResetRelease (recoveryN : Bool) (s : State) : Host.Outcome State Fault Refusal :=
  done <|
    if !s.power.pwrGood || s.hi.bootStage != 0 then s
    else ({ s with power := { s.power with recoveryN := recoveryN } } : State).start

/-- RESET_N_LOW (R452, R457): an abrupt reset; after a thermal shutdown the rails return, if every sensor has cooled. -/
def execResetNLow (s : State) : Host.Outcome State Fault Refusal := done <| if !s.power.auxOk then s else s.toReset.railsUp

/-- RESET_ORDERED (R452): the reply, then the reset. -/
def execResetOrdered (h : PktHead) (s : State) : Host.Outcome State Fault Refusal :=
  .next <| s.commit h 0x0820 1 fun s =>
    ({ s.replyWrite h 0x0820 1 .ok [] with resetDue := true } : State).orderedReset

/-! ## The recovery window (R442) -/

/-- A recovery command ends: done, or error with its status. -/
def State.recEnd (s : State) (st : Status) : State :=
  { s with recw := { s.recw with state := if st = .ok then 2 else 3, result := st.code } }

/-- A store of the recovery window: busy until it completes. -/
def State.recStore (s : State) (kind : StoreKind) (base : Nat) (erase : Option (Nat × Nat)) (l : List Byte) (c : Option SecCmd) : State :=
  if !s.power.stable then s.recEnd .fwPower
  else
    ({ s with recw := { s.recw with state := 1 } } : State).storeBegin
      { kind := kind, owner := .recovery, base := base, erase := erase, data := l, cmd := c, left := s.fw.intent }

/-- Does the window accept a command: recovery mode, and not busy? -/
def State.recReady (s : State) : Bool := s.hi.bootStage == 2 && s.recw.state != 1

/-- The bytes of `REC_BUF` from 0 on. -/
def RecWin.bytes (r : RecWin) (n : Nat) : List Byte := cellsRead r.buf 0 n

/-- ERASE_STAGING (R433, R442). -/
def State.recErase (s : State) : State :=
  if s.fw.scheduled then s.recEnd .fwBusy else s.recStore .staging stgBase (some (stgBase, imageArea + 4096)) [] none

/-- WRITE (R433, R442). -/
def State.recWriteBuf (s : State) : State :=
  let n := s.recw.length
  if n % 64 ≠ 0 ∨ n < 64 ∨ 32768 < n then s.recEnd .paramRange
  else
    match s.fw.stageRefuse s.recw.offset n with
    | some st => s.recEnd st
    | none =>
      let l := s.recw.bytes n
      s.recStore .staging (stgBase + s.recw.offset) s.fw.stageErase l (some (.stageWrite s.recw.offset l))

/-- COMMIT (R434, R442). -/
def State.recCommitStage (s : State) : State :=
  if s.fw.scheduled then s.recEnd .fwBusy
  else
    match s.fw.verify stgBase with
    | .error st => s.recEnd st
    | .ok m => s.recStore .stagingMark stgMark none (markerBytes m.digest m.bytes) (some .stageCommit)

/-- INSTALL (R436, R442): a committed staging image is copied, then the module restarts. -/
def State.recInstallImage (s : State) : State :=
  match s.fw.marker stgMark with
  | none => s.recEnd .fwStaging
  | some _ => s.recStore .copyActive 0 (some (0, imageArea + 4096)) [] none

/-- RESTART: every island reset, the start with the strap as it was sampled. -/
def State.recRestartNow (s : State) : State := s.toReset.start

/-- The codes of the status table (R371) but ST_OK. -/
def statusCodes : List Nat :=
  [(0x001, 9), (0x101, 5), (0x110, 2), (0x201, 6), (0x210, 4), (0x220, 2), (0x301, 17), (0x401, 8), (0x410, 2), (0x510, 11), (0x520, 6),
    (0x530, 4), (0x540, 4), (0x601, 7), (0x701, 1), (0x801, 6), (0x901, 1)].flatMap fun r => (List.range r.2).map (· + r.1)

/-- BOOT_ACTIVE (R442): an open intent whose target is neither the active image nor the configuration store is closed; otherwise refused, with a status
of the table that the spec does not name (log 42). -/
def State.recBoot (s : State) : State :=
  let refused :=
    let r := s.fresh
    { r.2 with recw := { r.2.recw with state := 3, result := nth statusCodes (r.1.toNat % statusCodes.length) } }
  match s.fw.intent with
  | none => refused
  | some t =>
    if t.kind = .copyActive ∨ t.kind = .config then refused
    else ({ s with fw := { s.fw.record 2 t with intent := none } } : State).recRestartNow

/-- A write to `REC_CMD`. -/
def State.recCommand (s : State) (n : Nat) : State :=
  if !s.recReady then s
  else
    match n with
    | 1 => s.recErase
    | 2 => s.recWriteBuf
    | 3 => s.recCommitStage
    | 4 => s.recInstallImage
    | 5 => s.recBoot
    | 6 => s.recRestartNow
    | _ => s

/-- REC_ERASE_STAGING, REC_WRITE, REC_COMMIT, REC_INSTALL, REC_BOOT_ACTIVE, REC_RESTART (R442). -/
def execRecEraseStaging (s : State) : Host.Outcome State Fault Refusal := done <| if s.recReady then s.recErase else s
def execRecWrite (s : State) : Host.Outcome State Fault Refusal := done <| if s.recReady then s.recWriteBuf else s
def execRecCommit (s : State) : Host.Outcome State Fault Refusal := done <| if s.recReady then s.recCommitStage else s
def execRecInstall (s : State) : Host.Outcome State Fault Refusal := done <| if s.recReady then s.recInstallImage else s
def execRecBootActive (s : State) : Host.Outcome State Fault Refusal := done <| if s.recReady then s.recBoot else s
def execRecRestart (s : State) : Host.Outcome State Fault Refusal := done <| if s.recReady then s.recRestartNow else s

/-- A 64-bit register of the recovery window as it reads. -/
def State.recRead (s : State) (o : Nat) : Nat :=
  if o = 0x000 then s.recw.cause % 16 + 16 * (s.recw.state % 16) + 2 ^ 16 * (s.recw.result % 2 ^ 16)
  else if o = 0x008 then s.recw.intent
  else if o = 0x018 then s.recw.offset
  else if o = 0x020 then s.recw.length
  else if 0x1000 ≤ o ∧ o < 0x9000 then leNat (cellsRead s.recw.buf (o - 0x1000) 8)
  else 0

/-- Write a 64-bit register of the recovery window. -/
def State.recWrite64 (s : State) (o v : Nat) : State :=
  if o = 0x010 then s.recCommand v
  else if o = 0x018 then { s with recw := { s.recw with offset := v } }
  else if o = 0x020 then { s with recw := { s.recw with length := v } }
  else if 0x1000 ≤ o ∧ o < 0x9000 then { s with recw := { s.recw with buf := cellsWrite s.recw.buf (o - 0x1000) (leBytes 8 v) } }
  else s

/-- One byte written over I2C: the register changes with its last byte (R461). -/
def State.i2cByte (s : State) (o : Nat) (b : Byte) : State :=
  let s := { s with power := { s.power with i2cBuf := kvSet o b s.power.i2cBuf } }
  if o % 8 = 7 then
    let cur := leBytes 8 (s.recRead (o - 7))
    let bytes := (List.range 8).map fun k => match kvGet (o - 7 + k) s.power.i2cBuf with
      | some x => x
      | none => cur.getD k 0
    let s := { s with power := { s.power with i2cBuf := s.power.i2cBuf.filter fun e => e.1 / 8 != o / 8 } }
    s.recWrite64 (o - 7) (leNat bytes)
  else s

/-- Bytes written over I2C from an offset on, while recovery mode lasts. -/
def State.i2cBytes (s : State) : Nat → List Byte → State
  | _, [] => s
  | o, b :: t => if s.hi.bootStage = 2 then State.i2cBytes (s.i2cByte o b) (o + 1) t else s

/-- I2C_RECOVERY_ACCESS (R442, R461): at 0x60 + ADDR, in recovery mode only. -/
def execI2cRecoveryAccess (addr offset : Nat) (write : Bool) (data : List Byte) (len : Nat) (s : State) :
    Host.Outcome State Fault Refusal :=
  done <|
    if !s.power.auxOk || addr != 0x60 + s.power.straps || s.hi.bootStage != 2 then s
    else if write then s.i2cBytes (offset % 65536) data
    else
      let l := (List.range len).map fun k => (leBytes 8 (s.recRead ((offset + k) / 8 * 8))).getD ((offset + k) % 8) 0
      { s with power := { s.power with i2cOut := l } }

/-! ## Completion of a store (R430, R431) -/

/-- What a completed store does to flash; a failed read-back leaves the programmed cells open (log 2), a failed copy or configuration copy stays erased
(log 128). -/
def State.storeCells (s : State) (st : FlashStore) (ok : Bool) : State :=
  if st.kind = .copyActive then (if ok then { s with fw := s.fw.copyImage } else s)
  else if ok then { s with fw := s.fw.program st.base st.data }
  else
    let r := freshBytes st.data.length s
    { r.2 with fw := s.fw.program st.base r.1 }

/-- The staging image after a write or an erasure. -/
def State.stageWritten (s : State) (fin : Nat) (fresh : Bool) : State :=
  { s with fw := { s.fw with stgEnd := fin, stgFresh := fresh, staged := none } }

/-- A commit stands: event and journal entry (R434). -/
def State.stageCommitted (s : State) : State :=
  let m := s.fw.manifest stgBase
  let s := { s with fw := { s.fw with staged := some m, stgFresh := true } }
  let s := s.post 0x0801 noCtx (digest16 m.digest ++ leBytes 8 m.release)
  s.journalStored 0x0003 (digest16 m.digest ++ leBytes 8 m.release)

/-- The effect of a store that passed its read-back, by the command that it served. -/
def State.storeDone (s : State) (c : SecCmd) : State :=
  match c with
  | .stageWrite offset data => s.stageWritten (offset + data.length) false
  | .stageCommit => s.stageCommitted
  | .activate _ tag step =>
    let s := { s with fw := { s.fw with pendingAct := s.fw.staged.map Manifest.digest } }
    s.journalStored 0x0004 (zeros 4 ++ leBytes 4 tag ++ leBytes 8 step)
  | .cfgSet key old value => s.journalStored 0x0001 (leBytes 1 key ++ zeros 3 ++ leBytes 4 old ++ leBytes 4 value)
  | .quote .. => s
  | .ident _ => s

/-- The effect of a store whose read-back differs. -/
def State.storeFailed (s : State) (c : SecCmd) : State :=
  match c with
  | .stageWrite offset data => s.stageWritten (offset + data.length) false
  | .cfgSet key old _ => s.cfgRevert key old
  | .stageCommit => { s with fw := { s.fw with staged := none } }
  | .activate .. => s
  | .quote .. => s
  | .ident _ => s

/-- A store of the recovery window completes; an INSTALL that passed rewrites both configuration copies and restarts the module. -/
def State.recStoreEnd (s : State) (st : FlashStore) (ok : Bool) : State :=
  match st.kind, st.cmd with
  | .copyActive, _ =>
    if ok then
      let s := (s.journalStored 0x0009 (digest16 (s.fw.manifest 0).digest)).cfgWrite
      ({ s with recw := { s.recw with restart := true } } : State).toReset.start
    else s.recEnd .fwStaging
  | _, some c => if ok then (s.storeDone c).recEnd .ok else (s.storeFailed c).recEnd .fwStaging
  | _, none => if ok then (s.stageWritten 0 false).recEnd .ok else (s.stageWritten 0 true).recEnd .fwStaging

/-- A store that no command waits for has completed: a fuse program, which is not read back, or a copy whose read-back differs. -/
def State.backStored (s : State) (st : FlashStore) : State :=
  match st.fuse with
  | some x => s.fuseDone x
  | none => { s with fw := { s.fw with copying := false } }

/-- After a store: a reset that was ordered (R452), or else what no command waits for, then the waiting commands (R432). -/
def State.storeNext (s : State) : State :=
  if s.resetDue && !s.halted then s.orderedReset
  else
    let s := s.bgRun
    State.secDrain s.fw.waiting.length s

/-- FLASH_STORE_COMPLETE (R430 to R432): the read-back is in and the intent closed, as failed where it differs; beside an interrupted store's, which
INSTALL alone or BOOT_ACTIVE closes (R442). A background copy that passes has its own command. -/
def execFlashStoreComplete (ok : Bool) (s : State) : Host.Outcome State Fault Refusal :=
  done <|
    match s.fw.store with
    | none => s
    | some st =>
      if ok && st.kind == StoreKind.copyActive && st.owner == StoreOwner.background then s
      else
        let good := ok || st.kind == StoreKind.fuse
        let f := s.fw.record (if good then 2 else 3) { kind := st.kind, target := st.base }
        let s := { s with fw := { f with store := none, intent := if ok && decide (st.kind = StoreKind.copyActive) then none else st.left } }
        let s := s.storeCells st good
        let s := if good then s else s.post 0x0805 noCtx (leBytes 1 st.kind.code ++ zeros 7 ++ leBytes 8 st.base)
        let s := match st.owner with
          | .host h _ op =>
            let s := match st.cmd with
              | some c => if good then s.storeDone c else s.storeFailed c
              | none => s
            s.replyWrite h op 1 (if good then .ok else .fwStaging) []
          | .recovery => if s.hi.bootStage = 2 then s.recStoreEnd st good else s
          | .start => if s.hi.bootStage = 1 then s.startStored st.kind good else s
          | .background => s.backStored st
        s.storeNext

/-! ## The calm point (R439) -/

/-- Every resident position of every context is ordered to save (R345). -/
def State.saveAll (s : State) : State :=
  s.ctxs.foldl (fun s cx => (List.range cx.2.positions.length).foldl (fun s p => s.orderSave cx.1 p) s) s

/-- Is every position saved? -/
def State.allSaved (s : State) : Bool := s.ctxs.all fun cx => cx.2.positions.all Position.isSaved

/-- Steps 4 and 5 of R439: the shadow's digests are checked again and its components run, the log grows by seven entries, every UP port retrains. A
digest that no longer matches lets the schedule lapse (log 130). -/
def State.calmLoad (s : State) (m : Manifest) : State :=
  if !shadowOk s.fw.shadow m then ({ s.fwLapse with calm := none } : State).schedule
  else
    { s with
      fw := { s.fw with running := some m, log := s.fw.log ++ m.logEntries, loaded := true },
      ports := s.ports.map fun (p : Port) => if p.state = 3 then { p with state := 2, retrain := true, attempt := 0, started := false } else p }

/-- Does a port still retrain (R439 step 5)? -/
def State.retraining (s : State) : Bool := s.ports.any fun p => p.state == 2 && p.retrain

/-- Steps 6 and 7 of R439: work resumes, the event and the journal entry, and the copy to the active area as soon as the input is stable. -/
def State.calmEnd (s : State) (m : Manifest) : State :=
  let s := { s with fw := { s.fw with sched := none, schedDecided := false, shadow := [], loaded := false, copying := true }, calm := none }
  let s := s.post 0x0802 noCtx (digest16 m.digest ++ leBytes 1 1)
  let s := s.journal 0x0005 true noCtx (digest16 m.digest ++ leBytes 1 1)
  s.bgRun.schedule

/-- CALM_POINT (R439): the next step of the calm point that can be taken. Once the step's run has retired, acceptance pauses and positions are saved;
with every position saved, the shadow is loaded; with no port retraining, work resumes. -/
def execCalmPoint (s : State) : Host.Outcome State Fault Refusal :=
  done <|
    match s.fw.sched, s.fw.staged with
    | some x, some m =>
      if !s.fw.schedDecided || s.halted || s.resetDue then s
      else if s.calm.isNone then
        if s.calmDue x.1 && s.fw.store.isNone then ({ s with calm := some x.2 } : State).saveAll else s
      else if s.fw.loaded then (if s.retraining then s else s.calmEnd m)
      else if s.allSaved then s.calmLoad m
      else s
    | _, _ => s

/-- FW_BACKGROUND_COPY_COMPLETE (R439 step 7, R440): the read-back has passed; the fuses of the activation are due. -/
def execFwBackgroundCopyComplete (s : State) : Host.Outcome State Fault Refusal :=
  done <|
    match s.fw.running, s.fw.store with
    | some m, some st =>
      if !s.fw.copying || st.owner != StoreOwner.background || st.kind != StoreKind.copyActive then s
      else
        let f := (s.fw.record 2 { kind := st.kind, target := st.base }).copyImage
        ({ s with fw := { f with copying := false, store := none, intent := none, fuses := f.fusesDue m } } : State).storeNext
    | _, _ => s

end Sys2Proof.Machine
end

