-- ==== Sys2Proof/Machine/Plans.lean ====
section
/-! DEFINITION. Plans: admission, release, runs and queries (15_command_protocol R359, R365, R369, R370, R373). -/
namespace Sys2Proof.Machine

/-! ## PLAN_* packets -/

/-- Is an earlier PLAN_ADMIT, PLAN_RELEASE or PLAN_RUN of the queue's context not retired (R373)? -/
def State.planBusy (s : State) (q : Nat) : Bool :=
  s.accepted.any (fun a => a.head.queue == q && decide (0x0301 ≤ a.opcode ∧ a.opcode ≤ 0x0303))
    || s.held.any (fun a => a.head.queue == q && decide (0x0301 ≤ a.opcode ∧ a.opcode ≤ 0x0303))

/-- A PLAN command: in its turn (R373), refused on the management queue (R357), otherwise run on the queue's context. -/
def State.planCommand (s : State) (h : PktHead) (op slots : Nat) (body : Ctx → State → State) : State :=
  if s.planBusy h.queue then s
  else
    s.commit h op slots fun s =>
      match kvGet h.queue s.ctxs with
      | none => s.replyWrite h op slots .queue []
      | some x => if h.queue = 0 then s.replyWrite h op slots .queue [] else body x s

/-! ## Reservations (R192, R285, R339) -/

/-- Bytes of die-local pages that the plan maps on each die (R285). -/
def Plan.dieBytes (p : Plan) (s : State) (x : Ctx) (die : Nat) : Nat :=
  let rs := p.ops.flatMap fun o => opReads p o ++ opWrites p o
  ((x.maps.filter fun m => s.region m.pa == .local die && rs.any (meet (m.va, m.size))).map Mapping.size).sum

/-- Dies by bytes, descending, equal amounts ascending (R285). -/
def Plan.rankDies (p : Plan) (s : State) (x : Ctx) : List Nat :=
  sortKey (fun d => [2 ^ 60 - p.dieBytes s x d, d]) [0, 1, 2, 3]

/-- Reserve the token homes, 64 KiB-aligned, in LPDDR5X below its save pool (R192), lowest address first (log 23). -/
def State.reserveHomes (s : State) : List Nat → List Token → Option (List Token × State)
  | [], acc => some (acc, s)
  | n :: t, acc =>
    let size := alignUp (max n 1) 65536
    match firstFit lpBase (s.poolLp.1 - lpBase) size s.lpUsed with
    | none => none
    | some a =>
      State.reserveHomes { s with lpUsed := s.lpUsed ++ [(a, size)] } t
        (acc ++ [{ size := n, home := a, state := 0, poison := 0, placed := [] }])

/-- Partials that an attention operation keeps beside its tensors: backward's FP32 dk and dv of each (query head, key block) with their flags
(R134; size: log 115). -/
def AttF.partBytes (f : AttF) : Nat := if f.op = 1 then f.qHeads * (ceilDiv f.kvLen 32 * 32) * f.headDim * 9 else 0

/-- Bytes of management frames that an operation reserves (R72, R76, R82, R125, R134, R369): a commit map of one bit for each (tile, split) or unit,
a matrix operation's partials and statistics, an attention's partials, and the record of 64 bytes that its engine keeps (sizes but the maps': log 115). -/
def PlanOp.frameBytes : PlanOp → Nat
  | .matmul f => 64 + ceilDiv f.units 8 + (if f.splits = 1 then 0 else ceilDiv (f.units * f.tm * f.tn * 9) 2)
      + (if f.rowstat = 0 then 0 else f.gm * f.gn * f.tm * 12)
  | .attention f => 64 + ceilDiv f.units 8 + f.partBytes
  | .expert _ | .omtPack .. | .omtUnpack .. | .vector _ | .transfer .. | .sync _ | .stage _ | .tradeReduce ..
  | .tradeGather .. | .optUpdate _ | .stepMark .. | .lullSnap _ | .traceMark .. => 64

/-- Stages 12 to 14: tier-2 area and management frames, placement, save areas; the state holds all of them, or nothing. -/
def State.reserve (s : State) (c : Nat) (x : Ctx) (p : Plan) : Except LoadFail (State × Plan) :=
  match s.reserveHomes p.tokens [] with
  | none => .error (failAt 12 .memCapacity)
  | some (tokens, s1) =>
    let rank := p.rankDies s x
    let frames := (p.ops.map PlanOp.frameBytes).sum
    if !s.framesFit frames then .error (failAt 12 .memCapacity)
    else
    match s1.admitCores c x (coreOrder rank p.dies p.exact) p.cores with
    | none => .error (failAt 13 .placeCores)
    | some cores =>
      match s1.reserveAreas x.part cores [] with
      | none => .error (failAt 14 .savePool)
      | some (ps, s2) => .ok (s2.ctxDo c fun x => { x with positions := ps, tokens := tokens, frames := frames }, { p with dieRank := rank })

/-! ## Admission -/

/-- The PLAN_ADMIT results of a refusal (R370). -/
def LoadFail.results (f : LoadFail) : List Byte :=
  leBytes 1 f.stage ++ leBytes 1 f.part ++ leBytes 1 f.slot ++ leBytes 1 f.check ++ leBytes 4 f.op ++ leBytes 4 f.fitOp ++ zeros 36

/-- The results of an admission (R370). -/
def admitResults (spilled : Nat) (digest : BitVec 256) : List Byte :=
  leBytes 1 0 ++ leBytes 1 0xFF ++ leBytes 1 0xFF ++ leBytes 1 0xFF ++ leBytes 4 0xFFFFFFFF ++ leBytes 4 0xFFFFFFFF
    ++ leBytes 2 spilled ++ zeros 2 ++ leBytes 32 digest.toNat

/-- The reply of an admission, with trace point 5 (R370, R466). -/
def State.admitReply (s : State) (h : PktHead) (st : Status) (results : List Byte) : State :=
  (s.trace 5 h.queue (leBytes 2 st.code ++ results.take 1)).replyWrite h 0x0301 2 st results

/-- Load the plan's micro-programs (R110). -/
def State.loadPrograms (s : State) (c : Nat) (p : Plan) : State :=
  p.mps.foldl (fun s m => { s with mpStore := kvSet (c * 64 + m.slot) m s.mpStore }) s

/-- Add the use references of a plan's models, and start the loads of absent ones (R201, R202); a reference cancels an eviction that
is being written back (R204). A load that finds no room leaves the model absent, and what reads it waits (log 23). -/
def State.useModels (s : State) (c : Nat) (p : Plan) : State :=
  p.models.foldl
    (fun s m =>
      let s := s.modelDo m.1 fun e => { e with refs := e.refs ++ [(c, m.2.1)], evicting := false }
      match kvGet m.1 s.models with
      | none => s
      | some e =>
        if e.state = 0 then (match s.startLoad m.1 c with | some t => t | none => s)
        else if e.slots.isEmpty then s
        else s.mapModel m.1 e.slots) s

/-- The initial loss-scale record (R271): 2^15, with `LS_VALID` written last. -/
def lscaleInit (old : List Byte) : List Byte :=
  leBytes 4 0x47000000 ++ leBytes 1 15 ++ leBytes 1 1 ++ slice old 6 2 ++ zeros 12 ++ slice old 20 44

/-- Write an invalid loss-scale record of an update's fields (R271). -/
def State.initLscale (s : State) (c : Nat) (o : PlanOp) : State :=
  match o with
  | .optUpdate f =>
    (match s.vread c f.lscale 64 with
     | .error _ => s
     | .ok r => if field r.1 5 1 = 0 then (match s.vwrite c f.lscale (lscaleInit r.1) with | .ok t => t | .error _ => s) else s)
  | _ => s

/-- Every stage has passed: what the admission brings takes effect, and the command replies (R369). -/
def State.admitFinish (s : State) (c : Nat) (h : PktHead) (p : Plan) : State :=
  let s := s.ctxDo c fun x => { x with plan := some p, admitting := none }
  let s := (s.loadPrograms c p).useModels c p
  let s := p.ops.foldl (fun s o => s.initLscale c o) s
  let spilled := ((kvGet c s.ctxs).map fun x => (x.positions.filter fun q => q.spilled).length).getD 0
  s.admitReply h .ok (admitResults spilled p.digest)

/-- A failed exhaustive run is a stage 10 failure, and everything reserved goes back (R369). -/
def State.admitUndo (s : State) (c : Nat) (h : PktHead) (slot : Nat) : State :=
  (s.releasePlan c).admitReply h .planMicroprog ({ failAt 10 .planMicroprog with slot := slot, check := 6 } : LoadFail).results

/-- The verdicts of a plan's monotonic programs (R115): the slot of the first that is known to have stepped back, or none; and whether all are
known. A cached failure is named at once, without the runs of programs before it (R114; log 121). -/
def State.monoVerdict (s : State) (p : Plan) : Option Nat × Bool :=
  let ms := p.mps.filter fun m => m.mono != 0
  ((ms.find? fun m => kvGet m.digest.toNat s.monoCache = some false).map MicroProg.slot,
   ms.all fun m => (kvGet m.digest.toNat s.monoCache).isSome)

/-- PLAN_ADMIT (R369): the image read in the queue's context, the stages in order. While the image's sectors are on their way from the host or
wait for a recovery the packet stays unaccepted (log 15). -/
def execPlanAdmit (h : PktHead) (addr bytes : Nat) (errs : List SectorErr) (s : State) : Host.Outcome State Fault Refusal :=
  match if 256 ≤ bytes ∧ bytes ≤ 2 ^ 28 then s.copyRebuild h h.queue addr bytes errs else none with
  | some t => done t
  | none => done (s.planCommand h 0x0301 2 fun x s =>
    let c := h.queue
    if bytes < 256 ∨ bytes > 2 ^ 28 then s.admitReply h .paramRange (failAt 0 .paramRange).results
    else if x.plan.isSome || x.admitting.isSome then s.admitReply h .planBusy (failAt 0 .planBusy).results
    else
      let s := match vspans x.maps false addr bytes with
        | .ok ps => s.recover c ps errs
        | .error _ => s
      match s.vread c addr bytes with
      | .error _ => s.admitReply h .planImage (failAt 1 .planImage).results
      | .ok (_, some _) => s.admitReply h .poison (failAt 1 .poison).results
      | .ok (l, none) =>
        match loadChecks s c x l with
        | some f => s.admitReply h f.status f.results
        | none =>
          match s.reserve c x (planOf l) with
          | .error f => s.admitReply h f.status f.results
          | .ok (t, p) =>
            match t.monoVerdict p with
            | (some slot, _) => t.admitUndo c h slot
            | (none, true) => t.admitFinish c h p
            | (none, false) =>
              (t.ctxDo c fun x => { x with admitting := some { head := h, since := s.refCount, plan := p,
                                                               progs := (p.mps.filter fun m => m.mono != 0).map MicroProg.slot } }).schedule)

/-- MONO_CHECK_COMPLETE (R115, R369): the exhaustive runs have ended on the placement; their verdicts are cached, and the admission
ends with them. -/
def execMonoCheckComplete (c : Nat) (s : State) : Host.Outcome State Fault Refusal :=
  done <|
    match kvGet c s.ctxs with
    | none => s
    | some x =>
      match x.admitting with
      | none => s
      | some a =>
        if !s.running || x.suspended then s
        else
          let s := (a.plan.mps.filter fun m => m.mono != 0).foldl
            (fun s m => { s with monoCache := kvSet m.digest.toNat (!stepsBack m) s.monoCache }) s
          match s.monoVerdict a.plan with
          | (some slot, _) => s.admitUndo c a.head slot
          | (none, _) => s.admitFinish c a.head a.plan

/-- PLAN_RELEASE (R359). -/
def execPlanRelease (h : PktHead) (s : State) : Host.Outcome State Fault Refusal :=
  done (s.planCommand h 0x0302 1 fun x s =>
    if x.plan.isNone then s.replyWrite h 0x0302 1 .planNone []
    else (s.releasePlan h.queue).replyWrite h 0x0302 1 .ok [])

/-- PLAN_RUN (R365): the plan step begins, with the seed and padding that stand now (R301, R333). A context that issues no further
operation gives every record ST_NOT_ISSUED (R348, R366). -/
def execPlanRun (h : PktHead) (step status : Nat) (s : State) : Host.Outcome State Fault Refusal :=
  done (s.planCommand h 0x0303 1 fun x s =>
    let c := h.queue
    match x.plan with
    | none => s.replyWrite h 0x0303 1 .planNone []
    | some p =>
      if status % 64 ≠ 0 || !(match s.reach c true status (128 * p.ops.length) with | .ok _ => true | .error _ => false) then s.replyWrite h 0x0303 1 .runArea []
      else
        let r : Run := { stop := none, head := h, since := s.refCount, step := step, area := status, seed := x.seedNext, pad := x.padNext,
                         ops := List.replicate p.ops.length OpRun.new }
        let s := s.ctxDo c fun x => { x with run := some r, seed := x.seedNext, pad := x.padNext }
        if x.noIssue then (((List.range p.ops.length).foldl (fun s i => s.notIssue c i) s).runEnd c)
        else s.schedule)

/-- PLAN_QUERY (R370): of the context that owns the queue; the management queue's has no plan. -/
def execPlanQuery (h : PktHead) (s : State) : Host.Outcome State Fault Refusal :=
  s.command h 0x0304 1 fun s =>
    match (kvGet h.queue s.ctxs).bind Ctx.plan with
    | none => (.ok, zeros 32, s)
    | some p => (.ok, leBytes 1 1 ++ zeros 3 ++ leBytes 4 p.ops.length ++ leBytes 16 (p.digest.toNat % 2 ^ 128) ++ zeros 8, s)

end Sys2Proof.Machine
end

