-- ==== Sys2Proof/Machine/Vauri.lean ====
section
/-! DEFINITION. Vauri links (17_vauri_links): training, flits, retry, credits and reservations, ports going down, remote signals
(13 R322 to R324, 14 R351). -/
namespace Sys2Proof.Machine

/-! ## Ports -/

/-- Change a port. -/
def State.portDo (s : State) (p : Nat) (f : Port → Port) : State := { s with ports := s.ports.modify p f }

/-- Receive buffers of the channels in flits (R403). -/
def vcBuffers : List Nat := [64, 64, 640, 640, 320, 320]

/-- Raise a counter of R411: it sticks and sets its bit in `VP_CNT_OVF`. -/
def Port.count (p : Port) (i n : Nat) : Port :=
  let v := nth p.counters i + n
  if v < 2 ^ 64 - 1 then { p with counters := p.counters.set i v }
  else { p with counters := p.counters.set i (2 ^ 64 - 1), cntOvf := p.cntOvf ||| BitVec.ofNat 8 (2 ^ i) }

/-- Set an error bit (R411): 0 TRAIN_FAIL, 1 RETRY_LIMIT, 2 CREDIT_PROTOCOL, 3 UNIT_PROTOCOL, 4 LOCK_LOST. -/
def Port.fault (p : Port) (i : Nat) : Port := { p with err := p.err ||| BitVec.ofNat 5 (2 ^ i) }

/-- A retrain (R401): sequence numbers, replay buffer, credits and partly received units stay. -/
def Port.retrainNow (p : Port) : Port := { p with state := 2, retrain := true, attempt := 0, started := false }

/-- Bytes of a unit as flits. -/
def TxUnit.flits (u : TxUnit) : Nat := max 1 (ceilDiv u.payload.length 240)

/-- A flit as its 256 bytes, fields little-endian (R9, R397). -/
def flitBytes (f : Flit) : List Byte :=
  let b := leBytes 2 (f.seq + 4096 * f.kind) ++ leBytes 2 (f.ack + 4096 * b2n f.nak) ++ leBytes 1 (f.vc + 8 * b2n f.first + 16 * b2n f.last)
    ++ leBytes 1 f.len ++ leBytes 2 (f.crVc + 8 * f.crCount) ++ leBytes 4 f.bind ++ padTo 240 f.payload
  b ++ leBytes 4 (crc32c b)

/-- A flit as it is read from its 256 bytes: the fields of R397, good where the CRC of bytes 0 to 251 stands in the last four. -/
def flitOf (l : List Byte) : Flit :=
  { crcOk := l.length == 256 && field l 252 4 == crc32c (l.take 252), seq := field l 0 2 % 4096, kind := field l 0 2 / 4096,
    ack := field l 2 2 % 4096, nak := bitOf (field l 2 2) 12, vc := field l 4 1 % 8, first := bitOf (field l 4 1) 3, last := bitOf (field l 4 1) 4,
    len := field l 5 1, crVc := field l 6 2 % 8, crCount := field l 6 2 / 8 % 1024, bind := field l 8 4,
    payload := slice l 12 (8 * min 30 (field l 5 1)) }

/-- The flit that a receiver sees: as its bytes say, where they are given (R397). -/
def flitSeen (f : Flit) : Flit := match f.raw with | none => f | some l => flitOf l

/-- Ports to a module that have not gone down: UP, or in a retrain (R324, R401). -/
def State.portsTo (s : State) (module : Nat) : List Nat :=
  ((enumFrom 0 s.ports).filter fun x => s.portAlive x.1 && x.2.peerValid && x.2.peerId == module).map Prod.fst

/-! ## Remote signals (R322, R404, R405) -/

/-- The payload of a remote signal (R404). -/
def State.signalBytes (s : State) (r : RSignal) : List Byte :=
  leBytes 2 s.vl.moduleId ++ leBytes 2 r.target ++ leBytes 4 r.num ++ leBytes 2 r.so ++ leBytes 1 r.sop ++ zeros 5 ++ leBytes 8 r.n

/-- Put a remote signal on a port. -/
def State.signalQueue (s : State) (r : RSignal) (p : Nat) : State :=
  let u : TxUnit := { vc := 1, ctx := r.ctx, bind := 0, payload := s.signalBytes r, signal := some { r with port := p }, landed := none, poison := false }
  s.portDo p fun q => { q with txq := q.txq ++ [u] }

/-- A signal that a lost port carried (R404): again on another up port to the module, or lost. -/
def State.signalMove (s : State) (r : RSignal) : State :=
  let drop (s : State) : State :=
    { s with rsOut := kvMap (fun k e => if k = r.target then (e.1, e.2.filter fun x => x.num != r.num) else e) s.rsOut }
  match s.portsTo r.target with
  | [] => ((drop s).unrecovered r.ctx).post 0x0A15 r.ctx (leBytes 2 r.target ++ leBytes 2 r.so)
  | p :: _ =>
    let s := { s with rsOut := kvMap (fun k e => if k = r.target then
      (e.1, e.2.map fun (x : RSignal) => if x.num = r.num then { x with port := p } else x) else e) s.rsOut }
    s.signalQueue r p

/-- Signals that wait to leave and have no port left fail their instructions (R324). -/
def State.signalsFail (s : State) : State :=
  let bad := s.rsWait.filter fun r => (s.portsTo r.target).isEmpty
  let s := { s with rsWait := s.rsWait.filter fun r => !bad.contains r }
  bad.foldl (fun s r => s.opEnd r.ctx r.op .soLink []) s

/-- SO_RSIGNAL (R322, R404): the signal waits to leave; at most 1,024 to one target stand unacknowledged. One that a save withdrew is
issued again (R324). -/
def execSoRsignal (c i : Nat) (s : State) : Host.Outcome State Fault Refusal :=
  done <|
    match s.opOf c i with
    | some (x, _, _, .sync f, q) =>
      if f.module = 0xFFFF then s
      else
        let issue (s : State) : State :=
          if !(s.portsTo f.module).contains f.port then s.opEnd c i .soLink []
          else { s with rsWait := s.rsWait ++ [RSignal.mk c i f.module 0 f.so f.op f.n f.port] }
        if s.mayIssue c i then issue (s.opBegin c i .none)
        else if q.st = .begun && x.pos0 && !x.suspended && s.running && !(s.rsWait.any fun r => r.ctx == c && r.op == i) then issue s
        else s
    | _ => s

/-- Has every earlier unit of a context to a module landed (R405)? -/
def State.allLanded (s : State) (c module : Nat) : Bool :=
  s.ports.all fun p => !(p.peerValid && p.peerId == module) ||
    (!(p.unlanded.contains c) && !(p.txq.any fun u => u.ctx == c && decide (2 ≤ u.vc)))

/-- RSIGNAL_DEPART (R322, R404, R405): it takes its number and the port accepts it; the instruction retires. -/
def execRsignalDepart (c i : Nat) (s : State) : Host.Outcome State Fault Refusal :=
  done <|
    match s.rsWait.find? fun r => r.ctx == c && r.op == i with
    | none => s
    | some r =>
      let e := kvGetD r.target s.rsOut (0, [])
      match (s.portsTo r.target).find? (· == r.port) <|> (s.portsTo r.target).head? with
      | none => ({ s with rsWait := s.rsWait.erase r } : State).opEnd c i .soLink []
      | some p =>
        if !s.allLanded c r.target || decide (1024 ≤ e.2.length) then s
        else
          let r2 := { r with num := e.1, port := p }
          let s := { s with rsWait := s.rsWait.erase r, rsOut := kvSet r.target ((e.1 + 1) % 2 ^ 32, e.2 ++ [r2]) s.rsOut }
          (s.signalQueue r2 p).opEnd c i .ok []

/-- Is a signal number new (R404), and what is remembered then: behind the window or applied before, discarded. -/
def RsIn.take (r : RsIn) (n : Nat) : Option RsIn :=
  match r.high with
  | none => some { high := some n, applied := [n] }
  | some h =>
    if seqLater n h then
      some { high := some n, applied := n :: r.applied.filter fun k => decide ((n + 2 ^ 32 - k) % 2 ^ 32 < 1024) }
    else if (h + 2 ^ 32 - n) % 2 ^ 32 < 1024 ∧ !r.applied.contains n then some { r with applied := n :: r.applied }
    else none

/-- An object breaks at a remote signal that it cannot take (R319, R323). -/
def State.soBreak (s : State) (so : Nat) : State :=
  match kvGet so s.sos with
  | none => s
  | some o => (s.post 0x0401 noCtx (leBytes 2 so)).breakObj so o

/-- A remote signal that arrived once is applied, or discarded with its event (R323, R404). -/
def State.signalApply (s : State) (src dst num so op n : Nat) : State :=
  let refused (s : State) : State := s.post 0x0403 noCtx (leBytes 2 src ++ leBytes 2 so)
  if dst ≠ s.vl.moduleId then refused s
  else
    match (kvGetD src s.rsIn { high := none, applied := [] }).take num with
    | none => s
    | some r =>
      let s := { s with rsIn := kvSet src r s.rsIn }
      match kvGet so s.sos with
      | none => refused s
      | some o =>
        if !o.remote || !([0, 3, 5, 12].contains op) then refused s
        else
          let a := s.soApply so op n 0 0
          match a.1 with
          | .fail .soOverflow => (a.2.soBreak so).post 0x0404 noCtx (leBytes 2 src ++ leBytes 2 so)
          | .fail _ => refused a.2
          | .done _ => a.2
          | .wait _ => a.2

/-! ## Ports going down (R402) -/

/-- The ports of a group that carry the same traffic as port `p`. -/
def State.siblings (s : State) (p c tag : Nat) : List Nat :=
  let k := gkey c tag
  let ls : List (List Nat) := (match kvGet k s.eddy with | some g => [g.f.portOut.take g.f.ports, g.f.portIn.take g.f.ports] | none => [])
    ++ (match kvGet k s.expx with | some g => [g.f.portOut.take g.f.ports, g.f.portIn.take g.f.ports] | none => [])
    ++ (match kvGet k s.stageQ with | some q => [q.ports] | none => [])
    ++ (match kvGet k s.trade with
      | some t => [t.f.portOut.take t.f.ports, t.f.portIn.take t.f.ports, t.f.gportOut.take t.f.gports, t.f.gportIn.take t.f.gports]
      | none => [])
  (ls.find? fun l => l.contains p).getD []

/-- A unit handed back, the `k`th of its channel, goes to a surviving port of its protocol, in ascending port order (R164, R256, R290, R228); a mesh port's
waits for its port. -/
def State.unitMove (s : State) (p k : Nat) (u : TxUnit) : State :=
  let u := { u with sent := 0 }
  let keep (s : State) (q : Nat) : State := s.portDo q fun t => { t with txq := t.txq ++ [u] }
  if u.signal.isSome || u.landed.isSome then s
  else
    let sib := s.siblings p u.ctx u.bind
    let up := (sib.filter fun q => q != p && s.portAlive q).mergeSort (· ≤ ·)
    match up[k % max up.length 1]? with
    | some q => keep s q
    | none => if sib.isEmpty && (match s.ports[p]? with | some t => t.use == 4 | none => false) then keep s p else s

/-- Mark the units that had begun: those whose flits left, and the further segments of an item that did (R290). -/
def markBegun : List TxUnit → List TxUnit → List TxUnit
  | done, [] => done
  | done, u :: t =>
    let prev := done.reverse.find? fun v => v.vc == u.vc && v.ctx == u.ctx && v.bind == u.bind
    let b := u.begun || u.sent != 0 || (u.cont && (match prev with | some v => v.begun | none => true))
    markBegun (done ++ [{ u with begun := b }]) t

/-- The units that a port hands back (R402): those not completely acknowledged, which have begun, and those still queued. -/
def unitsBack (p : Port) : List TxUnit :=
  markBegun [] ((p.replay.filter fun f => f.flit.last).map (fun f => { f.unit with begun := true }) ++ p.txq)

/-- The units sent whole and acknowledged by the link, whose LAND_ACK has still to come (R405): those handed back no longer count. -/
def Port.stillUnlanded (p : Port) : List Nat :=
  ((p.replay.filter fun f => f.flit.last && decide (2 ≤ f.unit.vc)).map fun f => f.unit.ctx).foldl (fun l c => l.erase c) p.unlanded

/-- The port goes DOWN, or to DISABLED when the host cleared its bit (R402). -/
def State.portDown (s : State) (p cause : Nat) (disabled : Bool) : State :=
  match s.ports[p]? with
  | none => s
  | some q =>
    let units := unitsBack q
    let s := s.portDo p fun t =>
      { t.count 7 1 with
        state := if disabled then 0 else 4, replay := [], credits := [], peerBuf := [], owed := [], openUnits := [], txq := [], out := [], nakDue := false,
        reserved := [], unlanded := q.stillUnlanded, retrain := false, started := false, attempt := 0, txSeq := 0, rxSeq := 0 }
    let s := s.post 0x0A13 noCtx (leBytes 1 p ++ leBytes 1 cause)
    let s := (enumFrom 0 units).foldl (fun s u =>
      let before := ((units.take u.1).filter fun v => v.vc == u.2.vc && !v.cont).length
      s.unitMove p (if u.2.cont then before - 1 else before) u.2) s
    let sig := (s.rsOut.flatMap fun e => e.2.2).filter fun r => r.port == p
    let s := sig.foldl State.signalMove s
    s.signalsFail.eddyPorts.tradePorts.expxPorts.stagePorts

/-! ## Sending (R397 to R403) -/

/-- A credit return that the next flit can carry: channel and count, at most 1,023. -/
def Port.owes (p : Port) : Nat × Nat :=
  match (enumFrom 0 p.owed).find? fun o => o.2 != 0 with
  | some o => (o.1, min o.2 1023)
  | none => (0, 0)

/-- The last sequence number received in order. -/
def Port.lastRx (p : Port) : Nat := (p.rxSeq + 4095) % 4096

/-- Send a flit with the port's acknowledgement, NAK and credit return. -/
def Port.emit (p : Port) (f : Flit) : Port :=
  let o := p.owes
  let f := { f with ack := p.lastRx, nak := p.nakDue, crVc := o.1, crCount := o.2 }
  let p := if p.nakDue then p.count 3 1 else p
  { p with out := p.out ++ [flitBytes f], owed := p.owed.set o.1 (nth p.owed o.1 - o.2), nakDue := false }

/-- The flit of a unit with this number. -/
def TxUnit.flit (u : TxUnit) (k seq : Nat) : Flit :=
  let l := (u.payload.drop (240 * k)).take 240
  { crcOk := true, seq := seq, kind := if u.signal.isSome then 2 else if u.landed.isSome then 3 else 1, ack := 0, nak := false, vc := u.vc,
    first := k == 0, last := k + 1 == u.flits, len := ceilDiv l.length 8, crVc := 0, crCount := 0, bind := if u.vc ≤ 1 then 0 else u.bind,
    payload := padTo (8 * ceilDiv l.length 8) l }

/-- Send `n` flits of a unit. -/
def Port.sendFlits : Nat → Port → TxUnit → Port × TxUnit
  | 0, p, u => (p, u)
  | n + 1, p, u =>
    let f := u.flit u.sent p.txSeq
    let p := p.emit f
    let p := { p.count 0 1 with
      txSeq := (p.txSeq + 1) % 4096, credits := p.credits.set u.vc (nth p.credits u.vc - 1),
      replay := p.replay ++ [{ flit := f, replays := 0, unit := u }],
      reserved := p.reserved.map fun r => if r.1 = u.ctx ∧ r.2.1 = u.vc then (r.1, r.2.1, r.2.2 - 1) else r }
    Port.sendFlits n p { u with sent := u.sent + 1 }

/-- Does a unit of a channel need its context's reservation (R351)? CONTROL does not. -/
def needsReserve (vc : Nat) : Bool := decide (1 ≤ vc)

/-- May a unit that has not started leave (R167, R228, R257, R290): while its context is not saved, a remote signal, a unit that
had begun on a port that went down, and a further segment of a stage item that is already being sent? -/
def State.mayLeave (s : State) (p : Port) (u : TxUnit) : Bool :=
  u.vc == 1 || s.circRuns u.ctx || u.begun || (u.cont && (p.txq.find? fun v => v.vc == u.vc && v.ctx == u.ctx) == some u)

/-- The unit that a channel sends next: one that has started, else the first whose context holds a reservation. -/
def State.txNext (s : State) (p : Port) (vc : Nat) : Option TxUnit :=
  match p.txq.find? fun u => u.vc == vc && u.sent != 0 with
  | some u => some u
  | none => p.txq.find? fun u => u.vc == vc &&
      (!needsReserve vc || ((p.reserved.any fun r => r.1 == u.ctx && r.2.1 == vc) && s.mayLeave p u))

/-- VAURI_UNIT_SEND (R398, R399, R403): as many flits of the unit as credit and replay buffer hold. -/
def execVauriUnitSend (port vc : Nat) (s : State) : Host.Outcome State Fault Refusal :=
  done <|
    match s.ports[port]? with
    | none => s
    | some p =>
      if p.state ≠ 3 then s
      else
        match s.txNext p vc with
        | none => s
        | some u =>
          let others := ((p.reserved.filter fun r => r.2.1 == vc && r.1 != u.ctx).map fun r => r.2.2).sum
          let k := min (u.flits - u.sent) (min (nth p.credits vc - others) (1024 - p.replay.length))
          if k = 0 then s
          else
            let r := Port.sendFlits k p u
            let whole := r.2.sent == u.flits
            let i := (p.txq.findIdx? (· == u)).getD 0
            let q := { r.1 with
              txq := if whole then r.1.txq.eraseIdx i else r.1.txq.set i r.2,
              reserved := if whole then r.1.reserved.filter fun x => !(x.1 == u.ctx && x.2.1 == vc) else r.1.reserved,
              unlanded := if whole && decide (2 ≤ vc) then r.1.unlanded ++ [u.ctx] else r.1.unlanded }
            { s with ports := s.ports.set port q }

/-- LINK_CREDIT_RESERVE (R351): the highest class, then the first to arrive, among the contexts that have a unit to send on the channel and
hold no reservation there, takes that unit's credits once the pool has them. -/
def execLinkCreditReserve (port vc : Nat) (s : State) : Host.Outcome State Fault Refusal :=
  done <|
    match s.ports[port]? with
    | none => s
    | some p =>
      if p.state ≠ 3 ∨ !needsReserve vc then s
      else
        let want := p.txq.filter fun u => u.vc == vc && u.sent == 0 && s.mayLeave p u
          && !(p.reserved.any fun r => r.1 == u.ctx && r.2.1 == vc)
        match sortKey (fun (u : TxUnit) => [3 - s.holderClass u.ctx]) want with
        | [] => s
        | u :: _ =>
          let taken := ((p.reserved.filter fun r => r.2.1 == vc).map fun r => r.2.2).sum
          let n := min u.flits (nth p.peerBuf vc)
          if n ≤ nth p.credits vc - taken ∧ n ≠ 0 then
            s.portDo port fun q => { q with reserved := q.reserved ++ [(u.ctx, vc, n)] }
          else s

/-- VAURI_IDLE_SEND (R398). -/
def execVauriIdleSend (port : Nat) (s : State) : Host.Outcome State Fault Refusal :=
  done <|
    s.portDo port fun p =>
      if p.state ≠ 3 then p
      else
        p.emit { crcOk := true, seq := 0, kind := 0, ack := 0, nak := false, vc := 0, first := false, last := false, len := 0, crVc := 0, crCount := 0,
                 bind := 0, payload := [] }

/-! ## Replay (R399, R401) -/

/-- Send every unacknowledged flit again; one sent so for the eighth time makes the port retrain. -/
def Port.replayAll (p : Port) : Port :=
  let n := p.replay.length
  let r : List TxFlit := p.replay.map fun f => { f with replays := f.replays + 1 }
  let q := { p.count 4 n with out := p.out ++ p.replay.map fun f => flitBytes { f.flit with ack := p.lastRx }, replay := r }
  if r.any fun f => decide (8 ≤ f.replays) then (q.fault 1).retrainNow else q

/-- VAURI_REPLAY_TIMEOUT (R399). -/
def execVauriReplayTimeout (port : Nat) (s : State) : Host.Outcome State Fault Refusal :=
  done <| s.portDo port fun p => if p.state ≠ 3 ∨ p.replay.isEmpty then p else (p.count 5 1).replayAll

/-- VAURI_LOCK_LOST (R401). -/
def execVauriLockLost (port lane : Nat) (s : State) : Host.Outcome State Fault Refusal :=
  done <| s.portDo port fun p => if p.state ≠ 3 ∨ 16 ≤ lane then p else (p.fault 4).retrainNow

/-! ## Receiving (R398 to R400) -/

/-- Flits acknowledged leave the replay buffer (R399); the oldest is the first. -/
def Port.acked (p : Port) (ack : Nat) : Port :=
  match (enumFrom 0 p.replay).find? fun f => f.2.flit.seq == ack with
  | some f => { p with replay := p.replay.drop (f.1 + 1) }
  | none => p

/-- What a flit that arrives does before its content: CRC, protocol, acknowledgement, NAK, credit return, order. Answers whether its content
is taken. -/
def State.flitIn (s : State) (port : Nat) (f : Flit) : Bool × State :=
  match s.ports[port]? with
  | none => (false, s)
  | some p =>
    if p.state ≠ 3 then (false, s)
    else if !f.crcOk then
      (false, (s.detect (0x0130 + port) 1).portDo port fun p =>
        { p.count 2 1 with nakDue := true, crcTimes := (p.crcTimes.filter fun t => decide (s.refCount < t + 1000000000)) ++ [s.refCount] })
    else if 3 < f.kind ∨ 30 < f.len ∨ (f.kind ≠ 0 ∧ 5 < f.vc) then (false, (s.portDo port fun p => p.fault 3).portDown port 3 false)
    else if nth p.peerBuf f.crVc < nth p.credits f.crVc + f.crCount then (false, (s.portDo port fun p => p.fault 2).portDown port 2 false)
    else
      let s := s.portDo port fun p => { p.acked f.ack with credits := p.credits.set f.crVc (nth p.credits f.crVc + f.crCount) }
      let s := if f.nak then s.portDo port Port.replayAll else s
      if f.kind = 0 then (true, s)
      else if f.seq ≠ p.rxSeq then (false, s.portDo port fun p => { p with nakDue := true })
      else
        (true, s.portDo port fun p =>
          { p.count 1 1 with rxSeq := (p.rxSeq + 1) % 4096, owed := p.owed.set f.vc (nth p.owed f.vc + 1) })

/-- A flit of a unit joins it (R398, R400): none where FL_FIRST is missing or stands inside an open unit. -/
def Port.joinUnit (p : Port) (f : Flit) : Option Port :=
  let open_ := p.openUnits.find? fun u => u.1 == f.vc
  if f.first == open_.isSome then none
  else
    let l := (match open_ with | some u => u.2 | none => []) ++ f.payload
    let rest := p.openUnits.filter fun u => u.1 != f.vc
    some { p with openUnits := if f.last then rest else rest ++ [(f.vc, l)] }

/-- The content of a taken flit as part of its unit; a break of the unit protocol fails the link. -/
def State.flitJoin (s : State) (port : Nat) (f : Flit) (last : State → State) : State :=
  match s.ports[port]? with
  | none => s
  | some p =>
    match p.joinUnit f with
    | none => (s.portDo port fun p => p.fault 3).portDown port 3 false
    | some q =>
      let s := { s with ports := s.ports.set port q }
      if f.last then last s else s

/-- The context of the group that a port is bound to. -/
def State.bindCtx (s : State) (port : Nat) : Nat :=
  match s.ports[port]? with
  | none => 0
  | some p =>
    let keys := s.eddy.map Prod.fst ++ s.trade.map Prod.fst ++ s.expx.map Prod.fst ++ s.stageQ.map Prod.fst
    ((keys.find? fun k => k % 2 ^ 32 == p.bind).map fun k => k / 2 ^ 32).getD 0

/-- FLIT_DATA_RECEIVE (R398 to R400, R405): with its last flit a data unit is whole. What it carries lands by its protocol's own command (log 9),
which makes it visible and has it acknowledged (`State.landed`). A reserved kind arrives here and fails the link. -/
def execFlitDataReceive (port : Nat) (f : Flit) (s : State) : Host.Outcome State Fault Refusal :=
  done <|
    let f := flitSeen f
    if f.kind = 0 ∨ f.kind = 2 ∨ f.kind = 3 then s
    else
      let r := s.flitIn port f
      if !r.1 then r.2
      else r.2.flitJoin port f fun s => if 2 ≤ f.vc then s.portDo port fun p => { p with toAck := p.toAck ++ [(s.bindCtx port, f.vc)] } else s

/-- FLIT_SIGNAL_RECEIVE (R323, R404). -/
def execFlitSignalReceive (port : Nat) (f : Flit) (s : State) : Host.Outcome State Fault Refusal :=
  done <|
    let f := flitSeen f
    if f.kind ≠ 2 then s
    else
      let r := s.flitIn port f
      if !r.1 then r.2
      else
        r.2.flitJoin port f fun s =>
          let l := f.payload
          (s.signalApply (field l 0 2) (field l 2 2) (field l 4 4) (field l 8 2) (field l 10 1) (field l 16 8)).landAck port (.signal (field l 4 4))

/-- A unit of a context has landed at the peer: it was sent on this port, or on another to the same module that has gone down (R405; log 125). -/
def State.unitLanded (s : State) (port c : Nat) : State :=
  match s.ports[port]? with
  | none => s
  | some p =>
    if p.unlanded.contains c then s.portDo port fun p => { p with unlanded := p.unlanded.erase c }
    else match (enumFrom 0 s.ports).find? fun q => q.2.peerValid && q.2.peerId == p.peerId && q.2.unlanded.contains c with
      | some q => s.portDo q.1 fun p => { p with unlanded := p.unlanded.erase c }
      | none => s

/-- FLIT_LAND_ACK_RECEIVE (R404, R405). -/
def execFlitLandAckReceive (port : Nat) (f : Flit) (what : Landed) (s : State) : Host.Outcome State Fault Refusal :=
  done <|
    let f := flitSeen f
    if f.kind ≠ 3 then s
    else
      let r := s.flitIn port f
      if !r.1 then r.2
      else
        r.2.flitJoin port f fun s =>
          match what with
          | .signal n =>
            let peer := ((s.ports[port]?).map Port.peerId).getD 0
            { s with rsOut := kvMap (fun k e => if k = peer then (e.1, e.2.filter fun x => x.num != n) else e) s.rsOut }
          | .unit c => s.unitLanded port c

/-- FLIT_IDLE_RECEIVE (R398). -/
def execFlitIdleReceive (port : Nat) (f : Flit) (s : State) : Host.Outcome State Fault Refusal :=
  done <| if (flitSeen f).kind ≠ 0 then s else (s.flitIn port (flitSeen f)).2

/-! ## Training (R395, R401) -/

/-- VAURI_TRAIN_ATTEMPT (R395). -/
def execVauriTrainAttempt (port : Nat) (s : State) : Host.Outcome State Fault Refusal :=
  done <| s.portDo port fun p => if p.state = 2 && !p.started then { p with started := true, attempt := p.attempt + 1 } else p

/-- The identity exchange is over and the port is UP (R395 steps 5 and 6); after a retrain the link's state stands and replay resumes,
each flit's replays counted anew (R401, log 104). -/
def Port.trained (p : Port) (o : TrainOutcome) : Port :=
  let q := { p with state := 3, started := false, attempt := 0, peerId := o.peerId, peerPort := o.peerPort, peerValid := true,
                    peerClass := o.peerClass, inverted := o.inverted, failedLanes := 0 }
  if p.retrain then
    let r : List TxFlit := q.replay.map fun f => { f with replays := 0 }
    { (({ q with replay := r } : Port).count 6 1).replayAll with retrain := false }
  else
    { q with credits := o.buffers, peerBuf := o.buffers, owed := vcBuffers.map fun _ => 0, txSeq := 0, rxSeq := 0,
             unlanded := if p.peerId = o.peerId then p.unlanded else [], toAck := if p.peerId = o.peerId then p.toAck else [] }

/-- VAURI_TRAIN_ATTEMPT_END (R395, R401, R402). -/
def execVauriTrainAttemptEnd (port : Nat) (o : TrainOutcome) (s : State) : Host.Outcome State Fault Refusal :=
  done <|
    match s.ports[port]? with
    | none => s
    | some p =>
      if p.state ≠ 2 ∨ !p.started then s
      else if o.pass then
        let lo := s.fresh
        let hi := lo.2.fresh
        (hi.2.portDo port fun p => { p.trained o with snrLo := lo.1, snrHi := hi.1 }).post 0x0A11 noCtx (leBytes 1 port ++ zeros 1 ++ leBytes 2 o.peerId)
      else
        let s := s.portDo port fun p => { p with started := false, failedLanes := o.failedLanes, inverted := o.inverted }
        if p.attempt < 3 then s
        else
          let s := (s.portDo port fun p => p.fault 0).post 0x0A12 noCtx (leBytes 1 port ++ zeros 1 ++ leBytes 2 o.failedLanes.toNat)
          s.portDown port 0 false

/-- VAURI_BER_CHECK (R410): CRC errors of the last second above the limit, posted at most once a second. -/
def execVauriBerCheck (port : Nat) (s : State) : Host.Outcome State Fault Refusal :=
  done <|
    match s.ports[port]? with
    | none => s
    | some p =>
      let n := (p.crcTimes.filter fun t => decide (s.refCount < t + 1000000000)).length
      let recent : Bool := match p.berPosted with | some t => decide (s.refCount < t + 1000000000) | none => false
      if p.berLimit ≠ 0 && decide (p.berLimit < n) && !recent then
        (s.portDo port fun p => { p with berPosted := some s.refCount }).post 0x0A14 noCtx (leBytes 1 port ++ zeros 7 ++ leBytes 8 n)
      else s

/-! ## Registers of the block (R395, R401, R402, R406, R411) -/

/-- VL_MODULE_ID: a write is ignored while a port trains or is up, and journalled otherwise (R406). -/
def State.setModuleId (s : State) (v : Nat) : State :=
  if s.ports.any fun p => p.state == 2 || p.state == 3 then { s with vl := { s.vl with err := s.vl.err ||| 1#2 } }
  else
    let old := s.vl.moduleId
    ({ s with vl := { s.vl with moduleId := v % 65536, valid := bitOf v 16 } } : State).journal 0x0002 false noCtx
      (leBytes 2 old ++ leBytes 2 (v % 65536))

/-- One port's bit of VL_ENABLE changes: training starts, or the port goes to DISABLED. -/
def State.setEnable1 (s : State) (v p : Nat) : State :=
  match s.ports[p]? with
  | none => s
  | some q =>
    let was := s.vl.enable.getLsbD p
    let now := bitOf v p
    if q.state = 1 ∨ was = now then s
    else if now then
      if s.vl.valid then s.portDo p fun q => { q with state := 2, retrain := false, attempt := 0, started := false }
      else { s with vl := { s.vl with err := s.vl.err ||| 2#2 } }
    else if q.state = 0 then s
    else if q.state = 4 then s.portDo p fun q => { q with state := 0 }
    else s.portDown p 0xFF true

/-- VL_ENABLE (R395, R411). -/
def State.setEnable (s : State) (v : Nat) : State :=
  let t := (List.range 16).foldl (fun s p => s.setEnable1 v p) s
  { t with vl := { t.vl with enable := BitVec.ofNat 16 v } }

/-- VP_RETRAIN (R401). -/
def State.setRetrain (s : State) (p v : Nat) : State :=
  if v % 2 = 1 then s.portDo p fun q => if q.state = 3 then q.retrainNow else q else s

end Sys2Proof.Machine
end

