-- ==== Sys2Proof/Machine/Registers.lean ====
section
/-! DEFINITION. Configuration space (21_register_reference R462 to R468, 16_host_attachment R386, 17 R411), doorbells and notifications
(R388 to R390), the host's transactions and the sideband (R381 to R384), UCIe training (R379, R380). -/
namespace Sys2Proof.Machine

/-! ## The map (R462) -/

/-- Is an offset of configuration space decoded? The recovery window is, in recovery mode only. -/
def State.decoded (s : State) (o : Nat) : Bool :=
  decide (o < 0x1000) || decide (0x1_0000 ≤ o ∧ o < 0x1_1000) || decide (0x2_0000 ≤ o ∧ o < 0x2_2000)
    || (decide (0x3_0000 ≤ o ∧ o < 0x3_9000) && s.hi.bootStage == 2) || decide (0x4_0000 ≤ o ∧ o < 0x4_5000)
    || decide (0x5_0000 ≤ o ∧ o < 0x6_0000) || decide (0x8_0000 ≤ o ∧ o < 0x14_0000) || decide (0x100_0000 ≤ o ∧ o < 0x200_0000)

/-! ## Reading registers -/

/-- Identification (R464). -/
def State.idRead (s : State) (o : Nat) : Nat :=
  match o with
  | 0x000 => 0x5A4E_4944
  | 0x008 => s.ident.order.code
  | 0x010 => s.ident.order.hbm + 2 ^ 16 * s.ident.order.lpGiB
  | 0x018 => s.ident.serial.toNat % 2 ^ 64
  | 0x020 => s.ident.serial.toNat / 2 ^ 64
  | 0x028 => s.ident.stepping % 65536
  | 0x030 => (s.fw.running.map Manifest.release).getD 0
  | 0x038 => s.refCount
  | _ => 0

/-- `LINK_UP` as HI_STATUS tells it: while the adapter retrains after a fault it stays, until every attempt has failed (R380). -/
def State.linkShown (s : State) : Bool := s.hi.linkUp || (match s.hi.train with | some t => t.fault | none => false)

/-- The host interface block with queue control (R386, R465), nothing cleared. HI_CLASS tells the class the module was made for, also after
a start with an image of another MF_CLASS, of which the spec does not say (R8; log 118). -/
def State.hiRead (s : State) (o : Nat) : Nat :=
  match o with
  | 0x000 => s.hi.bootStage + 2 ^ 4 * b2n s.linkShown + 2 ^ 5 * (if s.linkShown then s.hi.rate else 0) + 2 ^ 7 * b2n s.hi.mqEnabled
  | 0x008 => s.ident.cls
  | 0x010 => s.hi.rateMax
  | 0x020 => s.hi.winBase
  | 0x028 => s.hi.winSize
  | 0x030 => s.hi.mqRqBase
  | 0x038 => s.hi.mqRqSlots
  | 0x040 => b2n s.hi.mqEnabled
  | 0x048 => b2n s.hi.ntEnable
  | 0x058 => s.hi.err.toNat
  | 0x060 => s.hi.crcRetry
  | 0x068 => s.hi.retrains
  | 0x100 => s.evq.write
  | 0x108 => s.evq.read
  | 0x110 => s.evq.lost
  | 0x118 => s.trq.write
  | 0x120 => s.trq.read
  | 0x128 => s.trq.lost
  | 0x130 => s.tqEnable.toNat
  | 0x138 => s.jrq.write
  | 0x140 => s.jrq.read
  | 0x148 => s.jrq.lost
  | _ => 0

/-- The Vauri module block (R411). -/
def State.vlRead (s : State) (o : Nat) : Nat :=
  match o with
  | 0x000 => s.vl.moduleId + 2 ^ 16 * b2n s.vl.valid
  | 0x008 => 2 ^ s.ident.order.ports - 1
  | 0x010 => s.vl.enable.toNat
  | 0x018 => ((enumFrom 0 s.ports).map fun p => if p.2.state = 3 then 2 ^ p.1 else 0).sum
  | 0x020 => s.vl.err.toNat
  | _ => 0

/-- A port's block (R411). -/
def Port.read (p : Port) (o : Nat) : Nat :=
  match o with
  | 0x000 => p.state % 8 + 2 ^ 3 * (p.peerId % 2 ^ 16) + 2 ^ 19 * (p.peerPort % 16) + 2 ^ 23 * b2n p.peerValid + 2 ^ 24 * (p.use % 16)
  | 0x008 => p.bind
  | 0x010 => p.peerClass
  | 0x018 => p.inverted.toNat + 2 ^ 16 * p.failedLanes.toNat
  | 0x020 => p.snrLo.toNat
  | 0x028 => p.snrHi.toNat
  | 0x030 => p.berLimit
  | 0x040 => p.err.toNat
  | 0x048 => p.cntOvf.toNat
  | _ => if 0x080 ≤ o ∧ o < 0x0C0 then nth p.counters ((o - 0x080) / 8) else 0

/-- A context's queue block (R467): zero where the context, or an enabled management queue, does not exist. -/
def State.cqRead (s : State) (c o : Nat) : Nat :=
  match kvGet c s.queues with
  | none => 0
  | some q =>
    match o with
    | 0x00 => q.cqBase
    | 0x08 => q.cqSlots
    | 0x10 => q.cqTail
    | 0x18 => q.cqSeq
    | 0x20 => if c = 0 then s.hi.mqRqBase else q.rqBase
    | 0x28 => if c = 0 then s.hi.mqRqSlots else q.rqSlots
    | 0x30 => q.rqHead
    | 0x38 => b2n q.rqErr
    | _ => 0

/-- The 64 bytes of a queue entry (R330). -/
def QEntry.bytes (e : QEntry) : List Byte := leBytes 8 e.seq ++ leBytes 8 e.time ++ leBytes 2 e.code ++ leBytes 2 e.ctx ++ e.data

/-- Eight bytes of a queue's window: entry n lies in slot n mod 4,096 (R462). -/
def EvQueue.readWindow (q : EvQueue) (o : Nat) : Nat :=
  match q.entries.find? fun e => e.seq % 4096 == o / 64 with
  | some e => field e.bytes (o % 64) 8
  | none => 0

/-- A decoded 64-bit register or window word, nothing cleared; wo registers and doorbells read as zero (R10, log 43). -/
def State.regPeek (s : State) (o : Nat) : Nat :=
  if o < 0x1_0000 then s.idRead o
  else if o < 0x2_0000 then s.hiRead (o - 0x1_0000)
  else if o < 0x3_0000 then 0
  else if o < 0x4_0000 then s.recRead (o - 0x3_0000)
  else if o < 0x4_1000 then s.vlRead (o - 0x4_0000)
  else if o < 0x5_0000 then (match s.ports[(o - 0x4_1000) / 0x400]? with | some p => p.read ((o - 0x4_1000) % 0x400) | none => 0)
  else if o < 0x8_0000 then s.cqRead ((o - 0x5_0000) / 0x40) (o % 0x40)
  else if o < 0xC_0000 then s.evq.readWindow (o - 0x8_0000)
  else if o < 0x10_0000 then s.trq.readWindow (o - 0xC_0000)
  else if o < 0x14_0000 then s.jrq.readWindow (o - 0x10_0000)
  else leNat (s.physRead (cfgBase + o) 8)

/-- Clear a lost counter (R331). -/
def State.lostClear (s : State) (q : LostQ) : State :=
  match q with
  | .eq => { s with evq := { s.evq with lost := 0 } }
  | .tq => { s with trq := { s.trq with lost := 0 } }
  | .jq => { s with jrq := { s.jrq with lost := 0 } }

/-- The rc registers: the three lost counters (R465). -/
def rcReg (o : Nat) : Option LostQ :=
  match o with
  | 0x1_0110 => some .eq
  | 0x1_0128 => some .tq
  | 0x1_0148 => some .jq
  | _ => none

/-- The offset of a lost counter. -/
def lostOffset : LostQ → Nat
  | .eq => 0x1_0110
  | .tq => 0x1_0128
  | .jq => 0x1_0148

/-- Read a register; an rc register clears (R10). -/
def State.regRead (s : State) (o : Nat) : Nat × State :=
  (s.regPeek o, match rcReg o with | some q => s.lostClear q | none => s)

/-! ## Writing registers -/

/-- Training ordered by `HI_RETRAIN` (R379); the link is down until an attempt passes. -/
def State.setHiRetrain (s : State) (v : Nat) : State :=
  if v % 2 = 0 then s
  else
    let again : Bool := s.hi.linkUp || s.hi.lost || (match s.hi.train with | some t => t.again | none => false)
    ({ s with hi := { s.hi with linkUp := false } } : State).ucieStart again

/-- May the host window not change: management queue enabled, or any context (R386)? -/
def State.winBusy (s : State) : Bool := s.hi.mqEnabled || !s.ctxs.isEmpty

/-- `HI_WIN_BASE` and `HI_WIN_SIZE` (R386); a size above 4,096 GiB is ignored (log 43). -/
def State.setWin (s : State) (size : Bool) (v : Nat) : State :=
  if s.winBusy then s.hiErr 0
  else if size then (if 4096 < v % 2 ^ 13 then s else { s with hi := { s.hi with winSize := v % 2 ^ 13 } })
  else { s with hi := { s.hi with winBase := bits v 12 36 * 4096 } }

/-- Is the management reply ring legal (R386)? -/
def State.mqOk (s : State) : Bool :=
  s.hi.bootStage == 4 && slotsOk s.hi.mqRqSlots && s.hi.mqRqBase % 64 == 0 && s.inHost s.hi.mqRqBase (64 * s.hi.mqRqSlots)

/-- `MQ_ENABLE` (R386, R468): the IDLE item is written first. -/
def State.setMqEnable (s : State) (v : Nat) : State :=
  if v % 2 = 0 ∨ s.hi.mqEnabled then s
  else if !s.mqOk then s.hiErr 1
  else
    let s := s.physWrite s.hi.mqRqBase (idleItem 0)
    { s with queues := kvSet 0 (QueueRec.start cqWindow 1024 s.hi.mqRqBase s.hi.mqRqSlots) s.queues, hi := { s.hi with mqEnabled := true } }

/-- All sources of notifications: contexts 0 to 1,023 and the event queue. -/
def ntSources : List Nat := List.range 1025

/-- `NT_ENABLE` (R390). -/
def State.setNtEnable (s : State) (v : Nat) : State :=
  if v % 2 = 1 then { s with hi := { s.hi with ntEnable := true }, nt := { armed := ntSources, counts := [] } }
  else { s with hi := { s.hi with ntEnable := false }, nt := { armed := [], counts := [] } }

/-- `NT_ACK` (R390): re-arm a source, or send what it has coalesced. -/
def State.setNtAck (s : State) (v : Nat) : State :=
  let v := v % 65536
  let src := if v = 0xFFFF then srcEvents else v
  if !s.hi.ntEnable ∨ (v ≠ 0xFFFF ∧ 1024 ≤ v) then s
  else
    let n := kvGetD src s.nt.counts 0
    if n = 0 then { s with nt := { s.nt with armed := insNat src s.nt.armed } }
    else
      ({ s with nt := { armed := s.nt.armed.filter (· != src), counts := kvDel src s.nt.counts } } : State).notifySend
        (if src = srcEvents then 1 else 0) src n

/-- A doorbell (R388). -/
def State.ringBell (s : State) (c : Nat) : State :=
  match kvGet c s.queues with
  | none => s.hiErr 2
  | some q => { s with queues := kvSet c { q with bell := true } s.queues }

/-- `RQ_HEAD` (R468): accepted where it does not pass the IDLE item's slot. -/
def State.setRqHead (s : State) (c v : Nat) : State :=
  match kvGet c s.queues with
  | none => s
  | some q =>
    let i := v % 65536
    let fwd (x : Nat) : Nat := (x + q.rqSlots - q.rqHead) % q.rqSlots
    if i < q.rqSlots ∧ fwd i ≤ fwd q.idle then { s with queues := kvSet c { q with rqHead := i } s.queues }
    else { s with queues := kvSet c { q with rqErr := true } s.queues }

/-- Write the host interface block (R386, R465). -/
def State.hiWrite (s : State) (o v : Nat) : State :=
  match o with
  | 0x010 => { s with hi := { s.hi with rateMax := v % 4 } }
  | 0x018 => s.setHiRetrain v
  | 0x020 => s.setWin false v
  | 0x028 => s.setWin true v
  | 0x030 => { s with hi := { s.hi with mqRqBase := bits v 6 42 * 64 } }
  | 0x038 => { s with hi := { s.hi with mqRqSlots := v % 2 ^ 17 } }
  | 0x040 => s.setMqEnable v
  | 0x048 => s.setNtEnable v
  | 0x050 => s.setNtAck v
  | 0x058 => { s with hi := { s.hi with err := s.hi.err &&& ~~~(BitVec.ofNat 6 v) } }
  | 0x108 => { s with evq := { s.evq with read := v } }
  | 0x120 => { s with trq := { s.trq with read := v } }
  | 0x130 => { s with tqEnable := BitVec.ofNat 8 v }
  | 0x140 => { s with jrq := { s.jrq with read := v } }
  | _ => s

/-- Write the Vauri module block (R411). -/
def State.vlWrite (s : State) (o v : Nat) : State :=
  match o with
  | 0x000 => s.setModuleId v
  | 0x010 => s.setEnable v
  | 0x020 => { s with vl := { s.vl with err := s.vl.err &&& ~~~(BitVec.ofNat 2 v) } }
  | _ => s

/-- Write a port's block (R411). -/
def State.vpWrite (s : State) (p o v : Nat) : State :=
  match o with
  | 0x030 => s.portDo p fun q => { q with berLimit := v % 2 ^ 32 }
  | 0x038 => s.setRetrain p v
  | 0x040 => s.portDo p fun q => { q with err := q.err &&& ~~~(BitVec.ofNat 5 v) }
  | 0x048 => s.portDo p fun q => { q with cntOvf := q.cntOvf &&& ~~~(BitVec.ofNat 8 v) }
  | _ => s

/-- Write a context's queue block (R467, R468). -/
def State.cqWrite (s : State) (c o v : Nat) : State :=
  match o with
  | 0x30 => s.setRqHead c v
  | 0x38 =>
    if v % 2 = 1 then { s with queues := kvMap (fun k q => if k = c then { q with rqErr := false } else q) s.queues } else s
  | _ => s

/-- Write a decoded 64-bit register or window word (R10, R463). -/
def State.regWrite (s : State) (o v : Nat) : State :=
  if o < 0x1_0000 then s
  else if o < 0x2_0000 then s.hiWrite (o - 0x1_0000) v
  else if o < 0x3_0000 then s.ringBell ((o - 0x2_0000) / 8)
  else if o < 0x4_0000 then s.recWrite64 (o - 0x3_0000) v
  else if o < 0x4_1000 then s.vlWrite (o - 0x4_0000) v
  else if o < 0x5_0000 then s.vpWrite ((o - 0x4_1000) / 0x400) ((o - 0x4_1000) % 0x400) v
  else if o < 0x8_0000 then s.cqWrite ((o - 0x5_0000) / 0x40) (o % 0x40) v
  else if o < 0x14_0000 then s
  else s.physWrite (cfgBase + o) (leBytes 8 v)

/-- Is the module out of reset, so that its registers answer? -/
def State.awake (s : State) : Bool := s.hi.bootStage != 0

/-- A register command while the module is out of reset. -/
def State.whenAwake (s : State) (f : State → State) : State := if s.awake then f s else s

/-- VL_MODULE_ID_WRITE, VL_ENABLE_WRITE, VP_RETRAIN_WRITE (R395, R401, R406, R411). -/
def execVlModuleIdWrite (v : W64) (s : State) : Host.Outcome State Fault Refusal := done (s.whenAwake fun s => s.setModuleId v.toNat)
def execVlEnableWrite (v : W64) (s : State) : Host.Outcome State Fault Refusal := done (s.whenAwake fun s => s.setEnable v.toNat)
def execVpRetrainWrite (p : Nat) (v : W64) (s : State) : Host.Outcome State Fault Refusal := done (s.whenAwake fun s => s.setRetrain p v.toNat)

/-- DOORBELL_WRITE (R388). -/
def execDoorbellWrite (c : Nat) (s : State) : Host.Outcome State Fault Refusal := done (s.whenAwake fun s => s.ringBell c)

/-- RQ_HEAD_WRITE (R468). -/
def execRqHeadWrite (c : Nat) (v : W64) (s : State) : Host.Outcome State Fault Refusal := done (s.whenAwake fun s => s.setRqHead c v.toNat)

/-- HI_RETRAIN_WRITE (R379). -/
def execHiRetrainWrite (v : W64) (s : State) : Host.Outcome State Fault Refusal := done (s.whenAwake fun s => s.setHiRetrain v.toNat)

/-- HI_WIN_WRITE (R386). -/
def execHiWinWrite (size : Bool) (v : W64) (s : State) : Host.Outcome State Fault Refusal := done (s.whenAwake fun s => s.setWin size v.toNat)

/-- MQ_ENABLE_WRITE (R386, R468). -/
def execMqEnableWrite (v : W64) (s : State) : Host.Outcome State Fault Refusal := done (s.whenAwake fun s => s.setMqEnable v.toNat)

/-- NT_ENABLE_WRITE (R390). -/
def execNtEnableWrite (v : W64) (s : State) : Host.Outcome State Fault Refusal := done (s.whenAwake fun s => s.setNtEnable v.toNat)

/-- NT_ACK_WRITE (R390). -/
def execNtAckWrite (v : W64) (s : State) : Host.Outcome State Fault Refusal := done (s.whenAwake fun s => s.setNtAck v.toNat)

/-- REGISTER_WRITE (R10, R463): `offset` in configuration space; an undecoded one is discarded with UNDECODED (R381). -/
def execRegisterWrite (offset : Nat) (v : W64) (s : State) : Host.Outcome State Fault Refusal :=
  done <| s.whenAwake fun s =>
    let o := offset / 8 * 8
    if s.decoded o then s.regWrite o v.toNat else s.hiErr 5

/-! ## Transactions of the host die (R381 to R383) -/

/-- A completion to the host die, behind what is already sent. -/
def State.complete (s : State) (tag status : Nat) (l : List Byte) : State :=
  { s with hi := { s.hi with out := s.hi.out ++ [(HostTx.completion tag status l).wire] } }

/-- LOST_COUNTER_READ (R331, R463): the counter is returned and cleared. -/
def execLostCounterRead (which : LostQ) (tag : Nat) (s : State) : Host.Outcome State Fault Refusal :=
  done <|
    if !s.hi.linkUp then s
    else
      let r := s.regRead (lostOffset which)
      r.2.complete tag 0 (leBytes 8 r.1)

/-- Offsets of the 64-bit words of a range. -/
def regOffs (o n : Nat) : List Nat := (List.range (n / 8)).map fun i => o + 8 * i

/-- Is every byte of a range of configuration space decoded, and the range aligned (R463, log 43)? -/
def State.cfgOkRange (s : State) (o n : Nat) : Bool := o % 8 == 0 && (regOffs o n).all s.decoded

/-- Does an address lie in configuration space? -/
def inCfg (a : Nat) : Bool := decide (cfgBase ≤ a ∧ a < cfgBase + 2 ^ 32)

/-- Does a host transaction reach memory at an address: a populated region that is neither host memory nor configuration space? -/
def Region.hostReach : Region → Bool
  | .mgmt | .inter | .hot | .local _ | .lp | .core _ | .cq => true
  | .host | .cfg | .none => false

/-- Is every 8-byte word of a range in memory that the host reaches? -/
def State.reachRange (s : State) (a n : Nat) : Bool := (regOffs (a / 8 * 8) (n + 8)).all fun w => decide (a + n ≤ w) || (s.region w).hostReach

/-- Write 64-bit words to successive registers. -/
def State.regWrites (s : State) : Nat → List (List Byte) → State
  | _, [] => s
  | o, w :: t => State.regWrites (s.regWrite o (leNat w)) (o + 8) t

/-- The sectors that a write of a range covers in part: it reads them first (R188). -/
def partialSectors (a n : Nat) : List (Nat × Nat) :=
  (((List.range ((a + n + 63) / 64 - a / 64)).map fun i => 64 * (a / 64 + i)).filter fun p => decide (p < a ∨ a + n < p + 64)).map fun p => (p, 64)

/-- HOST_WRITE_TRANSACTION (R381, R382, R463): 8 to 224 bytes in eights, while the link is up; every hot-set slot that it reaches is dirty (R201). -/
def execHostWriteTransaction (addr : Nat) (data : List Byte) (errs : List SectorErr) (s : State) : Host.Outcome State Fault Refusal :=
  done <|
    if !s.hi.linkUp || data.length % 8 != 0 || decide (224 < data.length) then s
    else if inCfg addr then
      if s.cfgOkRange (addr - cfgBase) data.length then s.regWrites (addr - cfgBase) (chunks 8 28 data) else s.hiErr 5
    else if s.reachRange addr data.length then
      (((s.recoverErrs noCtx (partialSectors addr data.length) errs).dirtySlot addr).dirtySlot (addr + (data.length - 1))).physWrite addr data
    else s.hiErr 5

/-- Read successive registers, clearing what clears. -/
def regReads : List Nat → State → List Byte × State
  | [], s => ([], s)
  | o :: t, s =>
    let r := s.regRead o
    let q := regReads t r.2
    (leBytes 8 r.1 ++ q.1, q.2)

/-- HOST_READ_REQUEST (R381, R382, R463): `len` words of eight bytes; status 1 where nothing decodes, 2 where a sector is poisoned. A
read of a sector whose recovery is in progress is not applied yet (R413). -/
def execHostReadRequest (addr len tag : Nat) (errs : List SectorErr) (s : State) : Host.Outcome State Fault Refusal :=
  done <|
    let n := 8 * len
    if !s.hi.linkUp || decide (28 < len) then s
    else if inCfg addr then
      if s.cfgOkRange (addr - cfgBase) n then
        let r := regReads (regOffs (addr - cfgBase) n) s
        r.2.complete tag 0 r.1
      else s.complete tag 1 (zeros n)
    else if !s.reachRange addr n then s.complete tag 1 (zeros n)
    else
      let s := s.recoverErrs noCtx [(addr, n)] errs
      if s.rebuildDue [(addr, n)] then s
      else if (s.firstPoison addr n).isSome then s.complete tag 2 (zeros n) else s.complete tag 0 (s.physRead addr n)

/-- The physical address of a host-die address that the window shows. -/
def State.winPa (s : State) (a : Nat) : Nat := hostBase + (a - s.hi.winBase)

/-- HOST_READ_COMPLETION (R383, R185): the part is there for the reader that waits for it. Good data are what the module has seen of host memory; a refused read is issued again twice; then, or
where the host sent poison, its sectors are poisoned. -/
def execHostReadCompletion (tag status : Nat) (data : List Byte) (s : State) : Host.Outcome State Fault Refusal :=
  done <|
    match kvGet tag s.hi.reads with
    | none => s
    | some r =>
      let part := (r.1, r.2.1)
      let s := { s with hi := { s.hi with reads := kvDel tag s.hi.reads, want := [] } }
      let took (s : State) : State := { s with hi := { s.hi with got := s.hi.got.filter (· != part) ++ [part] } }
      let secs := sectorsOf (s.winPa r.1) r.2.1
      if status = 0 then
        took { s with hi := { s.hi with view := viewWrite s.hi.view r.1 (padTo r.2.1 (data.take r.2.1)) }
                      poison := s.poison.filter fun k => !secs.contains k }
      else
        let s := s.hiErr 4
        if status = 1 ∧ r.2.2 < 2 then (s.detect 0x0141 1).hostRead1 r.1 r.2.1 (r.2.2 + 1)
        else took (secs.foldl (fun s k => ((s.setPoison k).markHw k).hostReadFail k) s)

/-! ## The sideband (R384, R463) -/

/-- The places that the sideband reaches. -/
def State.sbReach (s : State) (o : Nat) : Bool :=
  decide (0x1_0000 ≤ o ∧ o < 0x1_1000) || decide (0x8_0000 ≤ o ∧ o < 0xC_0000)
    || (decide (0x3_0000 ≤ o ∧ o < 0x3_9000) && s.hi.bootStage == 2)

/-- Registers whose write acts from bit 0 alone, so that a write to the upper half does nothing (R463). -/
def actsFromBit0 (o : Nat) : Bool :=
  [0x1_0018, 0x1_0040, 0x1_0048, 0x1_0050, 0x1_0058, 0x3_0010].contains o

/-- Write one half of a register: the other half of a rw register stays. -/
def State.halfWrite (s : State) (o : Nat) (upper : Bool) (v : Nat) : State :=
  let v := v % 2 ^ 32
  if actsFromBit0 o then (if upper then s else s.regWrite o v)
  else
    let old := s.regPeek o
    s.regWrite o (if upper then old % 2 ^ 32 + 2 ^ 32 * v else old / 2 ^ 32 * 2 ^ 32 + v)

/-- SIDEBAND_ACCESS (R384, R463): a 64-bit access, or one half of a register; elsewhere an error and no effect. -/
def execSidebandAccess (write : Bool) (addr : Nat) (wide : Bool) (value : W64) (s : State) : Host.Outcome State Fault Refusal :=
  done <| s.whenAwake fun s =>
    let o := addr - cfgBase
    let base := o / 8 * 8
    let reply (s : State) (ok : Bool) (v : Nat) : State := { s with hi := { s.hi with sbOut := s.hi.sbOut ++ [(ok, BitVec.ofNat 64 v)] } }
    if !inCfg addr || !s.sbReach o || (wide && o % 8 != 0) || o % 4 != 0 then reply s false 0
    else
      match write, wide with
      | true, true => reply (s.regWrite o value.toNat) true 0
      | true, false => reply (s.halfWrite base (o % 8 == 4) value.toNat) true 0
      | false, true =>
        let r := s.regRead o
        reply r.2 true r.1
      | false, false =>
        if o % 8 = 4 then reply s true (s.regPeek base / 2 ^ 32)
        else
          let r := s.regRead base
          reply r.2 true (r.1 % 2 ^ 32)

/-! ## UCIe training (R379, R380) -/

/-- Raise a 64-bit register that sticks. -/
def stick (v n : Nat) : Nat := min (v + n) (2 ^ 64 - 1)

/-- UCIE_FLIT_REPLAY (R380): time alone, and the counter. -/
def execUcieFlitReplay (flits : Nat) (s : State) : Host.Outcome State Fault Refusal :=
  done <|
    if !s.hi.linkUp then s
    else ({ s with hi := { s.hi with crcRetry := stick s.hi.crcRetry flits } } : State).detect 0x0141 flits

/-- UCIE_LINK_FAULT (R380): training again at the current rate; what is issued meanwhile is held. -/
def execUcieLinkFault (s : State) : Host.Outcome State Fault Refusal :=
  done <|
    if !s.hi.linkUp then s
    else
      let t : UcieTrain := { rate := s.hi.rate, fault := true, attempt := 0, highest := s.hi.rate, again := true, started := false }
      { s with hi := { s.hi with linkUp := false, train := some t } }

/-- UCIE_TRAIN_ATTEMPT (R379, R380): attempts after the first training count in `HI_RETRAINS`. -/
def execUcieTrainAttempt (s : State) : Host.Outcome State Fault Refusal :=
  done <|
    match s.hi.train with
    | none => s
    | some t =>
      if t.started || !s.awake then s
      else
        { s with hi := { s.hi with train := some { t with started := true, attempt := t.attempt + 1 },
                                   retrains := if t.again then stick s.hi.retrains 1 else s.hi.retrains } }

/-- Write the replies that the lost link held (R380). -/
def State.releaseHeld (s : State) : State :=
  s.held.foldl (fun s r => s.replyWrite r.head r.opcode r.slots r.status r.results) { s with held := [] }

/-- What host memory holds once a held transaction has been sent. -/
def viewSent (v : KV Byte) : HostTx → KV Byte
  | .write a l => viewWrite v a l
  | .read .. | .completion .. | .notify .. => v

/-- The link is up: what was held for replay leaves once, in order; after a retrain the NOTIFY of kind 2 and the held replies (R380, R390). -/
def State.ucieUp (s : State) (t : UcieTrain) : State :=
  let hi := { s.hi with
    linkUp := true, rate := t.rate, train := none, lost := false, downPosted := false, out := s.hi.out ++ s.hi.replay.map HostTx.wire,
    view := s.hi.replay.foldl viewSent s.hi.view, replay := [] }
  let s := { s with hi := hi }
  if !t.again then s
  else (if s.hi.ntEnable then s.notifySend 2 srcEvents 0 else s).releaseHeld.orderedReset

/-- What a link that cannot be trained again loses (R380): writes in flight, with their event once; reads in flight, each a detected error. -/
def State.ucieDrop (s : State) : State :=
  let writes := s.hi.replay.any fun x => match x with | .write _ _ => true | .read .. => false | .completion .. => false | .notify _ => false
  let secs := s.hi.reads.flatMap fun r => sectorsOf (s.winPa r.2.1) r.2.2.1
  let s := { s with hi := { s.hi with lost := true, train := none, replay := [], reads := [], got := [], want := [] } }
  let s := if writes then ({ s with hi := { s.hi with downPosted := true } } : State).post 0x0A02 noCtx (leBytes 1 1) else s
  secs.foldl State.hostReadFail s

/-- One attempt to train has ended (R379, R380). -/
def State.ucieEnd (s : State) (t : UcieTrain) (pass : Bool) : State :=
  if pass then s.ucieUp t
  else if t.fault then
    if t.attempt < 3 then { s with hi := { s.hi with train := some { t with started := false } } }
    else ((s.hiErr 3).post 0x0A02 noCtx (leBytes 1 0)).ucieDrop
  else if 1 < t.rate then { s with hi := { s.hi with train := some { t with started := false, rate := t.rate - 1 } } }
  else
    let s := ({ s with hi := { s.hi with train := none } } : State).post 0x0A01 noCtx (leBytes 1 t.highest)
    if t.again then s.ucieDrop else s

/-- UCIE_TRAIN_ATTEMPT_END (R379, R380): a start that waited for the end of training reaches `BOOT_STAGE` 4 (R435 step 8). -/
def execUcieTrainAttemptEnd (pass : Bool) (s : State) : Host.Outcome State Fault Refusal :=
  done <|
    match s.hi.train with
    | none => s
    | some t =>
      if !t.started then s
      else
        let u := s.ucieEnd t pass
        if u.hi.bootStage = 3 && u.hi.train.isNone then u.startReady else u

end Sys2Proof.Machine
end

