-- ==== Sys2Proof/Machine/Packets.lean ====
section
/-! DEFINITION. Packets in the submission rings (13_sync R326, R327; 15_command_protocol R354 to R361): PACKET_ACCEPT reads a packet from
its ring, checks it and runs the command that it spells. -/
namespace Sys2Proof.Machine

/-! ## Fields (R359, R361) -/

/-- Width of one list member. -/
def many (n w : Nat) : List Nat := List.replicate n w

/-- Parameter widths of an opcode in packing order (R359 and the tables it names); `n` is the group size that the parameters give. -/
def pktWidths (op n : Nat) : Option (List Nat) :=
  match op with
  | 0x0101 => some [10, 2, 2, 16, 64, 17, 64, 17, 32, 16]
  | 0x0102 | 0x0103 | 0x0105 | 0x0106 => some [10]
  | 0x0104 => some [10, 2, 32, 16, 3]
  | 0x0110 => some [10, 64]
  | 0x0201 => some [10, 48, 48, 20, 1, 1]
  | 0x0202 => some [10, 48, 20, 1]
  | 0x0203 => some [10, 48]
  | 0x0204 => some [10, 48, 48, 40]
  | 0x0205 => some [10, 48, 40, 64]
  | 0x0210 => some [10, 16]
  | 0x0220 => some [10, 48, 21, 9, 9, 10, 48, 32]
  | 0x0230 => some [8, 32]
  | 0x0231 => some [8]
  | 0x0301 => some [48, 32]
  | 0x0302 | 0x0304 => some []
  | 0x0303 => some [64, 48]
  | 0x0401 => some [16, 3, 16, 1, 64, 64]
  | 0x0402 | 0x0403 => some [16]
  | 0x0404 => some [16, 4, 64]
  | 0x0405 => some [16, 64]
  | 0x0510 => some ([32, 10, 9, 8] ++ many n 16 ++ [3] ++ many 8 4 ++ [4, 3] ++ many 8 4 ++ many 8 4 ++ [64, 17, 16, 16])
  | 0x0520 => some ([32, 10, 9, 8] ++ many n 16 ++ [3] ++ many 8 4 ++ [2, 22, 32, 3, 64, 40, 16, 16])
  | 0x0530 => some ([32, 10, 9, 8] ++ many n 16 ++ [3] ++ many 8 4 ++ [32, 16, 16])
  | 0x0540 => some ([32, 10, 1, 16, 10, 3] ++ many 4 4 ++ [8, 32, 64, 16, 16])
  | 0x0511 | 0x0512 | 0x0521 | 0x0522 | 0x0531 | 0x0532 | 0x0541 | 0x0542 => some [32, 10]
  | 0x0513 => some [10, 6, 3]
  | 0x0514 => some [10, 6, 6]
  | 0x0601 => some [16, 40, 48]
  | 0x0602 | 0x0603 | 0x0604 | 0x0605 | 0x0606 | 0x0608 => some [16]
  | 0x0607 => some [16, 9]
  | 0x0701 => some [16, 16, 6]
  | 0x0710 => some [10, 8, 3]
  | 0x0801 => some [28, 13]
  | 0x0802 | 0x0804 | 0x0820 | 0x0902 => some []
  | 0x0803 => some [1, 32, 64]
  | 0x0810 => some [256, 48]
  | 0x0811 => some [48]
  | 0x0901 => some [11]
  | _ => none

/-- The group size that a create's parameters give: field 2 of its table (R149, R225, R232). -/
def pktGroup (op : Nat) (l : List Byte) : Nat :=
  if op = 0x0510 ∨ op = 0x0520 ∨ op = 0x0530 then nth (unpack l 16 0 [32, 10, 9]) 2 else 0

/-- Bytes that follow the packed parameters: group state records, or the bytes of a firmware write (R359). -/
def pktTail (op : Nat) (v : List Nat) : Nat :=
  if op = 0x0514 then 64 * nth v 2 else if op = 0x0801 then nth v 1 else 0

/-- Is the opcode kept off the management queue (R357)? -/
def pktPlanOnly (op : Nat) : Bool := op == 0x0301 || op == 0x0302 || op == 0x0303

/-! ## The commands by opcode -/

/-- The state that an outcome holds; a stop leaves the state as it was. -/
def stateOf (s : State) (o : Host.Outcome State Fault Refusal) : State :=
  match o with
  | .next t => t
  | .fault _ => s
  | .refused _ => s

/-- Members `i` to `i + n - 1`. -/
def mem4 (v : List Nat) (i n : Nat) : List Nat := (v.drop i).take n

/-- R232. -/
def tradeFieldsOf (v : List Nat) : TradeFields :=
  let n := nth v 2
  let g (i : Nat) : Nat := nth v (4 + n + i)
  { tag := nth v 0, ctx := nth v 1, size := n, rank := nth v 3, members := mem4 v 4 n, ports := g 0, portOut := mem4 v (5 + n) 4,
    portIn := mem4 v (9 + n) 4, node := g 9, gports := g 10, gportOut := mem4 v (15 + n) 4, gportIn := mem4 v (19 + n) 4,
    mesh := mem4 v (23 + n) 8, landBase := g 27, landTrains := g 28, formTimeout := g 29, stallLimit := g 30 }

/-- R149. -/
def eddyFieldsOf (v : List Nat) : EddyFields :=
  let n := nth v 2
  let g (i : Nat) : Nat := nth v (4 + n + i)
  { tag := nth v 0, ctx := nth v 1, size := n, rank := nth v 3, members := mem4 v 4 n, ports := g 0, portOut := mem4 v (5 + n) 4,
    portIn := mem4 v (9 + n) 4, layout := g 9, slice := g 10, pos0 := g 11, slots := g 12, landBase := g 13, slotBytes := g 14,
    formTimeout := g 15, stallLimit := g 16 }

/-- R225. -/
def expxFieldsOf (v : List Nat) : ExpxFields :=
  let n := nth v 2
  let g (i : Nat) : Nat := nth v (4 + n + i)
  { tag := nth v 0, ctx := nth v 1, size := n, rank := nth v 3, members := mem4 v 4 n, ports := g 0, portOut := mem4 v (5 + n) 4,
    portIn := mem4 v (9 + n) 4, pos0 := g 9, formTimeout := g 10, stallLimit := g 11 }

/-- R287. -/
def stageFieldsOf (v : List Nat) : StageFields :=
  let g := nth v
  { tag := g 0, ctx := g 1, consumer := g 2 == 1, peer := g 3, peerCtx := g 4, ports := g 5, port := mem4 v 6 4, slots := g 10,
    itemBytes := g 11, base := g 12, formTimeout := g 13, stallLimit := g 14 }

/-- The command that an opcode and its parameters spell; `tail` are the bytes behind them. -/
def pktCommand (h : PktHead) (op : Nat) (v : List Nat) (tail : List Byte) (errs : List SectorErr) (s : State) : Host.Outcome State Fault Refusal :=
  let g := nth v
  let w32 (i : Nat) : W32 := BitVec.ofNat 32 (g i)
  let w64 (i : Nat) : W64 := BitVec.ofNat 64 (g i)
  match op with
  | 0x0101 => execCtxCreate h
      { id := g 0, cls := g 1, part := g 2, domain := g 3, cqBase := g 4, cqSlots := g 5, rqBase := g 6, rqSlots := g 7, pad := w32 8,
        boostUs := g 9 } s
  | 0x0102 => execCtxDestroy h (g 0) s
  | 0x0103 => execCtxQuery h (g 0) s
  | 0x0104 => execCtxSet h (g 0) (g 1) (w32 2) (g 3) (g 4) s
  | 0x0105 => execCtxSuspend h (g 0) s
  | 0x0106 => execCtxResume h (g 0) s
  | 0x0110 => execKcgSet h (g 0) (w64 1) s
  | 0x0201 => execMemMap h { ctx := g 0, va := g 1, pa := g 2, pages := g 3, size1G := g 4 == 1, write := g 5 == 1 } s
  | 0x0202 => execMemUnmap h (g 0) (g 1) (g 2) (g 3 == 1) s
  | 0x0203 => execMemTranslate h (g 0) (g 1) s
  | 0x0204 => execMemCopy h (g 0) (g 1) (g 2) (g 3) errs s
  | 0x0205 => execMemFill h (g 0) (g 1) (g 2) (w64 3) s
  | 0x0210 => execTierQuery h (g 0) (g 1) s
  | 0x0220 => execKvRingCreate h
      { ctx := g 0, header := g 1, w := g 2, d := g 3, heads := g 4, owner := g 5, base := g 6, next := g 7, errs := errs } s
  | 0x0230 => execCfgSet h (g 0) (g 1) s
  | 0x0231 => execCfgGet h (g 0) s
  | 0x0301 => execPlanAdmit h (g 0) (g 1) errs s
  | 0x0302 => execPlanRelease h s
  | 0x0303 => execPlanRun h (g 0) (g 1) s
  | 0x0304 => execPlanQuery h s
  | 0x0401 => execSoCreate h { id := g 0, type := g 1, domain := g 2, remote := g 3 == 1, init := g 4, param := g 5 } s
  | 0x0402 => execSoDestroy h (g 0) s
  | 0x0403 => execSoRead h (g 0) s
  | 0x0404 => execSoSignal h (g 0) (g 1) (g 2) s
  | 0x0405 => execSoReset h (g 0) (g 1) s
  | 0x0510 => execTradeRingCreate h (tradeFieldsOf v) s
  | 0x0511 => execTradeRingDestroy h (g 0) (g 1) s
  | 0x0512 => execTradeRingQuery h (g 0) (g 1) s
  | 0x0513 => execTradeStateRead h (g 0) (g 1) (g 2) s
  | 0x0514 => execTradeStateWrite h (g 0) (g 1) (g 2) tail s
  | 0x0520 => execEddyGroupCreate h (eddyFieldsOf v) s
  | 0x0521 => execEddyGroupDestroy h (g 0) (g 1) s
  | 0x0522 => execEddyGroupQuery h (g 0) (g 1) s
  | 0x0530 => execExpxGroupCreate h (expxFieldsOf v) s
  | 0x0531 => execExpxGroupDestroy h (g 0) (g 1) s
  | 0x0532 => execExpxGroupQuery h (g 0) (g 1) s
  | 0x0540 => execStageQueueCreate h (stageFieldsOf v) s
  | 0x0541 => execStageQueueDestroy h (g 0) (g 1) s
  | 0x0542 => execStageQueueQuery h (g 0) (g 1) s
  | 0x0601 => execMcRegister h (g 0) (g 1) (g 2) s
  | 0x0602 => execMcUnregister h (g 0) s
  | 0x0603 => execMcLoad h (g 0) s
  | 0x0604 => execMcPin h (g 0) s
  | 0x0605 => execMcUnpin h (g 0) s
  | 0x0606 => execMcEvict h (g 0) s
  | 0x0607 => execMcQuery h (g 0) (g 1) s
  | 0x0608 => execMcWriteback h (g 0) s
  | 0x0701 => execTelRead h (g 0) (g 1) (g 2) s
  | 0x0710 => execLullRead h (g 0) (g 1) (g 2) s
  | 0x0801 => execFwStageWrite h (g 0) tail s
  | 0x0802 => execFwStageCommit h s
  | 0x0803 => execFwActivate h (g 0) (g 1) (g 2) s
  | 0x0804 => execFwQuery h s
  | 0x0810 => execAttestQuote h (BitVec.ofNat 256 (g 0)) (g 1) s
  | 0x0811 => execIdentRead h (g 0) s
  | 0x0820 => execResetOrdered h s
  | 0x0901 => execPwrCapSet h (g 0) s
  | 0x0902 => execPwrQuery h s
  | _ => .next s

/-! ## The ring (R326, R327) -/

/-- Address of a slot of a submission ring. -/
def QueueRec.cqAddr (q : QueueRec) (i : Nat) : Nat := q.cqBase + 64 * ((q.cqTail + i) % q.cqSlots)

/-- The bytes of `n` slots from the tail on. -/
def State.packetBytes (s : State) (q : QueueRec) (n : Nat) : List Byte := (List.range n).flatMap fun i => s.physRead (q.cqAddr i) 64

/-- The packet's length is legal: 1 to 64 slots. -/
def lenOk (n : Nat) : Bool := decide (1 ≤ n ∧ n ≤ 64)

/-- The header of a packet of a queue (R354). -/
def headOf (c seq : Nat) (l : List Byte) : PktHead :=
  { queue := c, seq := seq, reply := field l 3 1, fence := bitOf (field l 4 2) 0, notify := bitOf (field l 4 2) 1,
    tag := BitVec.ofNat 64 (field l 8 8) }

/-- Reply slots of an opcode refused before its parameters count (R359). -/
def pktSlots (op : Nat) : Nat :=
  match op with
  | 0x0103 | 0x0301 | 0x0804 => 2
  | 0x0607 => 8
  | _ => 1

/-- The checks 1 to 4 of R355 in order: the status of the first that fails. -/
def pktCheck (c : Nat) (l : List Byte) : Option Status :=
  let op := field l 0 2
  match pktWidths op (pktGroup op l) with
  | none => some .opcode
  | some ws =>
    let size := packedSize 0 ws + pktTail op (unpack l 16 0 ws)
    firstFail
      [(pktPlanOnly op && c == 0, .queue), (field l 6 2 != size || decide (64 * field l 2 1 < 16 + size + 8), .paramLength),
       (decide (4 ≤ field l 4 2) || !reservedOk l 16 0 ws, .paramRange)]

/-- Run an accepted packet's bytes; `errs` are the errors that its reads of memory meet. -/
def State.runPacket (s : State) (h : PktHead) (l : List Byte) (errs : List SectorErr) : State :=
  let op := field l 0 2
  match pktCheck h.queue l with
  | some st => (s.accept h op).replyWrite h op (min (pktSlots op) (pktRoom h)) st []
  | none =>
    let ws := (pktWidths op (pktGroup op l)).getD []
    let v := unpack l 16 0 ws
    stateOf s (pktCommand h op v (slice l (16 + packedSize 0 ws) (pktTail op v)) errs s)

/-- A rewound packet (R327 step 3): its commit word is zeroed and the event posted. -/
def State.rewind (s : State) (c : Nat) (q : QueueRec) (commitAt seq crc : Nat) : State :=
  let s := s.physWrite commitAt (zeros 8)
  ((s.detect 0x0142 1).telAdd 0x0142 9 1).post 0x0301 c (leBytes 4 q.cqTail ++ leBytes 4 seq ++ leBytes 4 crc)

/-- Must the packet wait: reply room, fences (R329, R373), or an earlier PLAN packet of its context? -/
def State.mustWait (s : State) (h : PktHead) (op : Nat) : Bool := !s.mayBegin h || (pktPlanOnly op && h.queue != 0 && s.planBusy h.queue)

/-- The whole slots of the packet at `CQ_TAIL` of a queue marked as having work: visible, of a legal length, its CRC right (R327). -/
def State.visible (s : State) (q : QueueRec) : Option (List Byte) :=
  let n := field (s.physRead (q.cqAddr 0) 64) 2 1
  let l := s.packetBytes q n
  if q.bell && lenOk n && field l (64 * n - 8) 4 == q.cqSeq && field l (64 * n - 4) 4 == crc32c (l.take (64 * n - 8)) then some l else none

/-- Does the pass come to queue `c` only after another queue whose packet could be taken now (R374)? A pass takes at most one packet of a
queue, the management queue first, then in ascending order of contexts. -/
def State.passedOver (s : State) (c : Nat) : Bool :=
  let turn (k : Nat) : Nat := (k + 1024 - s.pass) % 1024
  s.queues.any fun e => decide (turn e.1 < turn c) &&
    match s.visible e.2 with
    | some l => !s.mustWait (headOf e.1 e.2.cqSeq l) (field l 0 2)
    | none => false

/-- PACKET_ACCEPT (R327, R374): the CP examines the packet at `CQ_TAIL` of a queue marked as having work, and takes it in the queue's turn. -/
def execPacketAccept (c : Nat) (errs : List SectorErr) (s : State) : Host.Outcome State Fault Refusal :=
  done <|
    match kvGet c s.queues with
    | none => s
    | some q =>
      if !s.running || !q.bell then s
      else
        let n := field (s.physRead (q.cqAddr 0) 64) 2 1
        let k := if lenOk n then n else 1
        let l := s.packetBytes q k
        let seq := field l (64 * k - 8) 4
        let crc := crc32c (l.take (64 * k - 8))
        if seq ≠ q.cqSeq then { s with queues := kvSet c { q with bell := false } s.queues }
        else if !lenOk n then s.rewind c q (q.cqAddr 0 + 56) seq 0
        else if field l (64 * k - 4) 4 ≠ crc then s.rewind c q (q.cqAddr (k - 1) + 56) seq crc
        else
          let h := headOf c seq l
          if s.mustWait h (field l 0 2) || s.passedOver c then s
          else
            let q2 := { q with cqTail := (q.cqTail + k) % q.cqSlots, cqSeq := (q.cqSeq + 1) % 2 ^ 32 }
            ({ s with queues := kvSet c q2 s.queues, pass := (c + 1) % 1024 } : State).runPacket h l errs

end Sys2Proof.Machine
end

