-- ==== Sys2Proof/Machine/Dispatch.lean ====
section
/-! DEFINITION. One arm per command: the one call of its meaning. -/
namespace Sys2Proof.Machine

/-- What a command does to everything but the queue. -/
def exec (i : Instr) (s : State) : Host.Outcome State Fault Refusal :=
  match i with
  | .ctxCreate h f => Sys2Proof.Machine.execCtxCreate h f s
  | .ctxDestroy h id => Sys2Proof.Machine.execCtxDestroy h id s
  | .ctxQuery h id => Sys2Proof.Machine.execCtxQuery h id s
  | .ctxSet h id cls pad boostUs mask => Sys2Proof.Machine.execCtxSet h id cls pad boostUs mask s
  | .ctxSuspend h id => Sys2Proof.Machine.execCtxSuspend h id s
  | .ctxResume h id => Sys2Proof.Machine.execCtxResume h id s
  | .kcgSet h id seed => Sys2Proof.Machine.execKcgSet h id seed s
  | .memMap h f => Sys2Proof.Machine.execMemMap h f s
  | .memUnmap h ctx va pages size1G => Sys2Proof.Machine.execMemUnmap h ctx va pages size1G s
  | .memTranslate h ctx va => Sys2Proof.Machine.execMemTranslate h ctx va s
  | .memCopy h ctx src dst bytes errs => Sys2Proof.Machine.execMemCopy h ctx src dst bytes errs s
  | .memFill h ctx dst bytes pattern => Sys2Proof.Machine.execMemFill h ctx dst bytes pattern s
  | .tierQuery h ctx token => Sys2Proof.Machine.execTierQuery h ctx token s
  | .kvRingCreate h f => Sys2Proof.Machine.execKvRingCreate h f s
  | .cfgSet h key value => Sys2Proof.Machine.execCfgSet h key value s
  | .cfgGet h key => Sys2Proof.Machine.execCfgGet h key s
  | .planAdmit h addr bytes errs => Sys2Proof.Machine.execPlanAdmit h addr bytes errs s
  | .monoCheckComplete ctx => Sys2Proof.Machine.execMonoCheckComplete ctx s
  | .planRelease h => Sys2Proof.Machine.execPlanRelease h s
  | .planRun h step status => Sys2Proof.Machine.execPlanRun h step status s
  | .planQuery h => Sys2Proof.Machine.execPlanQuery h s
  | .soCreate h f => Sys2Proof.Machine.execSoCreate h f s
  | .soDestroy h id => Sys2Proof.Machine.execSoDestroy h id s
  | .soRead h id => Sys2Proof.Machine.execSoRead h id s
  | .soSignal h id op n => Sys2Proof.Machine.execSoSignal h id op n s
  | .soReset h id value => Sys2Proof.Machine.execSoReset h id value s
  | .tradeRingCreate h f => Sys2Proof.Machine.execTradeRingCreate h f s
  | .tradeRingDestroy h tag ctx => Sys2Proof.Machine.execTradeRingDestroy h tag ctx s
  | .tradeRingQuery h tag ctx => Sys2Proof.Machine.execTradeRingQuery h tag ctx s
  | .tradeStateRead h ctx first count => Sys2Proof.Machine.execTradeStateRead h ctx first count s
  | .tradeStateWrite h ctx first count records => Sys2Proof.Machine.execTradeStateWrite h ctx first count records s
  | .eddyGroupCreate h f => Sys2Proof.Machine.execEddyGroupCreate h f s
  | .eddyGroupDestroy h tag ctx => Sys2Proof.Machine.execEddyGroupDestroy h tag ctx s
  | .eddyGroupQuery h tag ctx => Sys2Proof.Machine.execEddyGroupQuery h tag ctx s
  | .expxGroupCreate h f => Sys2Proof.Machine.execExpxGroupCreate h f s
  | .expxGroupDestroy h tag ctx => Sys2Proof.Machine.execExpxGroupDestroy h tag ctx s
  | .expxGroupQuery h tag ctx => Sys2Proof.Machine.execExpxGroupQuery h tag ctx s
  | .stageQueueCreate h f => Sys2Proof.Machine.execStageQueueCreate h f s
  | .stageQueueDestroy h tag ctx => Sys2Proof.Machine.execStageQueueDestroy h tag ctx s
  | .stageQueueQuery h tag ctx => Sys2Proof.Machine.execStageQueueQuery h tag ctx s
  | .mcRegister h model bytes home => Sys2Proof.Machine.execMcRegister h model bytes home s
  | .mcUnregister h model => Sys2Proof.Machine.execMcUnregister h model s
  | .mcLoad h model => Sys2Proof.Machine.execMcLoad h model s
  | .mcPin h model => Sys2Proof.Machine.execMcPin h model s
  | .mcUnpin h model => Sys2Proof.Machine.execMcUnpin h model s
  | .mcEvict h model => Sys2Proof.Machine.execMcEvict h model s
  | .mcQuery h model first => Sys2Proof.Machine.execMcQuery h model first s
  | .mcWriteback h model => Sys2Proof.Machine.execMcWriteback h model s
  | .modelWritebackComplete model w => Sys2Proof.Machine.execModelWritebackComplete model w s
  | .telRead h unit first count => Sys2Proof.Machine.execTelRead h unit first count s
  | .lullRead h ctx first count => Sys2Proof.Machine.execLullRead h ctx first count s
  | .fwStageWrite h offset data => Sys2Proof.Machine.execFwStageWrite h offset data s
  | .fwStageCommit h => Sys2Proof.Machine.execFwStageCommit h s
  | .fwActivate h mode tag step => Sys2Proof.Machine.execFwActivate h mode tag step s
  | .fwQuery h => Sys2Proof.Machine.execFwQuery h s
  | .attestQuote h nonce dest => Sys2Proof.Machine.execAttestQuote h nonce dest s
  | .identRead h dest => Sys2Proof.Machine.execIdentRead h dest s
  | .resetOrdered h => Sys2Proof.Machine.execResetOrdered h s
  | .pwrCapSet h cap => Sys2Proof.Machine.execPwrCapSet h cap s
  | .pwrQuery h => Sys2Proof.Machine.execPwrQuery h s
  | .doorbellWrite ctx => Sys2Proof.Machine.execDoorbellWrite ctx s
  | .packetAccept ctx errs => Sys2Proof.Machine.execPacketAccept ctx errs s
  | .rqHeadWrite ctx value => Sys2Proof.Machine.execRqHeadWrite ctx value s
  | .hiRetrainWrite value => Sys2Proof.Machine.execHiRetrainWrite value s
  | .hiWinWrite size value => Sys2Proof.Machine.execHiWinWrite size value s
  | .mqEnableWrite value => Sys2Proof.Machine.execMqEnableWrite value s
  | .ntEnableWrite value => Sys2Proof.Machine.execNtEnableWrite value s
  | .ntAckWrite value => Sys2Proof.Machine.execNtAckWrite value s
  | .lostCounterRead which tag => Sys2Proof.Machine.execLostCounterRead which tag s
  | .vlModuleIdWrite value => Sys2Proof.Machine.execVlModuleIdWrite value s
  | .vlEnableWrite value => Sys2Proof.Machine.execVlEnableWrite value s
  | .vpRetrainWrite port value => Sys2Proof.Machine.execVpRetrainWrite port value s
  | .registerWrite offset value => Sys2Proof.Machine.execRegisterWrite offset value s
  | .recEraseStaging => Sys2Proof.Machine.execRecEraseStaging s
  | .recWrite => Sys2Proof.Machine.execRecWrite s
  | .recCommit => Sys2Proof.Machine.execRecCommit s
  | .recInstall => Sys2Proof.Machine.execRecInstall s
  | .recBootActive => Sys2Proof.Machine.execRecBootActive s
  | .recRestart => Sys2Proof.Machine.execRecRestart s
  | .hostWriteTransaction addr data errs => Sys2Proof.Machine.execHostWriteTransaction addr data errs s
  | .hostReadRequest addr len tag errs => Sys2Proof.Machine.execHostReadRequest addr len tag errs s
  | .hostReadCompletion tag status data => Sys2Proof.Machine.execHostReadCompletion tag status data s
  | .sidebandAccess write addr wide value => Sys2Proof.Machine.execSidebandAccess write addr wide value s
  | .ucieTrainAttempt => Sys2Proof.Machine.execUcieTrainAttempt s
  | .ucieFlitReplay flits => Sys2Proof.Machine.execUcieFlitReplay flits s
  | .ucieLinkFault => Sys2Proof.Machine.execUcieLinkFault s
  | .ucieTrainAttemptEnd pass => Sys2Proof.Machine.execUcieTrainAttemptEnd pass s
  | .vauriTrainAttempt port => Sys2Proof.Machine.execVauriTrainAttempt port s
  | .vauriTrainAttemptEnd port o => Sys2Proof.Machine.execVauriTrainAttemptEnd port o s
  | .vauriUnitSend port vc => Sys2Proof.Machine.execVauriUnitSend port vc s
  | .vauriIdleSend port => Sys2Proof.Machine.execVauriIdleSend port s
  | .flitDataReceive port f => Sys2Proof.Machine.execFlitDataReceive port f s
  | .flitSignalReceive port f => Sys2Proof.Machine.execFlitSignalReceive port f s
  | .flitLandAckReceive port f what => Sys2Proof.Machine.execFlitLandAckReceive port f what s
  | .flitIdleReceive port f => Sys2Proof.Machine.execFlitIdleReceive port f s
  | .vauriReplayTimeout port => Sys2Proof.Machine.execVauriReplayTimeout port s
  | .vauriLockLost port lane => Sys2Proof.Machine.execVauriLockLost port lane s
  | .vauriBerCheck port => Sys2Proof.Machine.execVauriBerCheck port s
  | .linkCreditReserve port vc => Sys2Proof.Machine.execLinkCreditReserve port vc s
  | .soRsignal ctx op => Sys2Proof.Machine.execSoRsignal ctx op s
  | .rsignalDepart ctx op => Sys2Proof.Machine.execRsignalDepart ctx op s
  | .syncSignal ctx op => Sys2Proof.Machine.execSyncSignal ctx op s
  | .syncWait ctx op => Sys2Proof.Machine.execSyncWait ctx op s
  | .syncTrywait ctx op => Sys2Proof.Machine.execSyncTrywait ctx op s
  | .syncRaise ctx op => Sys2Proof.Machine.execSyncRaise ctx op s
  | .syncWaitge ctx op => Sys2Proof.Machine.execSyncWaitge ctx op s
  | .syncArrive ctx op => Sys2Proof.Machine.execSyncArrive ctx op s
  | .syncArrivewait ctx op => Sys2Proof.Machine.execSyncArrivewait ctx op s
  | .syncAcquire ctx op => Sys2Proof.Machine.execSyncAcquire ctx op s
  | .syncTryacquire ctx op => Sys2Proof.Machine.execSyncTryacquire ctx op s
  | .syncRelease ctx op => Sys2Proof.Machine.execSyncRelease ctx op s
  | .syncFadd ctx op => Sys2Proof.Machine.execSyncFadd ctx op s
  | .syncTake ctx op => Sys2Proof.Machine.execSyncTake ctx op s
  | .syncReturn ctx op => Sys2Proof.Machine.execSyncReturn ctx op s
  | .syncRead ctx op => Sys2Proof.Machine.execSyncRead ctx op s
  | .waiterWake so ctx => Sys2Proof.Machine.execWaiterWake so ctx s
  | .soWaitTimeout so ctx => Sys2Proof.Machine.execSoWaitTimeout so ctx s
  | .soParityError so => Sys2Proof.Machine.execSoParityError so s
  | .matmul ctx op errs => Sys2Proof.Machine.execMatmul ctx op errs s
  | .claimReply ctx pos op => Sys2Proof.Machine.execClaimReply ctx pos op s
  | .tileChunkLoad ctx pos errs => Sys2Proof.Machine.execTileChunkLoad ctx pos errs s
  | .tileGroupComplete ctx pos check => Sys2Proof.Machine.execTileGroupComplete ctx pos check s
  | .commitReply ctx pos g => Sys2Proof.Machine.execCommitReply ctx pos g s
  | .vector ctx op => Sys2Proof.Machine.execVector ctx op s
  | .vadd l w => Sys2Proof.Machine.execVadd l w s
  | .vsub l w => Sys2Proof.Machine.execVsub l w s
  | .vmul l w => Sys2Proof.Machine.execVmul l w s
  | .vfma l w => Sys2Proof.Machine.execVfma l w s
  | .vmin l w => Sys2Proof.Machine.execVmin l w s
  | .vmax l w => Sys2Proof.Machine.execVmax l w s
  | .vabs l w => Sys2Proof.Machine.execVabs l w s
  | .vneg l w => Sys2Proof.Machine.execVneg l w s
  | .vcmp l w => Sys2Proof.Machine.execVcmp l w s
  | .vsel l w => Sys2Proof.Machine.execVsel l w s
  | .vpand l w => Sys2Proof.Machine.execVpand l w s
  | .vpor l w => Sys2Proof.Machine.execVpor l w s
  | .vcvt l w => Sys2Proof.Machine.execVcvt l w s
  | .vtwosum l w => Sys2Proof.Machine.execVtwosum l w s
  | .vtwoprod l w => Sys2Proof.Machine.execVtwoprod l w s
  | .vld l w errs => Sys2Proof.Machine.execVld l w errs s
  | .vst l w errs => Sys2Proof.Machine.execVst l w errs s
  | .vlda l w => Sys2Proof.Machine.execVlda l w s
  | .vred l w => Sys2Proof.Machine.execVred l w s
  | .vsort l w => Sys2Proof.Machine.execVsort l w s
  | .vmerge l w => Sys2Proof.Machine.execVmerge l w s
  | .vtopk l w => Sys2Proof.Machine.execVtopk l w s
  | .vsfu l w => Sys2Proof.Machine.execVsfu l w s
  | .vkcg l w => Sys2Proof.Machine.execVkcg l w s
  | .vvar l w => Sys2Proof.Machine.execVvar l w s
  | .sfuGrant core g => Sys2Proof.Machine.execSfuGrant core g s
  | .sfuResult core => Sys2Proof.Machine.execSfuResult core s
  | .msSplite core w => Sys2Proof.Machine.execMsSplite core w s
  | .msSpliti core w => Sys2Proof.Machine.execMsSpliti core w s
  | .msSeg core w => Sys2Proof.Machine.execMsSeg core w s
  | .msHorner core w => Sys2Proof.Machine.execMsHorner core w s
  | .msFadd core w => Sys2Proof.Machine.execMsFadd core w s
  | .msFmul core w => Sys2Proof.Machine.execMsFmul core w s
  | .msFfma core w => Sys2Proof.Machine.execMsFfma core w s
  | .msScale core w => Sys2Proof.Machine.execMsScale core w s
  | .msCmp core w => Sys2Proof.Machine.execMsCmp core w s
  | .msSel core w => Sys2Proof.Machine.execMsSel core w s
  | .msSkip core w => Sys2Proof.Machine.execMsSkip core w s
  | .msClamp core w => Sys2Proof.Machine.execMsClamp core w s
  | .msSeamclamp core w => Sys2Proof.Machine.execMsSeamclamp core w s
  | .msCall core w => Sys2Proof.Machine.execMsCall core w s
  | .msOut core w => Sys2Proof.Machine.execMsOut core w s
  | .attentionForward ctx op errs => Sys2Proof.Machine.execAttentionForward ctx op errs s
  | .attentionBackward ctx op errs => Sys2Proof.Machine.execAttentionBackward ctx op errs s
  | .attentionVerify ctx op errs => Sys2Proof.Machine.execAttentionVerify ctx op errs s
  | .attentionAppend ctx op errs => Sys2Proof.Machine.execAttentionAppend ctx op errs s
  | .attentionCommit ctx op errs => Sys2Proof.Machine.execAttentionCommit ctx op errs s
  | .attendBlock ctx pos check errs => Sys2Proof.Machine.execAttendBlock ctx pos check errs s
  | .backwardStep ctx pos check errs => Sys2Proof.Machine.execBackwardStep ctx pos check errs s
  | .backwardCombine ctx o => Sys2Proof.Machine.execBackwardCombine ctx o s
  | .formMessage m => Sys2Proof.Machine.execFormMessage m s
  | .sealMessage p ctx tag => Sys2Proof.Machine.execSealMessage p ctx tag s
  | .sealedMessage p ctx tag => Sys2Proof.Machine.execSealedMessage p ctx tag s
  | .formTimeout p ctx tag => Sys2Proof.Machine.execFormTimeout p ctx tag s
  | .eddyBlockLand ctx port block poisoned => Sys2Proof.Machine.execEddyBlockLand ctx port block poisoned s
  | .eddyBlockForward ctx errs => Sys2Proof.Machine.execEddyBlockForward ctx errs s
  | .eddyCreditGrant ctx => Sys2Proof.Machine.execEddyCreditGrant ctx s
  | .eddyCreditReceive ctx tag => Sys2Proof.Machine.execEddyCreditReceive ctx tag s
  | .eddyResendRequest ctx rotOwner head loc dest => Sys2Proof.Machine.execEddyResendRequest ctx rotOwner head loc dest s
  | .eddyStallTimeout ctx => Sys2Proof.Machine.execEddyStallTimeout ctx s
  | .openMessage m => Sys2Proof.Machine.execOpenMessage m s
  | .amaxExchangeMessage ctx second values => Sys2Proof.Machine.execAmaxExchangeMessage ctx second values s
  | .trainLand ctx port train errs => Sys2Proof.Machine.execTrainLand ctx port train errs s
  | .trainSend ctx errs => Sys2Proof.Machine.execTrainSend ctx errs s
  | .tradeLandingCredit ctx count => Sys2Proof.Machine.execTradeLandingCredit ctx count s
  | .trainRerequest ctx port bucket train => Sys2Proof.Machine.execTrainRerequest ctx port bucket train s
  | .bucketVerdictMessage ctx bucket v e peak => Sys2Proof.Machine.execBucketVerdictMessage ctx bucket v e peak s
  | .verdictRecordMessage ctx record => Sys2Proof.Machine.execVerdictRecordMessage ctx record s
  | .finalVerdictRecord ctx record => Sys2Proof.Machine.execFinalVerdictRecord ctx record s
  | .gatherTrainLand ctx port train poisoned => Sys2Proof.Machine.execGatherTrainLand ctx port train poisoned s
  | .tradeStallTimeout ctx => Sys2Proof.Machine.execTradeStallTimeout ctx s
  | .tradeReduce ctx op errs => Sys2Proof.Machine.execTradeReduce ctx op errs s
  | .tradeGather ctx op errs => Sys2Proof.Machine.execTradeGather ctx op errs s
  | .optUpdate ctx op errs => Sys2Proof.Machine.execOptUpdate ctx op errs s
  | .updateUnit ctx op pos check errs => Sys2Proof.Machine.execUpdateUnit ctx op pos check errs s
  | .refreshUnit ctx op pos check errs => Sys2Proof.Machine.execRefreshUnit ctx op pos check errs s
  | .expertRoute ctx op errs => Sys2Proof.Machine.execExpertRoute ctx op errs s
  | .routeChunkCount ctx op chunk check errs => Sys2Proof.Machine.execRouteChunkCount ctx op chunk check errs s
  | .expertScatter ctx op errs => Sys2Proof.Machine.execExpertScatter ctx op errs s
  | .expertCombine ctx op errs => Sys2Proof.Machine.execExpertCombine ctx op errs s
  | .expxCountLand m step counts poisoned => Sys2Proof.Machine.execExpxCountLand m step counts poisoned s
  | .expxRowGrant m => Sys2Proof.Machine.execExpxRowGrant m s
  | .expxRowLand m expert ordinal ret row poisoned damaged => Sys2Proof.Machine.execExpxRowLand m expert ordinal ret row poisoned damaged s
  | .expxReturnLand m ret row poisoned damaged => Sys2Proof.Machine.execExpxReturnLand m ret row poisoned damaged s
  | .expxRowResendRequest m expert ordinal ret => Sys2Proof.Machine.execExpxRowResendRequest m expert ordinal ret s
  | .omtPack ctx op errs => Sys2Proof.Machine.execOmtPack ctx op errs s
  | .omtUnpack ctx op errs => Sys2Proof.Machine.execOmtUnpack ctx op errs s
  | .transfer ctx o => Sys2Proof.Machine.execTransfer ctx o s
  | .transferStart ctx updraft => Sys2Proof.Machine.execTransferStart ctx updraft s
  | .transferSegmentComplete ctx updraft errs => Sys2Proof.Machine.execTransferSegmentComplete ctx updraft errs s
  | .stqPut ctx op errs => Sys2Proof.Machine.execStqPut ctx op errs s
  | .stqGet ctx op => Sys2Proof.Machine.execStqGet ctx op s
  | .stqRelease ctx op => Sys2Proof.Machine.execStqRelease ctx op s
  | .stageItemLand ctx tag step index segment data last poisoned => Sys2Proof.Machine.execStageItemLand ctx tag step index segment data last poisoned s
  | .stageCreditReturn ctx tag => Sys2Proof.Machine.execStageCreditReturn ctx tag s
  | .stageStallTimeout ctx tag => Sys2Proof.Machine.execStageStallTimeout ctx tag s
  | .stepMark ctx op errs => Sys2Proof.Machine.execStepMark ctx op errs s
  | .lullSnap ctx op => Sys2Proof.Machine.execLullSnap ctx op s
  | .traceMark ctx op => Sys2Proof.Machine.execTraceMark ctx op s
  | .tensorRebuild ctx tensor ok => Sys2Proof.Machine.execTensorRebuild ctx tensor ok s
  | .quantumExpire ctx => Sys2Proof.Machine.execQuantumExpire ctx s
  | .saveOrder ctx pos tries => Sys2Proof.Machine.execSaveOrder ctx pos tries s
  | .saveDrainComplete ctx pos => Sys2Proof.Machine.execSaveDrainComplete ctx pos s
  | .saveComplete ctx pos => Sys2Proof.Machine.execSaveComplete ctx pos s
  | .restoreOrder ctx pos => Sys2Proof.Machine.execRestoreOrder ctx pos s
  | .restoreComplete ctx pos errs => Sys2Proof.Machine.execRestoreComplete ctx pos errs s
  | .boostBudgetExpire so => Sys2Proof.Machine.execBoostBudgetExpire so s
  | .telemetryMirrorRefresh => Sys2Proof.Machine.execTelemetryMirrorRefresh s
  | .i2cMirrorRead addr offset len write => Sys2Proof.Machine.execI2cMirrorRead addr offset len write s
  | .i2cRecoveryAccess addr offset write data len => Sys2Proof.Machine.execI2cRecoveryAccess addr offset write data len s
  | .governorTick pinMw pin1sMw => Sys2Proof.Machine.execGovernorTick pinMw pin1sMw s
  | .thermalSample samples => Sys2Proof.Machine.execThermalSample samples s
  | .thermalStepUp kind unit => Sys2Proof.Machine.execThermalStepUp kind unit s
  | .inputVoltageEvent mv => Sys2Proof.Machine.execInputVoltageEvent mv s
  | .inputShutdown aux mv => Sys2Proof.Machine.execInputShutdown aux mv s
  | .auxPowerUp straps => Sys2Proof.Machine.execAuxPowerUp straps s
  | .busbarPowerUp => Sys2Proof.Machine.execBusbarPowerUp s
  | .resetRelease recoveryN => Sys2Proof.Machine.execResetRelease recoveryN s
  | .resetNLow => Sys2Proof.Machine.execResetNLow s
  | .calmPoint => Sys2Proof.Machine.execCalmPoint s
  | .fwBackgroundCopyComplete => Sys2Proof.Machine.execFwBackgroundCopyComplete s
  | .flashStoreComplete readBackOk => Sys2Proof.Machine.execFlashStoreComplete readBackOk s

end Sys2Proof.Machine
end

