-- ==== Sys2Proof/Machine/Lull.lean ====
section
/-! DEFINITION. The tick: the reference counter (R23) and the lull counters of admitted contexts (11_job_mapping R292 to R294). -/
namespace Sys2Proof.Machine

/-! One declaration after another, so that the check's memory is not shared among many threads. -/
set_option Elab.async false

/-- What a position does for an operation at a tick: one of its engines executes, it waits for a cause of R292, or the operation does not
concern it. -/
inductive Part where
  | runs
  | waits (cause : Nat)
  | idle
  deriving DecidableEq, Repr

/-- The causes of R292 by their index. -/
def causePeer : Nat := 2
def causeSync : Nat := 3
def causeHbm : Nat := 4
def causeTier2 : Nat := 5
def causeDown : Nat := 6
def causeUp : Nat := 7
def causeSfu : Nat := 8
def causePreempted : Nat := 9
def causeBubble : Nat := 11

/-- Is a memory LPDDR5X or the host's? -/
def Region.tier2 : Region → Bool
  | .lp | .host => true
  | .inter | .local _ | .mgmt | .hot | .core _ | .cq | .cfg | .none => false

/-- The cause of a wait on sectors of these ranges (R293). -/
def State.memCause (s : State) (c : Nat) (l : List (Nat × Nat)) : Nat :=
  if (s.physSpans c l).any fun r => (s.region r.1).tier2 then causeTier2 else causeHbm

/-- The cause of a wait on an access to these ranges: the saved position that it names, or their memory (R293, R338). -/
def State.accessCause (s : State) (c : Nat) (l : List (Nat × Nat)) : Nat :=
  if s.spansWait c l then causePreempted else s.memCause c l

/-- Does an access to these ranges wait: for a saved position, or for a rebuild (R186, R338)? -/
def State.accessWaits (s : State) (c : Nat) (l : List (Nat × Nat)) : Bool := s.spansWait c l || s.rebuildDue (s.physSpans c l)

/-- A position in a matrix operation: computing, waiting for a K chunk or a result sector, or without a unit: it waits for the WORKCOUNT object
(R293), and for the operation's end like one (14_contexts_and_preemption's example). -/
def State.tilePart (s : State) (c p i : Nat) : Part :=
  match s.workOf c p with
  | some (w, _, pl, _, f, u) =>
    if w.op ≠ i then .idle
    else if decide ((f.span (u % f.splits)).2 ≤ w.group) then
      (if s.accessWaits c (s.tileWrites c pl f u) then .waits (s.accessCause c (s.tileWrites c pl f u)) else .runs)
    else if w.poisoned || !w.staged.isEmpty then .runs
    else
      match s.tileGeo c pl f (u / f.splits) with
      | .ok (some g, _) => .waits (s.accessCause c (chunkReads pl f w u g))
      | .ok (none, _) | .error _ => .waits causeHbm
  | none => .waits causeSync

/-- A position in an attention operation: a step, a block that has not landed (R136, R164), SFU requests that wait (R103, R124), no unit. -/
def State.attPart (s : State) (c p i : Nat) : Part :=
  match s.attWork c p, s.attOp c i with
  | some (w, e, core), _ =>
    if w.op ≠ i then .idle
    else if e.stalled s w then .waits causePeer
    else if s.accessWaits c (e.nextRanges w) then .waits (s.accessCause c (e.nextRanges w))
    else if (s.sfuAt core).reqs.any fun q => q.ctx == c && q.att && q.pos == p then .waits causeSfu
    else .runs
  | none, some e =>
    .waits (if !e.g.parked.isEmpty || (e.eg.isSome && decide (e.f.units ≤ e.g.commit.length)) then causePeer else causeSync)
  | none, none => .idle

/-- The tensor that a stream's next instruction loads or stores. -/
def nextTensor (p : Plan) (f : VecF) (t : Nat × VStream) : List (Nat × Nat) :=
  match (nextWord f.words t.1 t.2.word).bind fun k => f.words[k]? with
  | some w => if (wordOp w = 0x28 ∨ wordOp w = 0x29) ∧ wordSpace w = 1 then
      (match p.tenIdx (wordImm w % 2 ^ 20) with | some d => d.ranges | none => []) else []
  | none => []

/-- The cause that a stream waits for: an SFU grant (R103), or a tensor's memory or the saved position that it names (R338). -/
def State.streamCause (s : State) (c core : Nat) (p : Plan) (f : VecF) (t : Nat × VStream) : Option Nat :=
  if t.2.waitSfu && (s.sfuAt core).reqs.any (fun q => q.ctx == c && !q.att && q.stream == t.1) then some causeSfu
  else if s.accessWaits c (nextTensor p f t) then some (s.accessCause c (nextTensor p f t)) else none

/-- A position in a VECTOR operation, whose streams run on position 0: some stream executes, or the lowest stream's cause. -/
def State.vecPart (s : State) (c p : Nat) : Part :=
  match s.vecOp c, (s.pos? c 0).bind Position.resident? with
  | some (_, _, pl, _, f, v), some (core, _) =>
    if p ≠ 0 then .waits causeSync
    else
      let causes := ((enumFrom 0 v.streams).filter fun t => !f.streamDone t.1 t.2).map (s.streamCause c core pl f)
      if causes.any Option.isNone then .runs else .waits ((causes.filterMap id).headD causeSync)
  | some _, none => .waits causeSync
  | none, _ => .idle

/-- A position in an update: it runs units until its claim returns exhausted (R268). -/
def updPart (q : Prog) (p : Nat) : Part :=
  match q with
  | .upd u => if u.exhausted.contains p then .waits causeSync else .runs
  | .none | .mat _ | .att _ | .vec _ | .exp _ | .wait _ | .signal .. => .waits causeSync

/-- The cause of a SYNC operation's wait (R194, R293): an object that a transfer signals when it is done, a signal from or to another
module, any other object. -/
def State.syncCause (s : State) (c : Nat) (p : Plan) (f : SyncF) : Nat :=
  if f.module ≠ 0xFFFF then causePeer
  else if p.ops.any fun o => (s.transfersOf c o).any fun t => t.doneSo == f.so then causeTier2
  else match kvGet f.so s.sos with
    | some o => if o.remote then causePeer else causeSync
    | none => causeSync

/-- The cause of a wait on the expert dispatch engine: the memory that it reads while it counts this member's own chunks or has no group, then the
counts and rows of the others (R215, R293). -/
def State.expCause (s : State) (c : Nat) (pl : Plan) (o : PlanOp) (f : ExpF) (q : Prog) : Nat :=
  let own := match q with
    | .exp g => decide (g.chunks.length < f.chunks)
    | .none | .mat _ | .att _ | .vec _ | .upd _ | .wait _ | .signal .. => false
  if f.group = 0 || own then s.memCause c (opReads pl o) else causePeer

/-- What a position does for an operation that has begun (R292, R293). -/
def State.partOf (s : State) (c p i : Nat) (pl : Plan) (o : PlanOp) (q : OpRun) : Part :=
  let saved := s.spansWait c (s.buffersOf c pl o)
  match o with
  | .matmul _ => s.tilePart c p i
  | .attention _ => s.attPart c p i
  | .vector _ => s.vecPart c p
  | .optUpdate _ => if saved then .waits causePreempted else updPart q.prog p
  | .expert f => .waits (if saved then causePreempted else s.expCause c pl o f q.prog)
  | .tradeReduce .. | .tradeGather .. => .waits (if saved then causePreempted else causePeer)
  | .sync f => .waits (if saved then causePreempted else s.syncCause c pl f)
  | .stage f => .waits (if saved then causePreempted else if f.op = 0 then causeDown else if f.lullAs = 1 then causeBubble else causeUp)
  | .transfer .. => .idle
  | .omtPack .. | .omtUnpack .. | .stepMark .. | .lullSnap _ | .traceMark .. =>
    .waits (s.accessCause c (opReads pl o ++ opWrites pl o))

/-- Does an operation wait for its group, ring or queue to form (R154, R368)? -/
def State.waitsForm (s : State) (c : Nat) (o : PlanOp) : Bool :=
  match o with
  | .attention f => f.kvSrc = 1 && (match s.eddyOf c with | some g => g.2.form.state == 0 | none => false)
  | .expert f => f.group ≠ 0 && (match kvGet (gkey c f.group) s.expx with | some g => g.form.state == 0 | none => false)
  | .stage f => s.stageForms c f
  | .tradeReduce .. | .tradeGather .. => (match s.tradeOf c with | some g => g.2.form.state == 0 || g.2.sending | none => false)
  | .matmul _ | .omtPack .. | .omtUnpack .. | .vector _ | .transfer .. | .sync _ | .optUpdate _ | .stepMark .. | .lullSnap _
  | .traceMark .. => false

/-- The cause of an operation that has not begun (R201, R338, R368): the group that it waits for, a model's load, a rebuild, a saved
position; otherwise as for an object (log 11). -/
def State.pendingCause (s : State) (c : Nat) (x : Ctx) (pl : Plan) (o : PlanOp) : Nat :=
  if s.waitsForm c o then causePeer
  else if !s.modelsReady c pl o then causeTier2
  else if s.rebuild.any fun b => b.1 == c then (if (s.rebuild.filter fun b => b.1 == c).all fun b => (s.region (64 * b.2)).tier2 then causeTier2 else causeHbm)
  else if !x.issues o || s.spansWait c (s.buffersOf c pl o) then causePreempted
  else causeSync

/-- The operations of a run in the order of their issue: begun first, by when, then by index (R293). -/
def issuedOrder (l : List (Nat × OpRun)) : List (Nat × OpRun) := sortKey (fun o => [o.2.began, o.1]) (l.filter fun o => o.2.st = .begun)

/-- What a position does at a tick (R292, R293): some engine executes, or the cause of the oldest waiting instruction; a TRANSFER that is
under way counts where nothing else waits. Without a waiting instruction the tick goes to SYNC_WAIT (log 11). -/
def State.positionPart (s : State) (c p : Nat) : Part :=
  match kvGet c s.ctxs with
  | none => .idle
  | some x =>
    match x.run, x.plan with
    | some r, some pl =>
      let issued := issuedOrder (enumFrom 0 r.ops)
      let parts := issued.filterMap fun o => (pl.ops[o.1]?).map fun k => s.partOf c p o.1 pl k o.2
      if s.running && parts.contains .runs then .runs
      else
        match parts.find? fun z => match z with | .waits _ => true | .runs | .idle => false with
        | some z => z
        | none =>
          if issued.any fun o => (pl.ops[o.1]?).any PlanOp.isTransfer then .waits causeTier2
          else
            match (enumFrom 0 r.ops).find? fun o => o.2.st = .pending with
            | some o => .waits (match pl.ops[o.1]? with | some k => s.pendingCause c x pl k | none => causeSync)
            | none => .waits causeSync
    | _, _ => .waits causeSync

/-- The core that a position is still on, saves in progress included (R345 step 5). -/
def Position.coreOn (q : Position) : Option Nat :=
  match q.place with
  | .resident core _ _ | .saving core _ _ => some core
  | .saved | .waiting .. | .restoring .. => none

/-- Credit one tick to a position: LU_ELAPSED, and LU_BUSY with POWER_CAP, or one cause; PREEMPTED once it is saved (R292, R345). -/
def State.lullTick (s : State) (c p : Nat) : State :=
  let part := s.positionPart c p
  s.posDo c p fun q =>
    let q := q.lullAdd 0 1
    match q.coreOn with
    | none => q.lullAdd causePreempted 1
    | some core =>
      match part with
      | .runs =>
        let n := s.coreStep core
        if n ≥ 125 then q.lullAdd 1 1
        else (q.lullShare 1 (65536 * n / 125)).lullShare 10 (65536 - 65536 * n / 125)
      | .waits i => q.lullAdd i 1
      | .idle => q.lullAdd causeSync 1

/-- One tick of the reference counter (R23), which stays at its largest value (R325), with the lull counters of admitted contexts (R292;
log 11). -/
def State.tick (s : State) : State :=
  let t := s.ctxs.foldl
    (fun s cx => if cx.2.plan.isSome then (List.range cx.2.positions.length).foldl (fun s p => s.lullTick cx.1 p) s else s) s
  { t with refCount := min (t.refCount + 1) (2 ^ 64 - 1) }

end Sys2Proof.Machine
end

