-- ==== Sys2Proof/Safety.lean ====
section
/-! DEFINITION. What counts as a safe run, and the words in which the statements speak of commands, operations and memory. -/
namespace Sys2Proof.Machine

/-! One declaration after another, so that the check's memory is not shared among many threads. -/
set_option Elab.async false

/-- A state's memory is canonical: equal memories are equal data. -/
abbrev State.Canonical (s : State) : Prop := Memory.wf s.mem = true

/-- A command on a state answers a next state with a property. -/
def Completes (c : Instr) (s : State) (P : State → Prop) : Prop := ∃ t, exec c s = .next t ∧ P t

/-- A packet may begin, the CP's check of it passes, and the reply of its command fits the slots that it declares (R356, R373, R374, R415). -/
abbrev Ready (s : State) (h : PktHead) (slots : Nat) : Prop := (s.mayBegin h = true ∧ h.cp = .pass) ∧ slots ≤ pktRoom h

/-- A management message that gets through: fewer than eight tries fail at each receiver (R414). -/
def Heard (m : MsgTries) : Prop := m.die < 8 ∧ m.hub < 8 ∧ m.cp < 8

/-- The state behind a command that ends at its commit point: its reply item stands with a status and results, the packet is retired
(R329, R341). -/
def State.reply (u : State) (h : PktHead) (op slots : Nat) (st : Status) (results : List Byte) : State :=
  (u.replyWrite h op slots st results).retired h.queue

/-- A command answers a next state: that behind its reply with a status and results, on a state with a property. -/
def Replies (c : Instr) (s : State) (h : PktHead) (op slots : Nat) (st : Status) (results : List Byte) (P : State → Prop) : Prop :=
  ∃ u, exec c s = .next (u.reply h op slots st results) ∧ P u

/-- An operation of the context's run has a property. -/
def OpShows (s : State) (c i : Nat) (P : OpRun → Prop) : Prop := ∃ x p r o q, s.opOf c i = some (x, p, r, o, q) ∧ P q

/-- Some other operation of the run has still to end, so that the run goes on past this one. -/
def MoreOps (r : Run) (i : Nat) : Prop := ∃ (j : Nat) (q : OpRun), j ≠ i ∧ r.ops[j]? = some q ∧ q.st ≠ .ended

/-- Some operation before `i` has still to end, so that a stop at `i` does not end the run. -/
def EarlierOp (r : Run) (i : Nat) : Prop := ∃ (j : Nat) (q : OpRun), j < i ∧ r.ops[j]? = some q ∧ q.st ≠ .ended

/-- The area of an operation's record takes it (R175, R365), or lies in a saved position's window, so that the record is not written (R338; log 117). -/
def RecordOpen (s : State) (c i : Nat) (r : Run) : Prop := ∀ f, s.reach c true (r.area + 128 * i) 128 = .error f → f.kind = kindWaits

/-- The operation of a context that is about to begin: its plan, its run, what it is, nothing yet held against it, and a record area that
takes its record. -/
def OpDue (s : State) (c i : Nat) (p : Plan) (r : Run) (o : PlanOp) : Prop :=
  ∃ x q, s.opOf c i = some (x, p, r, o, q) ∧ s.mayIssue c i = true ∧ q.poisoned = false ∧ q.poisonAt = none ∧ q.dup = false ∧ MoreOps r i ∧
    RecordOpen s c i r

/-- Such an operation whose beginning reads nothing that is still on its way from the host (R383): it begins in `a`, which has taken what came. -/
def OpStarts (s a : State) (c i : Nat) (p : Plan) (r : Run) (o : PlanOp) : Prop := a = s.opRecover c i (fun _ => true) [] ∧ OpDue a c i p r o

/-- A step that reads these ranges goes on in `a`: what the host brought is taken (R383), and no sector waits for a rebuild or for an expert row that
was asked for again (R186, R228). -/
def State.Takes (s : State) (c : Nat) (l : List (Nat × Nat)) (a : State) : Prop :=
  a = s.recoverRanges c l [] ∧ a.rebuildDue (a.physSpans c l) = false

/-- The operation has ended with a status (R365). -/
def OpEnded (s : State) (c i : Nat) (st : Status) : Prop := OpShows s c i fun q => q.st = .ended ∧ q.status = st

/-- A window ring's header fits an operation: whole blocks of slots, no fewer than the window, the operation's shape, and the writer's own ring (R139,
R142). -/
def RingHdr.Fits (h : RingHdr) (f : AttF) (c : Nat) : Prop :=
  h.w % 64 = 0 ∧ 0 < h.w ∧ f.window ≤ h.w ∧ h.d = f.headDim ∧ h.heads = f.kvHeads ∧ (3 ≤ f.op → h.owner = c)

/-- An address outside the record that an operation of a run ends with (R365). -/
def OutsideRecord (s : State) (c i : Nat) (r : Run) (a : Nat) : Prop :=
  ∀ p ∈ s.physSpans c [(r.area + 128 * i, 128)], a < p.1 ∨ p.1 + p.2 ≤ a

/-- The operation has ended with a status, and no byte of memory but its record differs from another state's. -/
def EndsOver (t : State) (c i : Nat) (r : Run) (st : Status) (u : State) : Prop :=
  OpEnded t c i st ∧ (u.Canonical → ∀ a, OutsideRecord u c i r a → cellGet t.mem a = cellGet u.mem a)

/-- A context's position has a property. -/
def PosShows (s : State) (c p : Nat) (P : Position → Prop) : Prop := ∃ q, s.pos? c p = some q ∧ P q

/-- A matrix record as a claim of operation `i` begins it. -/
def TileWork.fresh (i : Nat) : TileWork :=
  { op := i, claimed := [], unit := none, chunk := 0, staged := [], group := 0, acc := [], attempt := 0, num := NumStat.zero, poisoned := false }

/-- A port has a property. -/
def PortShows (s : State) (p : Nat) (P : Port → Prop) : Prop := ∃ q, s.ports[p]? = some q ∧ P q

/-- A flit that a port takes without more than its acknowledgement: good CRC, a legal kind, length and channel, a credit return within the
peer's buffer, no NAK (R398 to R400). -/
def Port.Accepts (p : Port) (f : Flit) : Prop :=
  p.state = 3 ∧ f.crcOk = true ∧ f.kind ≤ 3 ∧ f.len ≤ 30 ∧ (f.kind = 0 ∨ f.vc ≤ 5) ∧ nth p.credits f.crVc + f.crCount ≤ nth p.peerBuf f.crVc ∧ f.nak = false

/-- Such a flit of a unit that is one flit long, in its turn, on a channel with no unit open. -/
def Port.TakesWhole (p : Port) (f : Flit) : Prop :=
  p.Accepts f ∧ f.seq = p.rxSeq ∧ f.first = true ∧ f.last = true ∧ ∀ u ∈ p.openUnits, u.1 ≠ f.vc

/-- A context has a property. -/
def CtxShows (s : State) (c : Nat) (P : Ctx → Prop) : Prop := ∃ x, kvGet c s.ctxs = some x ∧ P x

/-- What a vector instruction leaves in its stream's registers: each active lane's results stand from register D on, and every other register and every
predicate is as before. -/
def VEnv.Lanes (e : VEnv) (s t : State) (g : VecRegs → Nat × Nat × Nat → List Entry) : Prop :=
  (t.vecRegs e.c).preds = (s.vecRegs e.c).preds ∧
    (∀ x ∈ e.active (s.vecRegs e.c), ∀ (k : Nat) (h : k < (g (s.vecRegs e.c) x).length), (t.vecRegs e.c).get (e.w.d + k) x.2.2 = (g (s.vecRegs e.c) x)[k]) ∧
    ∀ r lane : Nat, r < 32 → (∀ x ∈ e.active (s.vecRegs e.c), x.2.2 = lane → r < e.w.d ∨ e.w.d + (g (s.vecRegs e.c) x).length ≤ r) →
      (t.vecRegs e.c).get r lane = (s.vecRegs e.c).get r lane

/-- The results fit the 32 registers. -/
def VEnv.Fits (e : VEnv) (s : State) (g : VecRegs → Nat × Nat × Nat → List Entry) : Prop :=
  ∀ x ∈ e.active (s.vecRegs e.c), e.w.d + (g (s.vecRegs e.c) x).length ≤ 32

/-- The stream stands at word `k` of the same iteration (R95). -/
def VEnv.Moves (e : VEnv) (t : State) (k : Nat) : Prop :=
  OpShows t e.c e.i fun q => q.st = .begun ∧ ∃ v m, q.prog = .vec v ∧ v.streams[e.st]? = some m ∧ m.word = k ∧ m.iter = e.t.iter ∧ m.waitSfu = false

/-- A unit in a port's queue: channel, context, binding tag, bytes, whether poison goes with it (R398, R403). -/
def plainUnit (vc c bind : Nat) (l : List Byte) (bad : Bool) : TxUnit :=
  { vc := vc, ctx := c, bind := bind, payload := l, signal := none, landed := none, poison := bad }

/-- A unit has joined one port's queue, and the ports are otherwise as they were. -/
def Sends (s t : State) (p : Nat) (u : TxUnit) : Prop :=
  ∃ q, s.ports[p]? = some q ∧ t.ports = s.ports.set p { q with txq := q.txq ++ [u] }

/-- A context's Eddy group has a property. -/
def EddyShows (s : State) (c : Nat) (P : Eddy → Prop) : Prop := ∃ k g, s.eddyOf c = some (k, g) ∧ P g

/-- A context's Trade ring has a property. -/
def TradeShows (s : State) (c : Nat) (P : Trade → Prop) : Prop := ∃ k t, s.tradeOf c = some (k, t) ∧ P t

/-- A message of a Trade ring has left for the successor, over its port if one carries traffic (R246, R250). -/
def TEnv.Tells (e : TEnv) (s t : State) (kind : Nat) (l : List Byte) : Prop :=
  ∀ p, s.sharePort e.t.outs 0 = some p → Sends s t p (plainUnit 0 e.t.f.ctx e.t.f.tag (ctlMsg kind (leBytes 4 e.t.f.tag ++ l)) false)

/-- A Trade ring on which no message and no landed train waits. -/
def TEnv.Quiet (e : TEnv) : Prop := e.t.early = [] ∧ e.t.trains = []

/-- A bucket that a RESTART verdict sends round again with another exponent (R246). -/
def Bucket.again (b : Bucket) (x : Int) : Bucket :=
  { b with attempt := b.attempt + 1, e := some x, done := 0, ovf := false, nf := false, peak := 0, num := NumStat.zero }

/-- A bucket of the ring, of all or of all but one, still has no verdict, so that the member's contribution waits (R249). -/
def TEnv.Pends (e : TEnv) (but : Option Nat) : Prop := ∃ (j : Nat) (b : Bucket), some j ≠ but ∧ e.t.buckets[j]? = some b ∧ b.verdict = none

/-- The FORM that a member sends: tag, size, rank and digest (R150). -/
def formBytes (v : FormView) : List Byte :=
  ctlMsg msgForm (leBytes 4 v.tag ++ leBytes 2 v.size ++ leBytes 2 v.rank ++ leBytes 16 v.digest.toNat)

/-- A group has taken its ports, each for its use and bound to the tag, FORM waits on every port that carries it, and no other port has changed
(R150, R411). -/
def PortsForm (s t : State) (v : FormView) (use : List (Nat × Nat)) : Prop :=
  ∀ n q, s.ports[n]? = some q → PortShows t n fun q' => (∀ k, (n, k) ∈ use → q'.use = k ∧ q'.bind = v.tag) ∧
    (n ∈ v.outs → plainUnit 0 v.ctx v.tag (formBytes v) false ∈ q'.txq) ∧ (n ∉ use.map Prod.fst → n ∉ v.outs → q' = q)

/-- A group's ports are free again, and no other port has changed (R152). -/
def PortsFreed (s u : State) (l : List Nat) : Prop :=
  ∀ n, (n ∈ l → ∀ q, u.ports[n]? = some q → q.use = 0 ∧ q.bind = 0) ∧ (n ∉ l → u.ports[n]? = s.ports[n]?)

/-- An exchange group has a property. -/
def ExpxShows (s : State) (c tag : Nat) (P : Expx → Prop) : Prop := ∃ g, kvGet (gkey c tag) s.expx = some g ∧ P g

/-- What a unit or message of an expert exchange is on its port, bound to its group (R226, R402): channel 0 carries messages, channel 4 rows and counts. -/
def expxUnit (vc kind : Nat) (m : ExpxMsg) (l : List Byte) (bad : Bool) : TxUnit :=
  plainUnit vc m.ctx m.tag (ctlMsg kind (leBytes 4 m.tag ++ leBytes 4 m.op ++ leBytes 2 m.src ++ leBytes 2 m.dst ++ l)) bad

/-- An address outside the reply ring of a queue (R328). -/
def OutsideRing (s : State) (h : PktHead) (a : Nat) : Prop :=
  ∀ q, kvGet h.queue s.queues = some q → a < q.rqBase ∨ q.rqBase + 64 * q.rqSlots ≤ a

/-- The packet of a command that only reads state, or changes settings, pages or objects of which nothing runs: what it stores is its reply. -/
def onlyReplies : Instr → Option PktHead
  | .ctxQuery h _ | .ctxSet h _ _ _ _ _ | .ctxResume h _ | .kcgSet h _ _ | .memMap h _ | .memUnmap h _ _ _ _ | .memTranslate h _ _ | .tierQuery h _ _
  | .cfgGet h _ | .planQuery h | .soCreate h _ | .soRead h _ | .tradeRingQuery h _ _ | .tradeStateRead h _ _ _ | .eddyGroupQuery h _ _
  | .expxGroupQuery h _ _ | .stageQueueQuery h _ _ | .mcQuery h _ _ | .mcPin h _ | .mcUnpin h _ | .telRead h _ _ _ | .lullRead h _ _ _ | .fwQuery h
  | .pwrQuery h => some h
  | _ => none

/-- A context's pages, and the bases at which its plan maps models, are aligned to their size (R176, R178, R199). -/
def Ctx.Aligned (x : Ctx) : Prop :=
  (∀ m ∈ x.maps, m.va % m.size = 0 ∧ m.pa % m.size = 0) ∧ (∀ p, x.plan = some p → ∀ m ∈ p.models, m.2.2 % gib = 0) ∧
    ∀ a, x.admitting = some a → ∀ m ∈ a.plan.models, m.2.2 % gib = 0

/-- The pages of every context are aligned. -/
def State.PagesAligned (s : State) : Prop := ∀ e ∈ s.ctxs, e.2.Aligned

/-- A safe run of `n` steps: every step answers a next state whose memory is canonical. -/
def SafeRun : Nat → State → Prop
  | 0, s => s.Canonical
  | n + 1, s => s.Canonical ∧ ∃ t, step s = .next t ∧ SafeRun n t

end Sys2Proof.Machine
end

