-- ==== Sys2Proof/Certificates/Slice0/Obligations.lean ====
section
/-! DEFINITION. The statements for the provers, family by family. A statement about a host command says what stands before its reply:
`State.reply` is that reply, and `ReplyLeavesTheRest` says what a reply leaves as it was. -/
open Sys2Proof Sys2Proof.Machine

/-! ## The block as a whole -/

/-- The step takes the command at the front of the queue and runs it on the state with the queue's rest. -/
def Obligations.StepRunsFrontCommand : Prop :=
  ∀ (c : Instr) (rest : List Instr) (s : State), step { s with pending := c :: rest } = exec c { s with pending := rest }

/-- On an empty queue a step is one tick of the reference counter (log 11, a design choice), which counts up to its largest value (R23, R325); the tick
moves no placement, and every position of an admitted context has counted it in the first lull counter (R292) unless that stands at
its end. -/
def Obligations.IdleStepTicksClockAndLull : Prop :=
  ∀ s : State, s.pending = [] → (s.ctxs.map Prod.fst).Nodup →
    ∃ t, step s = .next t ∧ t.refCount = min (s.refCount + 1) (2 ^ 64 - 1) ∧ t.mem = s.mem ∧ t.sos = s.sos ∧ t.queues = s.queues ∧ t.pending = [] ∧
      ∀ (c p : Nat) (q : Position), s.pos? c p = some q → ∃ q', t.pos? c p = some q' ∧ q'.place = q.place ∧ q'.image = q.image ∧
        (CtxShows s c (fun x => x.plan.isSome = true) → q.lulls.length = 12 → nth q.lulls 0 + 1 < 2 ^ 64 - 1 →
          nth q'.lulls 0 = nth q.lulls 0 + 1)

/-- Right after reset: no command, context, queue, object, group or packet, boot stage 0 with the link down (R386), every port present
and DISABLED with its BER limit at 10 (R411), the cap at the envelope (R455), clocks nominal (R453); and memory is canonical. -/
def Obligations.ResetStateIsCanonicalAndEmpty : Prop :=
  State.reset.Canonical ∧ State.reset.pending = [] ∧ State.reset.ctxs = [] ∧ State.reset.queues = [] ∧ State.reset.sos = [] ∧
    State.reset.accepted = [] ∧ State.reset.eddy = [] ∧ State.reset.trade = [] ∧ State.reset.hi.bootStage = 0 ∧
    State.reset.hi.linkUp = false ∧ State.reset.hi.rateMax = 3 ∧ State.reset.ports.length = 16 ∧
    (∀ p ∈ State.reset.ports, p.state = 0 ∧ p.berLimit = 10 ∧ p.peerValid = false) ∧ State.reset.power.cap = 1800 ∧
    State.reset.power.step = 125 ∧ State.reset.cfgCur = [8, 64, 16, 64, 10000]

/-- Every step keeps memory canonical: addresses strictly rising, no entry equal to what an unlisted address reads as. -/
def Obligations.EveryStepKeepsMemoryCanonical : Prop :=
  ∀ s t : State, s.Canonical → step s = .next t → t.Canonical

/-- No command stops the module, and none touches the queue of waiting commands, the identity fuses (R464 gives them no write), the identity key, the key
digests, or clears a programmed revocation or thermometer fuse (R427). -/
def Obligations.EveryCommandAnswersAndKeepsFuses : Prop :=
  ∀ (c : Instr) (s : State), ∃ t, exec c s = .next t ∧ t.pending = s.pending ∧ t.ident = s.ident ∧ t.fw.fzKey = s.fw.fzKey ∧
    t.fw.fzIdKey = s.fw.fzIdKey ∧ s.fw.fzRevoke ||| t.fw.fzRevoke = t.fw.fzRevoke ∧ ∀ i, nth s.fw.fzSvn i ≤ nth t.fw.fzSvn i

/-- Only a reset through the management connector or a power cycle ends a halt (R415): no other command does, and none starts the
module anew. -/
def Obligations.OnlyConnectorOrPowerEndsHalt : Prop :=
  ∀ (c : Instr) (s t : State), s.halted = true → s.hi.bootStage = 4 → exec c s = .next t →
    (match c with
     | .resetNLow | .inputShutdown .. | .thermalSample _ => False
     | _ => True) → t.halted = true ∧ t.hi.bootStage = 4

/-- Every step keeps the pages of every context aligned to their size, and with them the bases at which plans map models; the state right
after reset has them so (R176, R178, R199). -/
def Obligations.EveryStepKeepsPagesAligned : Prop :=
  State.reset.PagesAligned ∧ ∀ s t : State, s.PagesAligned → step s = .next t → t.PagesAligned

/-! ## Packets, replies, queues (13_sync_objects_and_queues, 15_command_protocol) -/

/-- A reply writes its ring and nothing else of memory, and leaves contexts but for placement, objects, mappings, models, groups, ports,
power and firmware as they were (R329). -/
def Obligations.ReplyLeavesTheRest : Prop :=
  ∀ (u : State) (h : PktHead) (op slots : Nat) (st : Status) (res : List Byte),
    let t := u.reply h op slots st res
    t.sos = u.sos ∧ t.models = u.models ∧ t.eddy = u.eddy ∧ t.trade = u.trade ∧ t.expx = u.expx ∧ t.stageQ = u.stageQ ∧ t.vl = u.vl ∧
      t.ports = u.ports ∧ t.fw = u.fw ∧ t.power = u.power ∧ t.cfgCur = u.cfgCur ∧ t.cfgPend = u.cfgPend ∧ t.tel = u.tel ∧
      t.boosts = u.boosts ∧ t.saveUsed = u.saveUsed ∧
      (∀ (c : Nat) (x : Ctx), kvGet c u.ctxs = some x → ∃ ps, kvGet c t.ctxs = some { x with positions := ps }) ∧
      (u.Canonical → ∀ q, kvGet h.queue u.queues = some q → 0 < q.rqSlots →
        ∀ a, (a < q.rqBase ∨ q.rqBase + 64 * q.rqSlots ≤ a) → cellGet t.mem a = cellGet u.mem a)

/-- The reply item stands in its slots: head word with opcode, slots and sequence number at its first 8 bytes, status and tag behind
them, and the next slot is the IDLE item with the last retired number (R328, R329, R358). Said for a ring in module memory with room
for the item and its IDLE slot. -/
def Obligations.ReplyItemStandsInItsRing : Prop :=
  ∀ (u : State) (h : PktHead) (op slots : Nat) (st : Status) (res : List Byte) (q : QueueRec),
    kvGet h.queue u.queues = some q → u.halted = false → 1 ≤ slots → slots + 1 ≤ q.rqSlots → q.idle + slots < q.rqSlots → u.Canonical →
    u.poison = [] → q.rqBase % 64 = 0 → (∀ a, q.rqBase ≤ a → a < q.rqBase + 64 * q.rqSlots → u.region a ≠ .host) →
    let t := u.replyWrite h op slots st res
    let at_ (o n : Nat) : List Byte := (List.range n).map fun i => cellGet t.mem (q.rqBase + 64 * q.idle + o + i)
    at_ 0 8 = leBytes 2 op ++ leBytes 1 slots ++ leBytes 1 0 ++ leBytes 4 h.seq ∧
      at_ 8 2 = leBytes 2 st.code ∧ at_ 16 8 = leBytes 8 h.tag.toNat ∧
      (res.length ≤ 64 * slots - 32 → ∀ i, (hi : i < res.length) → cellGet t.mem (q.rqBase + 64 * q.idle + 32 + i) = res[i]) ∧
      at_ (64 * slots) 8 = leBytes 2 0 ++ leBytes 1 1 ++ leBytes 1 0 ++ leBytes 4 (q.retire h.seq).lastRetired ∧
      ∃ q', kvGet h.queue t.queues = some q' ∧ q'.idle = q.idle + slots

/-- A command that only reads state, or changes settings, pages or objects of which nothing runs, stores nothing but its reply: every byte outside its
queue's reply ring is unchanged, and so are vector, matrix and special-function state, groups, links, firmware and power, but for the time up to which
clocks and capping have been counted (R374). Said of a packet that passes the CP's check and whose messages get through (R414, R415); one that does not
ends in a halt. -/
def Obligations.HostCommandsStoreNothingElse : Prop :=
  (∀ (s : State) (c : Instr) (h : PktHead) (cause : Nat), onlyReplies c = some h → s.mayBegin h = true → CpCheck.cause h.cp = some cause →
    exec c s = .next (s.halt cause)) ∧
  ∀ (s : State) (c : Instr) (h : PktHead), onlyReplies c = some h → s.Canonical → (∀ q, kvGet h.queue s.queues = some q → 0 < q.rqSlots) →
    h.cp = .pass → Heard h.msg →
    Completes c s fun t => (∀ a, OutsideRing s h a → cellGet t.mem a = cellGet s.mem a) ∧ t.vec = s.vec ∧ t.tiles = s.tiles ∧ t.att = s.att ∧
      t.sfu = s.sfu ∧ t.mpStore = s.mpStore ∧ t.eddy = s.eddy ∧ t.trade = s.trade ∧ t.expx = s.expx ∧ t.stageQ = s.stageQ ∧ t.ports = s.ports ∧
      t.vl = s.vl ∧ t.fw = s.fw ∧ t.power = { s.power with since := t.power.since, capNs := t.power.capNs } ∧ t.rsOut = s.rsOut ∧ t.cfgCur = s.cfgCur ∧ t.cfgPend = s.cfgPend

/-- Reply slots reserved for a packet: as declared, raised to 1 and lowered to 8; a packet without that many free slots and one more does
not begin, and a command whose reply needs more replies in those slots with ST_REPLY_ROOM and has no other effect. -/
def Obligations.ReplyRoomIsReserved : Prop :=
  (∀ h : PktHead, pktRoom h = (if h.reply = 0 then 1 else if 8 < h.reply then 8 else h.reply)) ∧
    (∀ (s : State) (h : PktHead) (q : QueueRec), kvGet h.queue s.queues = some q → s.freeSlots h.queue q < pktRoom h + 1 →
      ∀ (op slots : Nat) (body : State → State), s.commit h op slots body = s) ∧
    ∀ (s : State) (h : PktHead) (op slots : Nat) (body : State → State), s.mayBegin h = true → h.cp = .pass → pktRoom h < slots →
      s.commit h op slots body = (s.accept h op).reply h op (pktRoom h) .replyRoom []

/-! ## Order of values (02_number_formats) -/

/-- Maximum, minimum, sorting, top-k and the row maximum: -0 lies below +0, a NaN makes a maximum or minimum NaN whatever else is there, sorting and top-k
place NaN above +infinity and order equal values by ascending index. Said of the two-operand maximum and minimum and their runs over lists, which
VMAX, VMIN, the reductions and the row maximum use, of the sort of VSORT, VMERGE and VTOPK by floating-point keys, and of the expert route's top-k. -/
def Obligations.SelectionsPlaceZeroesAndNaNs : Prop :=
  (∀ a b : W32, ((isNan32 a || isNan32 b) = true → max32 a b = nan32 ∧ min32 a b = nan32) ∧
    (isNan32 a = false → isNan32 b = false → (max32 a b = a ∨ max32 a b = b) ∧ (min32 a b = a ∨ min32 a b = b) ∧
      ordKey a ≤ ordKey (max32 a b) ∧ ordKey b ≤ ordKey (max32 a b) ∧ ordKey (min32 a b) ≤ ordKey a ∧ ordKey (min32 a b) ≤ ordKey b)) ∧
  (∀ (l : List W32) (a : W32), ((∃ x ∈ a :: l, isNan32 x = true) → l.foldl max32 a = if l = [] then a else nan32) ∧
    ((∀ x ∈ a :: l, isNan32 x = false) → l.foldl max32 a ∈ a :: l ∧ ∀ x ∈ a :: l, ordKey x ≤ ordKey (l.foldl max32 a))) ∧
  max32 0x80000000#32 0#32 = 0#32 ∧ max32 0#32 0x80000000#32 = 0#32 ∧ min32 0x80000000#32 0#32 = 0x80000000#32 ∧ min32 0#32 0x80000000#32 = 0x80000000#32 ∧
  (∀ a b : W32, isNan32 a = false → isNan32 b = false →
    (bitOf a.toNat 31 = true → bitOf b.toNat 31 = false → ordKey a < ordKey b) ∧
    (bitOf a.toNat 31 = false → bitOf b.toNat 31 = false → (ordKey a < ordKey b ↔ bits a.toNat 0 31 < bits b.toNat 0 31)) ∧
    (bitOf a.toNat 31 = true → bitOf b.toNat 31 = true → (ordKey a < ordKey b ↔ bits b.toNat 0 31 < bits a.toNat 0 31))) ∧
  (∀ a b : W32, isNan32 a = true → (isNan32 b = true → ordKey a = ordKey b) ∧ (isNan32 b = false → ordKey b < ordKey a)) ∧
  (∀ (desc : Bool) (l : List (Entry × Entry)), (sortPairs false desc l).Perm l ∧
    (sortPairs false desc l).Pairwise (fun a b => if desc then ordKey b.1.v ≤ ordKey a.1.v else ordKey a.1.v ≤ ordKey b.1.v) ∧
    ∀ k, (sortPairs false desc l).filter (fun a => ordKey a.1.v == k) = l.filter fun a => ordKey a.1.v == k) ∧
  ∀ l : List (Nat × W32), (l.mergeSort ranksBefore).Perm l ∧
    (l.mergeSort ranksBefore).Pairwise fun a b => ordKey b.2 < ordKey a.2 ∨ ordKey a.2 = ordKey b.2 ∧ a.1 ≤ b.1

/-! ## Contexts (14_contexts_and_preemption) -/

/-- CTX_CREATE with an unused ID, domain other than 0, and rings that obey R387 and R328: the context has the packet's class, partition,
domain, padding value and boost budget, seed 0, no plan; its queues start at packet number 1 and reply slot 0, where the IDLE item
already stands (R468).
It concludes that each of these completes: ctxCreate. -/
def Obligations.ContextCreateMakesContext : Prop :=
  ∀ (s : State) (h : PktHead) (f : CtxFields), Ready s h 1 → kvGet f.id s.ctxs = none → kvGet f.id s.queues = none → 1 ≤ f.id → f.id < 1024 →
    f.domain ≠ 0 → f.part < 3 → s.cqOk f.cqBase f.cqSlots = true → s.rqOk f.rqBase f.rqSlots = true →
    Replies (.ctxCreate h f) s h 0x0101 1 .ok [] fun u =>
      CtxShows u f.id (fun x => x.cls = f.cls ∧ x.part = f.part ∧ x.domain = f.domain ∧ x.pad = f.pad ∧ x.boostUs = f.boostUs ∧ x.seed = 0 ∧
        x.plan = none ∧ x.run = none ∧ x.suspended = false ∧ x.maps = [] ∧ x.positions = []) ∧
      (∃ q, kvGet f.id u.queues = some q ∧ q.cqBase = f.cqBase ∧ q.cqSlots = f.cqSlots ∧ q.rqBase = f.rqBase ∧ q.rqSlots = f.rqSlots ∧
        q.cqTail = 0 ∧ q.cqSeq = 1 ∧ q.rqHead = 0 ∧ q.idle = 0 ∧ q.lastRetired = 0) ∧
      (s.Canonical → s.region f.rqBase ≠ .host → ∀ i, i < 64 → cellGet u.mem (f.rqBase + i) = (idleItem 0).getD i 0) ∧
      ∀ c x, c ≠ f.id → kvGet c s.ctxs = some x → ∃ ps, kvGet c u.ctxs = some { x with positions := ps }

/-- CTX_SET applies the fields that its mask names, a new padding value from the next plan step on (R333); KCG_SET the seed of the next
plan step (R301); CTX_SUSPEND suspends and leaves no position resident (R344); CTX_RESUME ends the suspension.
It concludes that each of these completes: ctxSet, kcgSet, ctxSuspend, ctxResume. -/
def Obligations.ContextSettingsTakeEffect : Prop :=
  ∀ (s : State) (h : PktHead) (id : Nat) (x : Ctx), Ready s h 1 → id ≠ 0 → kvGet id s.ctxs = some x →
    (∀ (cls boost mask : Nat) (pad : W32), cls < 4 → boost < 65536 → Replies (.ctxSet h id cls pad boost mask) s h 0x0104 1 .ok [] fun u =>
      CtxShows u id fun y => y.cls = (if bitOf mask 0 then cls else x.cls) ∧ y.padNext = (if bitOf mask 1 then pad else x.padNext) ∧
        y.boostUs = (if bitOf mask 2 then boost else x.boostUs) ∧ y.pad = x.pad ∧ y.part = x.part ∧ y.domain = x.domain ∧ y.run = x.run) ∧
    (∀ seed : W64, Replies (.kcgSet h id seed) s h 0x0110 1 .ok [] fun u =>
      CtxShows u id fun y => y.seedNext = seed ∧ y.seed = x.seed ∧ y.cls = x.cls ∧ y.run = x.run) ∧
    (x.suspended = false → Replies (.ctxSuspend h id) s h 0x0105 1 .ok [] fun u =>
      CtxShows u id fun y => y.suspended = true ∧ y.cls = x.cls ∧ ∀ q ∈ y.positions, q.resident? = none) ∧
    (x.suspended = true → Replies (.ctxResume h id) s h 0x0106 1 .ok [] fun u =>
      CtxShows u id fun y => y.suspended = false ∧ y.cls = x.cls ∧ y.plan = x.plan)

/-- CTX_QUERY answers the fields of R333 at their bytes and changes no context; CTX_DESTROY of a context that no group, ring or queue
names leaves neither the context nor its queues, and drops its packets, those that wait for a model or the security engine too (R334, R376).
A command that names a context which does not exist is refused with ST_CTX_UNKNOWN and changes nothing but placement (R332, R469).
It concludes that each of these completes: ctxQuery, ctxDestroy. -/
def Obligations.ContextsAreAskedDestroyedOrUnknown : Prop :=
  (∀ (s : State) (h : PktHead) (id : Nat) (x : Ctx), id ≠ 0 → id < 1024 → kvGet id s.ctxs = some x →
    (∀ q, Ready s h 2 → kvGet id s.queues = some q → q.cqSlots < 2 ^ 17 → q.cqBase < 2 ^ 64 → x.cls < 4 → x.domain < 2 ^ 16 → x.part < 3 →
      ∃ res, Replies (.ctxQuery h id) s h 0x0103 2 .ok res (fun u => CtxShows u id fun y => y = { x with positions := y.positions } ∧
          field res 40 2 = (if x.plan.isSome then y.positions.length % 2 ^ 16 else 0) ∧
          field res 42 2 = (y.positions.filter fun p => p.resident?.isSome).length % 2 ^ 16 ∧
          field res 44 2 = (y.positions.filter fun p => p.spilled).length % 2 ^ 16) ∧
        res.length = 96 ∧ field res 0 2 = id ∧ field res 2 1 = x.cls ∧ field res 3 1 = x.part ∧ field res 4 2 = x.domain ∧
        field res 6 2 = x.boostUs % 2 ^ 16 ∧ field res 8 4 = x.pad.toNat ∧ field res 12 4 = q.cqSlots ∧ field res 16 8 = q.cqBase ∧
        field res 24 8 = q.rqBase % 2 ^ 64 ∧ field res 32 4 = q.rqSlots % 2 ^ 32 ∧
        field res 36 1 = (match (s.accept h 0x0103).ctxState id with | .idle => 0 | .runnable => 1 | .suspended => 2) ∧
        field res 37 1 % 2 = b2n x.plan.isSome ∧
        field res 37 1 / 2 % 2 = b2n (s.sos.any fun o => match o.2.holder with | some d => d.1 == id | none => false) ∧
        field res 37 1 / 4 % 2 = b2n (s.boosts.any fun b => b.holder == id) ∧
        (s.boosts.find? (fun b => b.holder == id) = none → field res 46 2 = 0xFFFF ∧ field res 48 2 = 0xFFFF) ∧
        ∀ b, s.boosts.find? (fun b => b.holder == id) = some b → field res 46 2 = b.pos % 2 ^ 16 ∧ field res 48 2 = b.so % 2 ^ 16) ∧
    (Ready s h 1 → s.named id = false → Replies (.ctxDestroy h id) s h 0x0102 1 .ok [] fun u =>
      kvGet id u.ctxs = none ∧ kvGet id u.queues = none ∧ (∀ a ∈ u.accepted, a.head.queue ≠ id) ∧ (∀ a ∈ u.held, a.head.queue ≠ id) ∧
      (∀ m ∈ u.models, ∀ w ∈ m.2.waiting, w.1.queue ≠ id) ∧ ∀ w ∈ u.fw.waiting, w.1.queue ≠ id)) ∧
  ∀ (s : State) (h : PktHead) (id : Nat) (c : Instr) (op slots : Nat), id ≠ 0 → id < 1024 → kvGet id s.ctxs = none → Ready s h slots →
    (c, op, slots) ∈ [(.ctxDestroy h id, 0x0102, 1), (.ctxQuery h id, 0x0103, 2), (.ctxSet h id 0 0 0 0, 0x0104, 1),
      (.ctxSuspend h id, 0x0105, 1), (.ctxResume h id, 0x0106, 1), (.kcgSet h id 0, 0x0110, 1), (.memTranslate h id 0, 0x0203, 1),
      (.memFill h id 0 0 0, 0x0205, 1), (.tierQuery h id 0, 0x0210, 1)] →
    Replies c s h op slots .ctxUnknown [] fun u => u.mem = s.mem ∧ u.sos = s.sos ∧ u.queues = s.queues ∧ u.models = s.models ∧
      ∀ (d : Nat) (x : Ctx), kvGet d s.ctxs = some x → ∃ ps, kvGet d u.ctxs = some { x with positions := ps }

/-! ## Saving and restoring a position (R341 to R348) -/

/-- SAVE_ORDER that reaches its core within eight tries starts the drain; SAVE_DRAIN_COMPLETE, with the core drained of granted SFU requests, the position's
granted waits retired and the core's channels not held by a restore, turns them outbound (R18), writes the image, its scratchpad bytes first (R345 step 3, R347), and counts it; SAVE_COMPLETE leaves the
position with an image and no longer saving.
It concludes that each of these completes: saveOrder, saveDrainComplete, saveComplete. -/
def Obligations.SaveRunsThroughItsSteps : Prop :=
  ∀ (s : State) (c p core part : Nat) (q : Position), s.pos? c p = some q →
    s.halted = false →
    (∀ tries : MsgTries, q.place = .saving core part 0 → Heard tries →
      Completes (.saveOrder c p tries) s fun t => PosShows t c p fun q' => q'.place = .saving core part 1 ∧ q'.area = q.area) ∧
    (∀ x, q.place = .saving core part 1 → kvGet c s.ctxs = some x → s.Canonical →
      s.drained core = true → s.wakesDone c p = true → s.nocDir core ≠ .inbound →
      Completes (.saveDrainComplete c p) s fun t => t.nocDir core = .outbound ∧
        PosShows t c p (fun q' => q'.place = .saving core part 2 ∧ q'.imgSeq = q.imgSeq + 1 ∧ q'.area = q.area) ∧
        ∀ i, i < partSp x.part → cellGet t.mem (q.area + i) = cellGet s.mem (spAddr core x.part part + i)) ∧
    (q.place = .saving core part 2 →
      Completes (.saveComplete c p) s fun t => PosShows t c p fun q' => q'.image = true ∧ q'.area = q.area ∧ q'.imgSeq = q.imgSeq ∧
        ∀ a b n, q'.place ≠ .saving a b n)

/-- RESTORE_ORDER reaches a drained core within eight tries and turns its channels inbound (R18); RESTORE_COMPLETE of an image without poison whose header names the context, the position and the
class makes the position resident in its partition (R348).
It concludes that each of these completes: restoreOrder, restoreComplete. -/
def Obligations.RestoreMakesPositionResident : Prop :=
  ∀ (s : State) (c p core part : Nat) (q : Position) (x : Ctx), s.pos? c p = some q → kvGet c s.ctxs = some x →
    s.halted = false →
    (∀ tries : MsgTries, q.place = .restoring core part false → Heard tries → s.drained core = true → s.nocDir core ≠ .outbound →
      Completes (.restoreOrder c ⟨p, tries⟩) s fun t => t.nocDir core = .inbound ∧ PosShows t c p fun q' => q'.place = .restoring core part true ∧ q'.area = q.area) ∧
    (q.place = .restoring core part true → q.saveDue = false → s.firstPoison q.area (imageBytes x.part) = none →
      s.headerOk c p x.part q = true → Completes (.restoreComplete c p []) s fun t =>
        PosShows t c p fun q' => q'.place = .resident core part s.refCount ∧ q'.imgSeq = q.imgSeq)

/-- QUANTUM_EXPIRE: the one position of a context that has waited its quantum to the end, with no partition free and no victim of R342, takes a partition from a
position of another runnable context of its own class, whose save is ordered (R343).
It concludes that each of these completes: quantumExpire. -/
def Obligations.QuantumTakesVictimOfOwnClass : Prop :=
  ∀ (s : State) (c core i since : Nat) (x : Ctx) (q : Position) (v : Occ), s.running = true →
    (s.ctxs.map Prod.fst).Nodup → kvGet c s.ctxs = some x → s.ctxState c = .runnable →
    x.positions = [q] → q.place = .saved → q.quantum = some since → s.quantumUs ≠ 0 →
    since + 1000 * s.quantumUs ≤ s.refCount → q.boost = none →
    freePart s.occs x = none → (∀ o ∈ s.occs, s.victimOk x.cls c o = false) →
    takePart s.occs x (fun o => s.quantumOk c x.cls o) (fun o => 1 :: quantumKey o) = some (core, i, [v]) →
    Completes (.quantumExpire c) s fun t =>
      PosShows t c 0 (fun q' => q'.place = .waiting core i ∧ q'.byQuantum = true) ∧
      (v.ctx ≠ c ∧ s.ctxState v.ctx = .runnable ∧ CtxShows s v.ctx fun y => posClass y v.q = x.cls) ∧
      PosShows t v.ctx v.pos (fun q' => ∃ k, q'.place = .saving v.core k 0)

/-! ## Memory (07_memory_tiers) -/

/-- MEM_MAP makes its checks in order and refuses at the first that fails, with nothing mapped: an address that is not aligned to the page size, a page that
may not be mapped or that passes the top of the space, a 1 GiB page across frames or dies, a page over one already mapped. With none failing, every
address of its pages translates to the page's place, for writes only if it maps them writable, and every other address is as before.
It concludes that each of these completes: memMap. -/
def Obligations.MapChecksInOrderThenMaps : Prop :=
  ∀ (s : State) (h : PktHead) (f : MapFields) (x : Ctx) (size : Nat), Ready s h 1 → f.ctx ≠ 0 → kvGet f.ctx s.ctxs = some x →
    size = (if f.size1G then 2 ^ 30 else 2 ^ 21) → f.pages ≠ 0 →
    ∀ misaligned range straddle busy : Prop, (misaligned ↔ f.va % size ≠ 0 ∨ f.pa % size ≠ 0) →
    (range ↔ 2 ^ 48 < f.va + f.pages * size ∨ ∃ i, i < f.pages ∧ s.pageOk (f.pa + i * size) size = false) →
    (straddle ↔ ∃ i, i < f.pages ∧ s.straddles (f.pa + i * size) size = true) →
    (busy ↔ ∃ m ∈ x.maps, meet (m.va, m.size) (f.va, f.pages * size) = true) →
    (∀ st : Status, (misaligned ∧ st = .memAlign ∨ ¬ misaligned ∧ range ∧ st = .memRange ∨ ¬ misaligned ∧ ¬ range ∧ straddle ∧ st = .memAlign ∨
        ¬ misaligned ∧ ¬ range ∧ ¬ straddle ∧ busy ∧ st = .memBusy) →
      Replies (.memMap h f) s h 0x0201 1 st [] fun u => u.mem = s.mem ∧ CtxShows u f.ctx fun y => y.maps = x.maps) ∧
    (¬ misaligned → ¬ range → ¬ straddle → ¬ busy →
      Replies (.memMap h f) s h 0x0201 1 .ok [] fun u => u.mem = s.mem ∧ CtxShows u f.ctx fun y =>
        (∀ a, f.va ≤ a → a < f.va + f.pages * size →
          translate y.maps a false = .ok (f.pa + (a - f.va)) ∧
          translate y.maps a true = (if f.write then .ok (f.pa + (a - f.va)) else .error ⟨a, 1, 0⟩)) ∧
        (∀ a, (a < f.va ∨ f.va + f.pages * size ≤ a) → findMap y.maps a = findMap x.maps a))

/-- MEM_UNMAP of mapped pages that no admitted plan declares takes exactly the mappings of those pages away (R179).
MEM_TRANSLATE answers the page table entry (R177): zero where nothing is mapped, else bits 0 and 1 set, write permission, the flags
of a hot-set and of a die-local page, and the frame address.
It concludes that each of these completes: memUnmap, memTranslate. -/
def Obligations.UnmapTakesPagesAwayAndTranslateTells : Prop :=
  (∀ (s : State) (h : PktHead) (ctx va pages size : Nat) (big : Bool) (x : Ctx), Ready s h 1 → ctx ≠ 0 → kvGet ctx s.ctxs = some x →
    size = (if big then 2 ^ 30 else 2 ^ 21) → pages ≠ 0 → va % size = 0 → x.plan = none → (∀ m ∈ x.maps, m.hot = false) →
    (∀ i, i < pages → ∃ m ∈ x.maps, m.va = va + i * size ∧ m.big = big) →
    Replies (.memUnmap h ctx va pages big) s h 0x0202 1 .ok [] fun u => CtxShows u ctx fun y =>
      ∀ m, m ∈ y.maps ↔ m ∈ x.maps ∧ ∀ i, i < pages → m.va ≠ va + i * size) ∧
  ∀ (s : State) (h : PktHead) (ctx va : Nat) (x : Ctx), Ready s h 1 → ctx ≠ 0 → kvGet ctx s.ctxs = some x →
    (findMap x.maps va = none → Replies (.memTranslate h ctx va) s h 0x0203 1 .ok (zeros 8) fun u => u.mem = s.mem) ∧
    ∀ m, findMap x.maps va = some m → m.pa % 4096 = 0 → m.pa < 2 ^ 48 → ∃ res,
      Replies (.memTranslate h ctx va) s h 0x0203 1 .ok res (fun u => u.mem = s.mem) ∧
        field res 0 8 = 3 + (if m.write then 4 else 0) + (if m.hot then 8 else 0) + (if m.loc then 16 else 0) + m.pa

/-- MEM_FILL of a mapped, writable, 64-byte-aligned range of module memory writes the pattern over and over and clears the poison of
its sectors (R188); a range that does not translate writable is refused with ST_MEM_FAULT and nothing is written.
MEM_COPY gives the destination the bytes that the source held when the command began, whatever overlap the ranges have (R359), where
no source sector is poisoned or waits for a rebuild and no two destination addresses are one.
It concludes that each of these completes: memFill, memCopy. -/
def Obligations.FillAndCopyAct : Prop :=
  (∀ (s : State) (h : PktHead) (ctx dst bytes : Nat) (pattern : W64) (x : Ctx), Ready s h 1 → ctx ≠ 0 → kvGet ctx s.ctxs = some x →
    dst % 64 = 0 → bytes % 64 = 0 → s.Canonical →
    x.Aligned → (∀ m ∈ x.maps, ∀ a, m.pa ≤ a → a < m.pa + m.size → a < coreBase ∧ s.region a ≠ .host) →
    ((∀ i, i < bytes → ∃ pa, translate x.maps (dst + i) true = .ok pa) → Replies (.memFill h ctx dst bytes pattern) s h 0x0205 1 .ok [] fun u =>
      ∀ i pa, i < bytes → translate x.maps (dst + i) true = .ok pa →
        cellGet u.mem pa = (leBytes 8 pattern.toNat).getD (i % 8) 0 ∧ u.poisoned pa = false) ∧
    ((∃ i, i < bytes ∧ ∃ e, translate x.maps (dst + i) true = .error e) →
      Replies (.memFill h ctx dst bytes pattern) s h 0x0205 1 .memFault [] fun u => u.mem = s.mem ∧ u.poison = s.poison)) ∧
  ∀ (s : State) (h : PktHead) (ctx src dst bytes : Nat) (x : Ctx), Ready s h 1 → ctx ≠ 0 → kvGet ctx s.ctxs = some x →
    src % 64 = 0 → dst % 64 = 0 → bytes % 64 = 0 → s.Canonical → s.poison = [] → s.rebuild = [] → s.rowDue = [] → s.hi.want = [] →
    x.Aligned → (∀ m ∈ x.maps, ∀ a, m.pa ≤ a → a < m.pa + m.size → a < coreBase ∧ s.region a ≠ .host) →
    (∀ i, i < bytes → (∃ pa, translate x.maps (src + i) false = .ok pa) ∧ ∃ pa, translate x.maps (dst + i) true = .ok pa) →
    (∀ i j, i < bytes → j < bytes → translate x.maps (dst + i) true = translate x.maps (dst + j) true → i = j) →
    Replies (.memCopy h ctx src dst bytes []) s h 0x0204 1 .ok [] fun u =>
      ∀ i a b, i < bytes → translate x.maps (src + i) false = .ok a → translate x.maps (dst + i) true = .ok b →
        cellGet u.mem b = cellGet s.mem a

/-- KV_RING_CREATE writes the header of R139 and every tag, the staging area's among them, as all ones (R139, R140, R359), for a ring in module
memory whose header and planes have an address each; TIER_QUERY answers a token's state, size and poison count (the layout of its results is the
model's, log 18).
It concludes that each of these completes: kvRingCreate, tierQuery. -/
def Obligations.RingCreateAndTierQueryAct : Prop :=
  ∀ (s : State) (h : PktHead) (ctx : Nat) (x : Ctx), Ready s h 1 → ctx ≠ 0 → kvGet ctx s.ctxs = some x →
    (∀ (f : KvRingFields) (all staged : Nat), f.ctx = ctx → f.errs = [] → f.w % 64 = 0 → 64 ≤ f.w → f.w ≤ 2 ^ 20 → 1 ≤ f.d → f.d ≤ 256 → 1 ≤ f.heads → f.heads ≤ 256 →
      f.base % 4096 = 0 → s.Canonical → s.poison = [] → x.Aligned →
      all = f.heads * (headBytes f.w f.d + headBytes 64 f.d) → staged = f.base + f.heads * headBytes f.w f.d →
      (∀ m ∈ x.maps, ∀ a, m.pa ≤ a → a < m.pa + m.size → a < coreBase ∧ s.region a ≠ .host) →
      (∀ i, i < 64 → ∃ pa, translate x.maps (f.header + i) true = .ok pa) → (∀ i, i < all → ∃ pa, translate x.maps (f.base + i) true = .ok pa) →
      (∀ a b, (f.header ≤ a ∧ a < f.header + 64 ∨ f.base ≤ a ∧ a < f.base + all) → (f.header ≤ b ∧ b < f.header + 64 ∨ f.base ≤ b ∧ b < f.base + all) →
        translate x.maps a true = translate x.maps b true → a = b) →
      (f.header + 64 ≤ f.base ∨ f.base + all ≤ f.header) →
      Replies (.kvRingCreate h f) s h 0x0220 1 .ok [] fun u =>
        (∀ i pa, i < 64 → translate x.maps (f.header + i) true = .ok pa → some (cellGet u.mem pa) =
          (leBytes 4 f.w ++ leBytes 2 f.d ++ leBytes 2 f.heads ++ leBytes 4 f.next ++ zeros 2 ++ leBytes 2 f.owner ++ zeros 8 ++ leBytes 8 f.base ++
            zeros 32)[i]?) ∧
        (∀ k i pa, k < f.heads → i < 4 * f.w →
          translate x.maps (f.base + k * headBytes f.w f.d + f.w * (2 * f.d + 4) + i) true = .ok pa → cellGet u.mem pa = 0xFF#8) ∧
        ∀ k i pa, k < f.heads → i < 4 * 64 →
          translate x.maps (staged + k * headBytes 64 f.d + 64 * (2 * f.d + 4) + i) true = .ok pa → cellGet u.mem pa = 0xFF#8) ∧
    ∀ (k : Nat) (t : Token), x.tokens[k]? = some t →
      Replies (.tierQuery h ctx k) s h 0x0210 1 .ok (leBytes 8 t.state ++ leBytes 8 t.size ++ leBytes 8 t.poison) fun u => u.mem = s.mem ∧
        CtxShows u ctx fun y => y.tokens = x.tokens

/-! ## The model cache and the tiers -/

/-- MC_REGISTER makes a model ABSENT with its size and home; MC_PIN and MC_UNPIN of a resident one move its pins by one; MC_EVICT of a
clean one frees its slots; MC_UNREGISTER of an unreferenced one forgets it; MC_QUERY answers state and pins (R200, R371).
It concludes that each of these completes: mcRegister, mcPin, mcUnpin, mcEvict, mcUnregister, mcQuery. -/
def Obligations.ModelCommandsMoveTheModel : Prop :=
  ∀ (s : State) (h : PktHead) (id : Nat), Ready s h 1 →
    (∀ bytes home : Nat, kvGet id s.models = none → bytes ≠ 0 → bytes ≤ s.hotSlots * gib → home % 64 = 0 →
      (s.region home = .lp ∨ s.region home = .host) → s.region (home + bytes - 1) = s.region home →
      Replies (.mcRegister h id bytes home) s h 0x0601 1 .ok [] fun u =>
        ∃ m, kvGet id u.models = some m ∧ m.bytes = bytes ∧ m.home = home ∧ m.state = 0 ∧ m.slots = [] ∧ m.pins = 0 ∧ m.refs = []) ∧
    ∀ m : Model, kvGet id s.models = some m →
      (m.state = 2 → m.pins + (m.waiting.filter fun w => w.2.2 == 0x0604).length < 255 → Replies (.mcPin h id) s h 0x0604 1 .ok [] fun u =>
        ∃ m', kvGet id u.models = some m' ∧ m'.pins = m.pins + 1 ∧ m'.state = 2 ∧ m'.slots = m.slots) ∧
      (m.pins ≠ 0 → Replies (.mcUnpin h id) s h 0x0605 1 .ok [] fun u =>
        ∃ m', kvGet id u.models = some m' ∧ m'.pins + 1 = m.pins ∧ m'.state = m.state ∧ m'.slots = m.slots) ∧
      (m.refs = [] → m.pins = 0 → m.state = 2 → m.dirty = [] →
        (Replies (.mcEvict h id) s h 0x0606 1 .ok [] fun u => ∃ m', kvGet id u.models = some m' ∧ m'.state = 0 ∧ m'.slots = []) ∧
        Replies (.mcUnregister h id) s h 0x0602 1 .ok [] fun u => kvGet id u.models = none ∧
          ∀ k, k ≠ id → kvGet k u.models = kvGet k s.models) ∧
      (∀ first : Nat, Ready s h 8 → m.state < 256 → m.pins < 256 → ∃ res, Replies (.mcQuery h id first) s h 0x0607 8 .ok res (fun u => u.models = s.models) ∧
        field res 0 1 = m.state ∧ field res 1 1 = m.pins)

/-- MC_LOAD of an absent model with free slots enough makes it LOADING in that many slots and waits with its reply; the segment that ends
the load, with its source neither in rebuild nor still on its way from the host (R186, R383), makes it RESIDENT and answers those who waited (R202, R204).
MC_WRITEBACK of a resident model with dirty slots makes it WRITING_BACK; when the write-back ends, its slots are clean and it is
RESIDENT again, unless it was being evicted (R200, R203).
It concludes that each of these completes: mcLoad, transferSegmentComplete, mcWriteback, modelWritebackComplete. -/
def Obligations.ModelLoadsAndWritebacksRun : Prop :=
  (∀ (s : State) (id : Nat) (m : Model), kvGet id s.models = some m →
    (∀ h : PktHead, Ready s h 1 → m.state = 0 → m.waiting = [] → slotsNeeded m.bytes ≤ s.slotsFree.length →
      Completes (.mcLoad h id) s fun t => ∃ m', kvGet id t.models = some m' ∧ m'.state = 1 ∧ m'.slots = s.slotsFree.take (slotsNeeded m.bytes) ∧
        m'.loaded = 0 ∧ m'.waiting = [(h, s.refCount, 0x0603)]) ∧
    (s.running = true → m.state = 1 → m.slots ≠ [] → kvGet m.loader s.ctxs = none → s.tierPick = some (m.loader, true) → m.bytes ≤ m.loaded + 65536 →
      (∀ e ∈ s.models, e.2.state = 1 → e = (id, m)) →
      (s.recover noCtx [(m.home + m.loaded, min segBytes (m.bytes - m.loaded))] []).rebuildDue
        [(m.home + m.loaded, min segBytes (m.bytes - m.loaded))] = false →
      Completes (.transferSegmentComplete m.loader true []) s fun t => ∃ m', kvGet id t.models = some m' ∧ m'.state = 2 ∧ m'.loaded = m.bytes ∧
        m'.slots = m.slots ∧ m'.waiting = [])) ∧
  ∀ (s : State) (id : Nat) (m : Model), kvGet id s.models = some m →
    (∀ h : PktHead, Ready s h 1 → (∀ r ∈ m.refs, r.2 = false) → m.state = 2 → m.dirty ≠ [] →
      Completes (.mcWriteback h id) s fun t => ∃ m', kvGet id t.models = some m' ∧ m'.state = 3 ∧ m'.dirty = m.dirty ∧ m'.slots = m.slots) ∧
    (s.running = true → m.state = 3 → m.evicting = false → s.loads = [] → (s.linkLost = false ∨ s.region m.home ≠ .host) →
      Completes (.modelWritebackComplete id { lost := false }) s fun t =>
        ∃ m', kvGet id t.models = some m' ∧ m'.state = 2 ∧ m'.dirty = [] ∧ m'.slots = m.slots ∧ m'.waiting = [])

/-! ## Packets and plans (15_command_protocol) -/

/-- PACKET_ACCEPT of a whole one-slot packet in its turn, here PWR_CAP_SET with a legal cap, takes the packet off the ring and runs its
command, and the pass goes on behind its queue (R374); one that the pass comes to after another queue's is not taken; one whose CRC is wrong stays at the tail with a zero commit word, and the event queue has one entry more (R327, R355).
It concludes that each of these completes: packetAccept. -/
def Obligations.PacketIsCheckedAndRun : Prop :=
  ∀ (s : State) (c : Nat) (q : QueueRec) (l : List Byte), kvGet c s.queues = some q → s.running = true → q.bell = true →
    l = s.packetBytes q 1 → field l 2 1 = 1 → field l 56 4 = q.cqSeq →
    (field l 60 4 = crc32c (l.take 56) → field l 0 2 = 0x0901 → field l 4 2 < 4 → field l 6 2 = 8 → 1200 ≤ field l 16 8 → field l 16 8 ≤ 1800 →
      s.mayBegin (headOf c q.cqSeq l) = true → s.passedOver c = false → Completes (.packetAccept c []) s fun t => t.power.cap = field l 16 8 ∧
        t.pass = (c + 1) % 1024 ∧
        ∃ q', kvGet c t.queues = some q' ∧ q'.cqTail = (q.cqTail + 1) % q.cqSlots ∧ q'.cqSeq = (q.cqSeq + 1) % 2 ^ 32) ∧
    (field l 60 4 = crc32c (l.take 56) → s.passedOver c = true → exec (.packetAccept c []) s = .next s) ∧
    (field l 60 4 ≠ crc32c (l.take 56) → s.Canonical → s.poison = [] → s.region (q.cqAddr 0) = .cq → q.cqAddr 0 % 64 = 0 →
      s.evq.write < 2 ^ 64 - 1 →
      Completes (.packetAccept c []) s fun t => t.accepted = s.accepted ∧ t.evq.write = s.evq.write + 1 ∧
        (∀ i, i < 8 → cellGet t.mem (q.cqAddr 0 + 56 + i) = 0) ∧
        ∃ q', kvGet c t.queues = some q' ∧ q'.cqTail = q.cqTail ∧ q'.cqSeq = q.cqSeq)

/-- PLAN_ADMIT of an image that neither waits for a rebuild nor for the host's completions (R186, R383) and passes every stage of R369 and has no monotonic program admits its plan: its reply is ST_OK with stage 0
and the image's digest, and the context holds the plan with a save area for each placement position.
An admission that waited for its exhaustive runs takes effect when they end with no step back (R115, R369).
It concludes that each of these completes: planAdmit, monoCheckComplete. -/
def Obligations.LegalImagesAreAdmitted : Prop :=
  (∀ (s a : State) (h : PktHead) (addr bytes : Nat) (x : Ctx) (l : List Byte) (t : State) (p : Plan) (ps : List (Nat × Nat)), Ready s h 2 →
    h.queue ≠ 0 → s.planBusy h.queue = false → s.copyRebuild h h.queue addr bytes [] = none → kvGet h.queue (s.accept h 0x0301).ctxs = some x →
    vspans x.maps false addr bytes = .ok ps → a = (s.accept h 0x0301).recover h.queue ps [] → x.plan = none → x.admitting = none →
    256 ≤ bytes → bytes ≤ 2 ^ 28 → a.vread h.queue addr bytes = .ok (l, none) → loadChecks a h.queue x l = none →
    a.reserve h.queue x (planOf l) = .ok (t, p) → (∀ m ∈ p.mps, m.mono = 0) →
    Completes (.planAdmit h addr bytes []) s fun u =>
      CtxShows u h.queue (fun y => y.plan = some p ∧ y.admitting = none ∧ y.noIssue = x.noIssue ∧ y.positions.length = p.cores) ∧
      ∃ v : State, ∃ spilled : Nat, u = v.reply h 0x0301 2 .ok (admitResults spilled p.digest) ∧ (admitResults spilled p.digest).getD 0 1 = 0) ∧
  ∀ (s : State) (c : Nat) (x : Ctx) (a : Admitting), kvGet c s.ctxs = some x → x.admitting = some a → s.running = true → x.suspended = false →
    (∀ m ∈ a.plan.mps, m.mono ≠ 0 → stepsBack m = false) →
    Completes (.monoCheckComplete c) s fun t => CtxShows t c fun y => y.plan = some a.plan ∧ y.admitting = none

/-- PLAN_RUN with a writable, aligned status area begins the plan step: every operation is pending, with the seed and padding value that stand
now (R301, R333, R365); PLAN_QUERY tells the plan; PLAN_RELEASE of a plan leaves the context without plan, run, positions and tokens and refuses with
ST_PLAN_NONE where there is none (R359).
It concludes that each of these completes: planRun, planRelease, planQuery. -/
def Obligations.PlanRunsAndIsReleased : Prop :=
  ∀ (s : State) (h : PktHead) (x : Ctx), Ready s h 1 → h.queue ≠ 0 → s.planBusy h.queue = false → kvGet h.queue s.ctxs = some x →
    (∀ p, x.plan = some p →
      (∀ step area : Nat, area % 64 = 0 → (∃ l, s.reach h.queue true area (128 * p.ops.length) = .ok l) → x.noIssue = false →
        Completes (.planRun h step area) s fun t => CtxShows t h.queue fun y => y.plan = some p ∧ ∃ r, y.run = some r ∧ r.step = step ∧
          r.area = area ∧ r.seed = x.seedNext ∧ r.pad = x.padNext ∧ r.stop = none ∧ r.ops.length = p.ops.length ∧ ∀ q ∈ r.ops, q.st = .pending) ∧
      (Replies (.planRelease h) s h 0x0302 1 .ok [] fun u => CtxShows u h.queue fun y => y.plan = none ∧ y.run = none ∧ y.positions = [] ∧
        y.tokens = [] ∧ y.cls = x.cls ∧ y.seed = x.seed) ∧
      (p.ops.length < 2 ^ 32 → ∃ res, Replies (.planQuery h) s h 0x0304 1 .ok res (fun u => CtxShows u h.queue fun y => y.plan = some p) ∧
        field res 0 1 = 1 ∧ field res 4 4 = p.ops.length ∧ field res 8 16 = p.digest.toNat % 2 ^ 128)) ∧
    (x.plan = none →
      (Replies (.planRelease h) s h 0x0302 1 .planNone [] fun u => u.mem = s.mem ∧ u.sos = s.sos ∧ u.models = s.models) ∧
      Replies (.planRun h 0 0) s h 0x0303 1 .planNone [] fun u => u.mem = s.mem ∧ u.sos = s.sos ∧ u.models = s.models)

/-! ## Synchronisation objects (13_sync_objects_and_queues) -/

/-- What one operation does to an object (R312, R325), before any waiter is served: the object that stands then, where the operation is
applied at once. Types: 0 SEMAPHORE, 1 EVENT, 2 BARRIER, 3 LOCK, 4 WORKCOUNT, 5 CREDITPOOL. -/
def soNext (op : Nat) (o : Obj) (n c : Nat) (o' : Obj) : Prop :=
  match op with
  | 0 => o.type = 0 ∧ 1 ≤ n ∧ o.value + n ≤ 2 ^ 32 - 1 ∧ o' = { o with value := o.value + n }
  | 1 => o.type = 0 ∧ 1 ≤ n ∧ n ≤ o.value ∧ o' = { o with value := o.value - n }
  | 2 => o.type = 0 ∧ 1 ≤ n ∧ o' = { o with value := if n ≤ o.value then o.value - n else o.value }
  | 3 => o.type = 1 ∧ o' = { o with value := max o.value n }
  | 4 => o.type = 1 ∧ n ≤ o.value ∧ o' = o
  | 5 => o.type = 2 ∧ ((o.arrivals + 1 < o.param ∧ o' = { o with arrivals := o.arrivals + 1 }) ∨
      (o.param ≤ o.arrivals + 1 ∧ o.value < 2 ^ 64 - 1 ∧ o' = { o with arrivals := 0, value := o.value + 1 }))
  | 6 => o.type = 2 ∧ o.param ≤ o.arrivals + 1 ∧ o.value < 2 ^ 64 - 1 ∧ o' = { o with arrivals := 0, value := o.value + 1 }
  | 7 => o.type = 3 ∧ o.holder = none ∧ o' = { o with holder := some (c, 0), boosted := false }
  | 8 => o.type = 3 ∧ (o.holder = none ∧ o' = { o with holder := some (c, 0), boosted := false } ∨ (∃ d, o.holder = some d ∧ d.1 ≠ c) ∧ o' = o)
  | 9 => o.type = 3 ∧ (∃ p, o.holder = some (c, p)) ∧ o' = { o with holder := none }
  | 10 => o.type = 4 ∧ 1 ≤ n ∧ n ≤ 65535 ∧ o.value + n ≤ 2 ^ 64 - 1 ∧ o' = { o with value := o.value + n }
  | 11 => o.type = 5 ∧ 1 ≤ n ∧ n ≤ o.value ∧ o' = { o with value := o.value - n }
  | 12 => o.type = 5 ∧ 1 ≤ n ∧ o.value + n ≤ o.param ∧ o' = { o with value := o.value + n }
  | 13 => o' = o
  | _ => False

/-- The value that TRYWAIT, TRYACQUIRE, FADD and READ return (R312, R317): the value before, or whether the lock was free. -/
def soValue (op : Nat) (o : Obj) : Nat := if op = 8 then (if o.holder = none then 1 else 0) else if op = 13 then o.obValue else o.value

/-- The SYNC command of a code. -/
def syncInstr (op c i : Nat) : Instr :=
  match op with
  | 0 => .syncSignal c i | 1 => .syncWait c i | 2 => .syncTrywait c ⟨i, []⟩ | 3 => .syncRaise c i | 4 => .syncWaitge c i | 5 => .syncArrive c i
  | 6 => .syncArrivewait c i | 7 => .syncAcquire c i | 8 => .syncTryacquire c ⟨i, []⟩ | 9 => .syncRelease c i | 10 => .syncFadd c ⟨i, []⟩
  | 11 => .syncTake c i | 12 => .syncReturn c i | _ => .syncRead c ⟨i, []⟩

/-- Each of the fourteen SYNC operations on a local object with no waiter, whose condition holds, changes the object as R312 says and ends with
ST_OK (R363), with the value it returns at its result address where it names one; one of a type that does not take it is refused with ST_SO_RANGE and
leaves the object.
It concludes that each of these completes: syncSignal, syncWait, syncTrywait, syncRaise, syncWaitge, syncArrive, syncArrivewait, syncAcquire,
syncTryacquire, syncRelease, syncFadd, syncTake, syncReturn, syncRead. -/
def Obligations.SyncOperationsChangeTheirObject : Prop :=
  ∀ (s : State) (c i op : Nat) (p : Plan) (r : Run) (f : SyncF) (o : Obj), op < 14 → OpDue s c i p r (.sync f) → f.op = op → f.module = 0xFFFF →
    kvGet f.so s.sos = some o → o.broken = false → o.waits = [] →
    (∀ o' v, soNext op o f.n c o' → (if f.result = 0 ∨ op ∉ [2, 8, 10, 13] then v = s else s.vwrite c f.result (leBytes 8 (soValue op o)) = .ok v) →
      Completes (syncInstr op c i) s fun t => kvGet f.so t.sos = some o' ∧ EndsOver t c i r .ok v ∧ ∀ k, k ≠ f.so → kvGet k t.sos = kvGet k s.sos) ∧
    (soTakes o.type op = false → EarlierOp r i → Completes (syncInstr op c i) s fun t => OpEnded t c i .soRange ∧
      ∃ o', kvGet f.so t.sos = some o' ∧ o'.value = o.value ∧ o'.holder = o.holder ∧ o'.arrivals = o.arrivals)

/-- WAIT, WAITGE and TAKE whose condition does not hold, an ARRIVEWAIT that is not the last to arrive, and an ACQUIRE of a lock that another context of no
lower class holds, wait: the operation has begun and stands among the object's waits (R312, R317).
A wait's wake ends its operation with ST_OK (R318); an expired timeout withdraws the wait and ends it with ST_WAIT_TIMEOUT (R320); a parity error breaks
the object and leaves no wait (R319); a boost whose budget has run out is over, one with budget left goes on (R353).
It concludes that each of these completes: waiterWake, soWaitTimeout, soParityError, boostBudgetExpire. -/
def Obligations.UnmetOperationsWaitAndEnd : Prop :=
  (∀ (s : State) (c i op : Nat) (p : Plan) (r : Run) (f : SyncF) (o : Obj), OpDue s c i p r (.sync f) → f.op = op → f.module = 0xFFFF →
    kvGet f.so s.sos = some o → o.broken = false → o.waits = [] →
    ((op = 1 ∧ o.type = 0 ∧ 1 ≤ f.n ∧ o.value < f.n) ∨ (op = 4 ∧ o.type = 1 ∧ o.value < f.n) ∨ (op = 11 ∧ o.type = 5 ∧ 1 ≤ f.n ∧ o.value < f.n) ∨
      (op = 6 ∧ o.type = 2 ∧ o.arrivals + 1 < o.param) ∨
      (op = 7 ∧ o.type = 3 ∧ ∃ d y, o.holder = some d ∧ d.1 ≠ c ∧ kvGet d.1 s.ctxs = some y ∧ s.waiterClass (.op c i) ≤ y.cls)) →
    Completes (syncInstr op c i) s fun t => OpShows t c i (fun q => q.st = .begun) ∧
      ∃ o', kvGet f.so t.sos = some o' ∧ o'.value = o.value ∧ ∃ w ∈ o'.waits, w.who = .op c i ∧ w.left = f.tmo) ∧
  ∀ (s : State) (so : Nat) (o : Obj), kvGet so s.sos = some o →
    (∀ (c i : Nat) (x : Ctx) (p : Plan) (r : Run) (po : PlanOp) (q : OpRun), s.opOf c i = some (x, p, r, po, q) → q.st = .begun → q.poisoned = false →
      q.poisonAt = none → q.dup = false → MoreOps r i → RecordOpen s c i r → o.granted = [.op c i] →
      Completes (.waiterWake so c) s fun t => OpEnded t c i .ok ∧ ∃ o', kvGet so t.sos = some o' ∧ o'.granted = [] ∧ o'.value = o.value) ∧
    (∀ (c i : Nat) (x : Ctx) (p : Plan) (r : Run) (po : PlanOp) (q : OpRun) (w : Wait), s.opOf c i = some (x, p, r, po, q) → q.st = .begun →
      EarlierOp r i → RecordOpen s c i r → x.pos0 = true → o.waits = [w] → w.who = .op c i → w.left ≠ 0 →
      Completes (.soWaitTimeout so c) s fun t => OpEnded t c i .waitTimeout ∧ ∃ o', kvGet so t.sos = some o' ∧ o'.waits = [] ∧ o'.value = o.value) ∧
    (Completes (.soParityError so) s fun t => ∃ o', kvGet so t.sos = some o' ∧ o'.broken = true ∧ o'.waits = []) ∧
    ∀ b : Boost, s.boosts.find? (fun b => b.so == so) = some b →
      (s.refCount < b.since + 1000 * b.budget → exec (.boostBudgetExpire so) s = .next s) ∧
      (b.since + 1000 * b.budget ≤ s.refCount → Completes (.boostBudgetExpire so) s fun t => (∀ e ∈ t.boosts, e.so ≠ so) ∧
        ∀ q, s.pos? b.holder b.pos = some q → PosShows t b.holder b.pos fun q' => q'.boost = none)

/-- SO_CREATE of each of the six types makes an object with its initial value and parameter; SO_READ answers type, flags, domain, holder, waits, arrivals,
value and parameter and changes none; SO_SIGNAL applies its code (TRYWAIT and FADD answer the value before) and refuses one that the type does not take;
SO_RESET sets the value and clears flags and arrivals; SO_DESTROY forgets the object, and both are refused with ST_SO_BUSY while a wait is pending or a lock
held, the second also while a plan names the object (R310, R312).
It concludes that each of these completes: soCreate, soRead, soSignal, soReset, soDestroy. -/
def Obligations.ObjectCommandsOfTheHost : Prop :=
  ∀ (s : State) (h : PktHead) (id : Nat), Ready s h 1 →
    (∀ f : SoFields, f.id = id → id ≠ 0xFFFF → kvGet id s.sos = none → f.type < 6 →
      (f.type = 2 → 1 ≤ f.param ∧ f.param ≤ 65535) → (f.type = 5 → 1 ≤ f.param ∧ f.param ≤ 2 ^ 63) → (f.type ≠ 2 → f.type ≠ 5 → f.param = 0) →
      soValueOk f.type f.param f.init = true → Replies (.soCreate h f) s h 0x0401 1 .ok [] fun u =>
        ∃ o, kvGet id u.sos = some o ∧ o.type = f.type ∧ o.obValue = f.init ∧ o.param = f.param ∧ o.arrivals = 0 ∧ o.domain = f.domain ∧
          o.remote = f.remote ∧ o.holder = none ∧ o.waits = [] ∧ o.broken = false ∧ ∀ k, k ≠ id → kvGet k u.sos = kvGet k s.sos) ∧
    ∀ o : Obj, kvGet id s.sos = some o →
      (o.type < 6 → o.waits.length < 2 ^ 32 → ∃ res, Replies (.soRead h id) s h 0x0403 1 .ok res (fun u => u.sos = s.sos) ∧ res.length = 32 ∧
        field res 0 1 = o.type ∧ field res 1 1 = b2n o.ovf + 2 * b2n o.broken ∧ field res 2 2 = o.domain % 2 ^ 16 ∧
        (o.holder = none → field res 4 2 = 0xFFFF ∧ field res 6 2 = 0xFFFF) ∧
        (∀ d, o.holder = some d → field res 4 2 = d.1 % 2 ^ 16 ∧ field res 6 2 = d.2 % 2 ^ 16) ∧ field res 8 4 = o.waits.length ∧
        field res 12 4 = (if o.type = 2 then o.arrivals % 2 ^ 32 else 0) ∧ field res 16 8 = o.obValue % 2 ^ 64 ∧ field res 24 8 = o.param % 2 ^ 64) ∧
      (o.waits = [] → o.broken = false → ∀ op n o', op ∈ [0, 2, 3, 5, 10, 12] → soNext op o n 0 o' →
        Replies (.soSignal h id op n) s h 0x0404 1 .ok (if op = 2 ∨ op = 10 then leBytes 8 o.value else []) fun u => kvGet id u.sos = some o') ∧
      (∀ op n, op ∈ [0, 2, 3, 5, 10, 12] → soTakes o.type op = false →
        Replies (.soSignal h id op n) s h 0x0404 1 .soRange [] fun u => u.sos = s.sos) ∧
      (∀ v, soValueOk o.type o.param v = true →
        (o.waits = [] → o.holder = none → Replies (.soReset h id v) s h 0x0405 1 .ok [] fun u =>
          ∃ o', kvGet id u.sos = some o' ∧ o'.value = v ∧ o'.broken = false ∧ o'.ovf = false ∧ o'.arrivals = 0 ∧ o'.type = o.type) ∧
        (o.waits ≠ [] ∨ o.holder.isSome = true → Replies (.soReset h id v) s h 0x0405 1 .soBusy [] fun u => u.sos = s.sos)) ∧
      (o.waits = [] → o.holder = none → s.planNames id = false → Replies (.soDestroy h id) s h 0x0402 1 .ok [] fun u =>
        kvGet id u.sos = none ∧ ∀ k, k ≠ id → kvGet k u.sos = kvGet k s.sos) ∧
      (o.waits ≠ [] ∨ o.holder.isSome = true → Replies (.soDestroy h id) s h 0x0402 1 .soBusy [] fun u => u.sos = s.sos)

/-! ## Configuration, firmware, identity (15 R360, 19_firmware R426 to R448) -/

/-- CFG_SET: the quantum (key 5) is in force at once; a persistent key whose values are in range together is pending and its store begins; out of range
together, nothing changes. CFG_GET answers both values (R360).
It concludes that each of these completes: cfgSet, cfgGet. -/
def Obligations.ConfigurationIsSetAndRead : Prop :=
  ∀ (s : State) (h : PktHead) (v : Nat), Ready s h 1 → s.cfgCur.length = 5 → s.cfgPend.length = 5 →
    (v ≤ 1000000 → Completes (.cfgSet h 5 v) s fun t => nth t.cfgCur 4 = v ∧ nth t.cfgPend 4 = v ∧
      ∀ i, i < 4 → nth t.cfgCur i = nth s.cfgCur i ∧ nth t.cfgPend i = nth s.cfgPend i) ∧
    ∀ key, 1 ≤ key → key ≤ 4 →
      (s.cfgOk (s.cfgPend.set (key - 1) v) = true → s.power.stable = true → s.fw.store = none → s.fw.waiting = [] →
        Completes (.cfgSet h key v) s fun t => nth t.cfgPend (key - 1) = v ∧ t.cfgCur = s.cfgCur ∧ t.fw.intent = some ⟨.config, s.fw.cfgBase⟩ ∧ t.fw.store.isSome = true) ∧
      (s.cfgOk (s.cfgPend.set (key - 1) v) = false →
        Replies (.cfgSet h key v) s h 0x0230 1 .cfgValue [] fun u => u.cfgPend = s.cfgPend ∧ u.cfgCur = s.cfgCur ∧ u.fw = s.fw) ∧
      Replies (.cfgGet h key) s h 0x0231 1 .ok (leBytes 4 (nth s.cfgCur (key - 1)) ++ leBytes 4 (nth s.cfgPend (key - 1))) fun u =>
        u.cfgCur = s.cfgCur ∧ u.cfgPend = s.cfgPend

/-- FW_STAGE_WRITE, FW_STAGE_COMMIT and FW_ACTIVATE that pass their checks with a stable input begin their store, with its intent in the log; the first write
erases marker and area at once, and a write takes a commit back; a failed check is the reply and leaves the firmware state; a ring-step activation is
scheduled with its shadow, or refused where a digest differs (the status then is the model's choice, log 130) (R430 to R437).
A host command's store whose read-back passes stands in flash, its intent closed; what it served takes effect; a configuration store writes the older copy
and leaves the newer, and a value reverts with a failed read-back (R426, R430, R431). A background copy ends with the fuse programs that it makes due, the
first begun with its intent, and a fuse program raises its floor or revokes (R440).
CALM_POINT saves every position; with all saved it runs the staged image and retrains the ports, or lets the schedule lapse where the shadow has changed
(log 130); with no port retraining it resumes and the copy to the active area begins (R439).
It concludes that each of these completes: fwStageWrite, fwStageCommit, fwActivate, flashStoreComplete, cfgSet, fwBackgroundCopyComplete, calmPoint. -/
def Obligations.FirmwareStoresRun : Prop :=
  (∀ (s : State) (h : PktHead), Ready s h 1 → s.fw.store = none → s.fw.waiting = [] → s.power.stable = true → Memory.wf s.fw.flash = true →
    (∀ (offset : Nat) (data : List Byte), data.length % 64 = 0 → 64 ≤ data.length → data.length ≤ 4032 →
      (s.fw.stageRefuse offset data.length = none → Completes (.fwStageWrite h offset data) s fun t =>
        t.fw.intent = some ⟨.staging, stgBase + offset⟩ ∧ t.fw.staged = none ∧ t.fw.logSeq = s.fw.logSeq + 1 ∧
        (∃ st, t.fw.store = some st ∧ st.base = stgBase + offset ∧ st.data = data ∧ st.erase = s.fw.stageErase) ∧
        ∀ a, stgBase ≤ a → a < stgBase + imageArea + 4096 →
          cellGet t.fw.flash a = if s.fw.stgFresh then cellGet [] a else cellGet s.fw.flash a) ∧
      ∀ e, s.fw.stageRefuse offset data.length = some e →
        Replies (.fwStageWrite h offset data) s h 0x0801 1 e [] fun u => u.fw = s.fw) ∧
    (s.fw.scheduled = false →
      (∀ m, s.fw.verify stgBase = .ok m → Completes (.fwStageCommit h) s fun t => t.fw.intent = some ⟨.stagingMark, stgMark⟩ ∧
        (∃ st, t.fw.store = some st ∧ st.base = stgMark ∧ st.data = markerBytes m.digest m.bytes) ∧
        ∀ a, (a < intentLog ∨ intentLog + 131072 ≤ a) → cellGet t.fw.flash a = cellGet s.fw.flash a) ∧
      (∀ e, s.fw.verify stgBase = .error e → Replies (.fwStageCommit h) s h 0x0802 1 e [] fun u => u.fw = s.fw) ∧
      (∀ m tag step, s.fw.staged = some m → Completes (.fwActivate h 0 tag step) s fun t => t.fw.intent = some ⟨.pendingAct, pendRec⟩ ∧
        ∃ st, t.fw.store = some st ∧ st.base = pendRec ∧ st.data = digestBytes m.digest) ∧
      (∀ tag step, s.fw.staged = none → Replies (.fwActivate h 0 tag step) s h 0x0803 1 .fwStaging [] fun u => u.fw = s.fw) ∧
      ∀ m r tag step, s.fw.staged = some m → s.fw.running = some r → m.cls = r.cls → m.stateFmt = r.stateFmt → s.fw.log.length + 7 ≤ 64 →
        (∃ g ∈ s.trade, g.1 % 2 ^ 32 = tag) →
        (shadowOk s.fw.bodies m = true → Replies (.fwActivate h 1 tag step) s h 0x0803 1 .ok [] fun u =>
          u.fw.sched = some (tag, step) ∧ u.fw.schedDecided = false ∧ u.fw.shadow = s.fw.bodies ∧ u.fw.flash = s.fw.flash) ∧
        (shadowOk s.fw.bodies m = false → Replies (.fwActivate h 1 tag step) s h 0x0803 1 .fwSignature [] fun u => u.fw = s.fw))) ∧
  ∀ s : State, s.fw.waiting = [] → s.resetDue = false →
    (∀ st h since op, s.fw.store = some st → st.owner = .host h since op → s.fw.copying = false → s.fw.fuses = [] → Memory.wf s.fw.flash = true →
      (st.kind ≠ .copyActive → (st.base + st.data.length ≤ cfgStore ∨ intentLog ≤ st.base) →
        Completes (.flashStoreComplete true) s fun t => t.fw.store = none ∧ t.fw.intent = st.left ∧
        t.fw.bytes st.base st.data.length = st.data ∧
        (∀ tag step mode, st.cmd = some (.activate mode tag step) → t.fw.pendingAct = s.fw.staged.map Manifest.digest) ∧
        ∀ o d, st.cmd = some (.stageWrite o d) → t.fw.stgEnd = o + d.length ∧ t.fw.staged = none) ∧
      (st.kind = .config → ∀ key old v, st.cmd = some (.cfgSet key old v) → key - 1 < s.cfgPend.length →
        (st.data = [] → Completes (.flashStoreComplete true) s fun t => t.cfgPend = s.cfgPend ∧ t.fw.cfgSeq = s.fw.cfgSeq + 1 ∧
          t.fw.count = s.fw.count + 1 ∧ ∀ a, cfgStore ≤ a → a < intentLog → (a < s.fw.cfgBase ∨ s.fw.cfgBase + 65536 ≤ a) →
            cellGet t.fw.flash a = cellGet s.fw.flash a) ∧
        Completes (.flashStoreComplete false) s fun t => t.fw.store = none ∧ t.fw.intent = st.left ∧ nth t.cfgPend (key - 1) = old)) ∧
    (∀ m st, s.fw.running = some m → s.fw.copying = true → s.fw.store = some st → st.owner = .background → st.kind = .copyActive →
      Completes (.fwBackgroundCopyComplete) s fun t => t.fw.copying = false ∧
        (s.fw.fusesDue m = [] → t.fw.store = none ∧ t.fw.intent = none) ∧
        ∀ x l, s.fw.fusesDue m = x :: l → s.power.stable = true → s.hi.bootStage = 4 →
          t.fw.fuses = l ∧ t.fw.intent = some ⟨.fuse, x.1⟩ ∧ ∃ st', t.fw.store = some st' ∧ st'.fuse = some x) ∧
    (∀ st x ok, s.fw.store = some st → st.owner = .background → st.kind = .fuse → st.fuse = some x →
      Completes (.flashStoreComplete ok) s fun t =>
        (x.1 = 0 → t.fw.fzRevoke = s.fw.fzRevoke ||| x.2 ∧ t.fw.fzSvn = s.fw.fzSvn) ∧
        (1 ≤ x.1 → x.1 - 1 < s.fw.fzSvn.length → nth t.fw.fzSvn (x.1 - 1) = max (nth s.fw.fzSvn (x.1 - 1)) x.2 ∧ t.fw.fzRevoke = s.fw.fzRevoke)) ∧
    ∀ x m, s.fw.sched = some x → s.fw.staged = some m → s.fw.schedDecided = true → s.halted = false →
      (s.calm = none → s.calmDue x.1 = true → s.fw.store = none → Completes (.calmPoint) s fun t => t.calm = some x.2 ∧
        ∀ c y, kvGet c t.ctxs = some y → ∀ q ∈ y.positions, q.resident? = none) ∧
      (s.calm.isSome = true → s.fw.loaded = false → s.allSaved = true →
        (shadowOk s.fw.shadow m = true → Completes (.calmPoint) s fun t => t.calm = s.calm ∧ t.fw.loaded = true ∧ t.fw.running = some m ∧
          t.fw.log = s.fw.log ++ m.logEntries ∧ ∀ p ∈ t.ports, p.state ≠ 3) ∧
        (shadowOk s.fw.shadow m = false → Completes (.calmPoint) s fun t => t.calm = none ∧ t.fw.sched = none ∧ t.fw.running = s.fw.running)) ∧
      (s.calm.isSome = true → s.fw.loaded = true → s.retraining = true → exec .calmPoint s = .next s) ∧
      (s.calm.isSome = true → s.fw.loaded = true → s.retraining = false → Completes (.calmPoint) s fun t => t.calm = none ∧ t.fw.sched = none ∧
        t.fw.copying = true ∧ t.fw.running = s.fw.running ∧ t.fw.count = s.fw.count + 1 ∧
        (s.power.stable = true → s.hi.bootStage = 4 → s.fw.store = none → ∃ st, t.fw.store = some st ∧ st.kind = .copyActive ∧ st.owner = .background))

/-- FW_QUERY answers the digest and release of the running image and the SVN floors; ATTEST_QUOTE and IDENT_READ put their bytes into the host window
with ST_OK, and refuse a destination that is not in it (R441, R444, R446).
It concludes that each of these completes: fwQuery, attestQuote, identRead. -/
def Obligations.FirmwareAndIdentityAreTold : Prop :=
  ∀ (s : State) (h : PktHead),
    (Ready s h 2 → ∃ res, Replies (.fwQuery h) s h 0x0804 2 .ok res (fun u => u.fw = s.fw) ∧ res.length = 96 ∧
      field res 0 16 = ((s.fw.running.map Manifest.digest).getD 0).toNat % 2 ^ 128 ∧
      field res 48 8 = ((s.fw.running.map Manifest.release).getD 0) % 2 ^ 64 ∧ ∀ i, i < 6 → field res (64 + i) 1 = nth s.fw.fzSvn i % 256) ∧
    (Ready s h 1 → s.fw.store = none → s.fw.waiting = [] → s.hi.linkUp = true →
      (∀ nonce dest, s.inHost dest (128 + 64 * s.fw.log.length + 49856) = true → Replies (.attestQuote h nonce dest) s h 0x0810 1 .ok [] fun u =>
        ∀ i, i < 128 + 64 * s.fw.log.length + 49856 → kvGet (s.hi.winBase + (dest - hostBase) + i) u.hi.view = (s.quoteBytes nonce)[i]?) ∧
      (∀ dest, s.inHost dest 59840 = true → Replies (.identRead h dest) s h 0x0811 1 .ok [] fun u =>
        ∀ i, i < 59840 →
          kvGet (s.hi.winBase + (dest - hostBase) + i) u.hi.view = (s.fw.identCert ++ s.attCert)[i]?) ∧
      ∀ dest, s.inHost dest 59840 = false → Replies (.identRead h dest) s h 0x0811 1 .paramRange [] fun u => u.hi = s.hi ∧ u.mem = s.mem)

/-- The recovery window (R442), in recovery mode and not busy: ERASE_STAGING, WRITE, COMMIT and INSTALL begin their stores; BOOT_ACTIVE closes an open
intent whose target is neither the active image nor the configuration store and starts, or is refused; RESTART with an intent open is in recovery mode
again; I2C reaches its registers (R461).
RESET_ORDERED with no store in progress and no reply held resets every island; RESET_N_LOW does so at once (R452). RESET_RELEASE starts the module:
recovery mode with an open intent or RECOVERY_N low, else it waits for a stable input (R431), copies a committed image that is to be activated (R436), or
begins the store of the boot count for a verified active image (R435 step 5). With that store the image runs at `BOOT_STAGE` 3, memory initialised and
the configuration in force (steps 6 to 8), and the end of UCIe training brings `BOOT_STAGE` 4 and opens the journal queue (R435, R448).
It concludes that each of these completes: recEraseStaging, recCommit, recWrite, recInstall, recBootActive, recRestart, i2cRecoveryAccess,
resetOrdered, resetNLow, resetRelease, flashStoreComplete, ucieTrainAttemptEnd. -/
def Obligations.RecoveryResetsAndStartAct : Prop :=
  (∀ s : State, s.recReady = true → s.power.stable = true → s.fw.store = none →
    (s.fw.scheduled = false →
      (Completes (.recEraseStaging) s fun t => t.recw.state = 1 ∧ ∃ st, t.fw.store = some st ∧ st.erase = some (stgBase, imageArea + 4096)) ∧
      ∀ m, s.fw.verify stgBase = .ok m → Completes (.recCommit) s fun t => t.recw.state = 1 ∧
        ∃ st, t.fw.store = some st ∧ st.base = stgMark ∧ st.data = markerBytes m.digest m.bytes) ∧
    (s.recw.length % 64 = 0 → 64 ≤ s.recw.length → s.recw.length ≤ 32768 → s.fw.stageRefuse s.recw.offset s.recw.length = none →
      Completes (.recWrite) s fun t => t.recw.state = 1 ∧
        ∃ st, t.fw.store = some st ∧ st.base = stgBase + s.recw.offset ∧ st.data = s.recw.bytes s.recw.length) ∧
    ((s.fw.marker stgMark).isSome = true → Completes (.recInstall) s fun t => t.recw.state = 1 ∧ t.fw.intent = some ⟨.copyActive, 0⟩ ∧
      ∃ st, t.fw.store = some st ∧ st.kind = .copyActive ∧ st.left = s.fw.intent) ∧
    (∀ k, s.fw.intent = some k → k.kind ≠ .copyActive → k.kind ≠ .config → Completes (.recBootActive) s fun t => t.ctxs = [] ∧
      (t.hi.bootStage = 1 ∨ t.hi.bootStage = 2 ∧ t.fw.intent = none ∧ t.recw.cause ≠ 1)) ∧
    ((∀ k, s.fw.intent = some k → k.kind = .copyActive ∨ k.kind = .config) → Completes (.recBootActive) s fun t => t.recw.state = 3 ∧
      t.recw.result ∈ statusCodes ∧ t.hi = s.hi ∧ t.fw = s.fw) ∧
    (∀ k, s.fw.intent = some k → Completes (.recRestart) s fun t => t.hi.bootStage = 2 ∧ t.recw.cause = 1 ∧ t.fw.intent = some k ∧ t.ctxs = []) ∧
    (s.power.auxOk = true → ∀ addr, addr = 0x60 + s.power.straps →
      (∀ o, o % 8 = 0 → Completes (.i2cRecoveryAccess addr o false [] 8) s fun t => t.power.i2cOut = leBytes 8 (s.recRead o) ∧ t.recw = s.recw) ∧
      ∀ data : List Byte, data.length = 8 → Completes (.i2cRecoveryAccess addr 0x18 true data 0) s fun t => t.recw.offset = leNat data)) ∧
  ∀ s : State,
    (∀ h : PktHead, Ready s h 1 → s.fw.store = none → s.held = [] → s.linkLost = false → Completes (.resetOrdered h) s fun t =>
      t.hi.bootStage = 0 ∧ t.ctxs = [] ∧ t.queues = [] ∧ t.resetDue = false ∧ t.cfgPend = s.cfgPend ∧ t.mem = (s.accept h 0x0820 |>.replyWrite h 0x0820 1 .ok []).mem) ∧
    (s.power.auxOk = true → Completes (.resetNLow) s fun t => t.hi.bootStage = 0 ∧ t.ctxs = [] ∧ t.queues = [] ∧ t.sos = [] ∧ t.halted = false ∧
      t.refCount = 0 ∧ t.fw.flash = s.fw.flash ∧ t.mem = s.mem) ∧
    (s.power.pwrGood = true → s.hi.bootStage = 0 →
      (∀ b, s.fw.intent.isSome = true → Completes (.resetRelease b) s fun t => t.hi.bootStage = 2 ∧ t.recw.cause = 1 ∧ t.hi.train.isSome = true) ∧
      (s.fw.intent = none →
        (Completes (.resetRelease false) s fun t => t.hi.bootStage = 2 ∧ t.recw.cause = 4 ∧ t.power.recoveryN = false) ∧
        (s.power.stable = false → Completes (.resetRelease true) s fun t => t.hi.bootStage = 1 ∧ t.fw.flash = s.fw.flash ∧ t.fw.store = s.fw.store) ∧
        (s.power.stable = true → s.fw.pendingAct.isSome = true → (s.fw.marker stgMark).isSome = true → Completes (.resetRelease true) s fun t =>
          t.hi.bootStage = 1 ∧ (∃ st, t.fw.store = some st ∧ st.kind = .copyActive ∧ st.owner = .start) ∧ t.fw.num actMark 4 = 0) ∧
        ∀ m, s.power.stable = true → s.fw.pendingAct = none → s.fw.bootable = .ok m → Completes (.resetRelease true) s fun t =>
          t.hi.bootStage = 1 ∧ t.hi.train.isSome = true ∧ ∃ st, t.fw.store = some st ∧ st.kind = .config ∧ st.owner = .start)) ∧
    (∀ m st, s.hi.bootStage = 1 → s.hi.train.isSome = true → s.fw.store = some st → st.kind = .config → st.owner = .start → st.data = [] →
      s.fw.waiting = [] → s.resetDue = false → Memory.wf s.fw.flash = true → s.fw.bootable = .ok m →
      Completes (.flashStoreComplete true) s fun t => t.hi.bootStage = 3 ∧ t.fw.running = some m ∧ t.mem = [] ∧ t.poison = [] ∧
        t.fw.boots = s.fw.boots + 1 ∧ t.cfgCur = s.cfgPend.take 4 ++ [10000]) ∧
    ∀ t0, s.hi.bootStage = 3 → s.hi.train = some t0 → t0.started = true → t0.again = false → s.resetDue = false →
      Completes (.ucieTrainAttemptEnd true) s fun t => t.hi.bootStage = 4 ∧ t.hi.linkUp = true ∧ t.fw.jwait = [] ∧ t.fw.running = s.fw.running

/-! ## Resets, the start, power and thermal limits (20_power) -/

/-- The host cap, the governor and the thermal limits (R453 to R457): PWR_CAP_SET within its range sets the cap; PWR_QUERY tells cap, limit and step; the
governor lowers the step above the limit, raises it by one after 100 ticks well below it, and holds it between; a sensor at its throttle limit lowers
the islands that it controls by one step, one at its shutdown limit shuts the module down, one that has cooled raises them.
The inputs (R431, R449 to R451): INPUT_VOLTAGE_EVENT sets the voltage, whether it is stable, and the alarm below range; INPUT_SHUTDOWN outside the
limits drops PWR_GOOD and resets; the two power-ups restore their input and, with both good, PWR_GOOD.
It concludes that each of these completes: pwrCapSet, pwrQuery, governorTick, thermalSample, thermalStepUp, inputVoltageEvent, inputShutdown,
auxPowerUp, busbarPowerUp. -/
def Obligations.PowerAndThermalEventsAct : Prop :=
  (∀ s : State,
    (∀ (h : PktHead) (cap : Nat), Ready s h 1 →
      (1200 ≤ cap → cap ≤ 1800 → Replies (.pwrCapSet h cap) s h 0x0901 1 .ok [] fun u => u.power.cap = cap ∧ u.power.step = s.power.step) ∧
      ((cap < 1200 ∨ 1800 < cap) → Replies (.pwrCapSet h cap) s h 0x0901 1 .powerRange [] fun u => u.power = s.power) ∧
      ∃ res, Replies (.pwrQuery h) s h 0x0902 1 .ok res (fun u => u.power = s.power) ∧ res.length = 16 ∧ field res 0 2 = s.power.cap % 65536 ∧
        field res 2 2 = s.powerLimit % 65536 ∧ field res 8 1 = s.power.step % 256) ∧
    (s.powered = true →
      (∀ pin pin1s, s.powerLimit * 1000 < pin → Completes (.governorTick pin pin1s) s fun t =>
        t.power.step = max 30 (s.power.step * (s.powerLimit * 1000) / pin - 1) ∧ t.power.pinMw = pin ∧ t.power.low = 0) ∧
      (∀ pin pin1s, pin ≤ s.powerLimit * 1000 → 97 * (s.powerLimit * 1000) ≤ 100 * pin → Completes (.governorTick pin pin1s) s fun t =>
        t.power.step = s.power.step ∧ t.power.low = 0) ∧
      (∀ pin pin1s, 100 * pin < 97 * (s.powerLimit * 1000) → 99 ≤ s.power.low → s.power.step < 125 → s.power.thermSteps = [] →
        Completes (.governorTick pin pin1s) s fun t => t.power.step = s.power.step + 1) ∧
      (∀ (x : Sample) (l : Int), throttleOf x.kind = some l → l ≤ x.temp → (∀ e ∈ limitsOf x.kind, e.1 = 2 → x.temp < e.2) →
        Completes (.thermalSample [x]) s fun t => t.power.pwrGood = s.power.pwrGood ∧ ∀ u ∈ controlled x.kind x.unit,
          kvGetD u s.power.thermSteps 125 ≤ 125 → kvGetD u t.power.thermSteps 125 = max 30 (kvGetD u s.power.thermSteps 125 - 1)) ∧
      (∀ (x : Sample) (l : Int), (2, l) ∈ limitsOf x.kind → l ≤ x.temp → Completes (.thermalSample [x]) s fun t =>
        t.power.pwrGood = false ∧ t.power.thermN = false ∧ t.hi.bootStage = 0 ∧ t.mirror.state = 2 ∧ t.ctxs = []) ∧
      ∀ k unit t0 l, throttleOf k = some l → t0 + 5000 ≤ l → s.power.temps = [((k, unit), t0)] → Completes (.thermalStepUp k unit) s fun t =>
        ∀ u ∈ controlled k unit, kvGetD u s.power.thermSteps 125 ≤ 125 → kvGetD u t.power.thermSteps 125 = min 125 (kvGetD u s.power.thermSteps 125 + 1))) ∧
  ∀ s : State,
    (∀ mv, Completes (.inputVoltageEvent mv) s fun t => t.power.vinMv = mv ∧ t.power.stable = decide (54000 ≤ mv ∧ mv ≤ 62000) ∧
      (s.hi.bootStage ≠ 1 → t.hi.bootStage = s.hi.bootStage) ∧
      (s.powered = true → mv < 54000 → t.power.alarm = some 0) ∧ (s.powered = true → 62000 < mv → t.power.alarm = some 1)) ∧
    (∀ mv, (mv < 50000 ∨ 66000 < mv) → Completes (.inputShutdown false mv) s fun t => t.power.pwrGood = false ∧ t.power.busOk = false ∧
      t.power.auxOk = s.power.auxOk ∧ t.hi.bootStage = 0 ∧ t.ctxs = [] ∧ t.fw.flash = s.fw.flash) ∧
    (∀ mv, (mv < 10800 ∨ 13500 < mv) → Completes (.inputShutdown true mv) s fun t => t.power.pwrGood = false ∧ t.power.auxOk = false ∧
      t.mirror = State.reset.mirror ∧ t.hi.bootStage = 0 ∧ t.ctxs = []) ∧
    (∀ straps, s.power.auxOk = false → Completes (.auxPowerUp straps) s fun t => t.power.auxOk = true ∧ t.power.straps = straps % 8 ∧
      (s.power.busOk = true → s.power.temps = [] → t.power.pwrGood = true)) ∧
    (s.power.busOk = false → Completes (.busbarPowerUp) s fun t => t.power.busOk = true ∧ 54000 ≤ t.power.vinMv ∧ t.power.vinMv ≤ 62000 ∧
      (s.power.auxOk = true → s.power.temps = [] → t.power.pwrGood = true))

/-- TEL_READ whose messages get through at once answers the nominal clock under index 3 and the detected errors under index 7 (R419), and refuses a unit that
the order number lacks; one whose message fails eight times at a receiver ends in a halt (R414, R415);
LULL_READ answers 104 bytes a position (R295); the mirror is refreshed with state, limit and power, and read over I2C (R425, R461).
It concludes that each of these completes: telRead, lullRead, telemetryMirrorRefresh, i2cMirrorRead. -/
def Obligations.TelemetryAnswers : Prop :=
  ∀ s : State,
    (∀ (h : PktHead) (unit : Nat), Ready s h 1 →
      (¬ Heard h.msg → Completes (.telRead h unit 3 1) s fun t => t.halted = true) ∧
      (h.msg = {} → ∀ k, s.unitKind unit = some k → k ≠ .module →
        (Replies (.telRead h unit 3 1) s h 0x0701 1 .ok (leBytes 8 (nominalKhz unit)) fun u => u.mem = s.mem) ∧
        Replies (.telRead h unit 7 1) s h 0x0701 1 .ok (leBytes 8 (kvGetD (unit * 0x10000 + 7) s.tel 0)) fun u => u.mem = s.mem) ∧
      (Heard h.msg → s.unitKind unit = none → Replies (.telRead h unit 0 1) s h 0x0701 1 .telRange [] fun u => u.mem = s.mem)) ∧
    (∀ (h : PktHead) (ctx first count : Nat) (x : Ctx), Ready s h (ceilDiv (32 + 104 * count) 64) → Heard h.msg → kvGet ctx s.ctxs = some x → 1 ≤ count → count ≤ 4 →
      first + count ≤ x.positions.length → ∃ res, Replies (.lullRead h ctx first count) s h 0x0710 (ceilDiv (32 + 104 * count) 64) .ok res (fun u => u.mem = s.mem) ∧
        res.length = 104 * count ∧ ∀ k q i, k < count → x.positions[first + k]? = some q → i < 12 → field res (104 * k + 8 * i) 8 = nth q.lulls i % 2 ^ 64) ∧
    (s.power.auxOk = true →
      (Completes (.telemetryMirrorRefresh) s fun t => t.mirror.state = s.mirrorState ∧ t.mirror.limit = s.powerLimit ∧ t.mirror.pin = s.power.pin1sMw / 1000 ∧
        t.mirror.vin = s.power.vinMv / 10 ∧ t.power = s.power) ∧
      ∀ offset len, (Completes (.i2cMirrorRead (0x58 + s.power.straps) offset len false) s fun t => t.power.i2cOut = slice s.mirror.bytes offset len ∧
          t.mirror = s.mirror) ∧
        Completes (.i2cMirrorRead (0x58 + s.power.straps) offset len true) s fun t => t = s)

/-! ## Registers and the host link (16_host_attachment, 21_register_reference) -/

/-- A doorbell marks its queue as having work or sets its error (R388); RQ_HEAD moves within the ring (R468); the host window changes before contexts and the
management queue (R386); MQ_ENABLE makes the management queue of 1,024 slots at its window (R386); NT_ENABLE arms every source and NT_ACK re-arms one
(R390).
REGISTER_WRITE and SIDEBAND_ACCESS act on the register that they name, an undecoded place sets UNDECODED or answers an error (R381, R384, R463); a lost
counter clears as it is read (R331); VL_MODULE_ID, VL_ENABLE and VP_RETRAIN set the identifier, start training and retrain (R395, R401, R406).
It concludes that each of these completes: doorbellWrite, rqHeadWrite, hiWinWrite, mqEnableWrite, ntEnableWrite, ntAckWrite, registerWrite,
sidebandAccess, lostCounterRead, vlModuleIdWrite, vlEnableWrite, vpRetrainWrite. -/
def Obligations.RegistersAreReadAndWritten : Prop :=
  (∀ s : State, s.hi.bootStage ≠ 0 →
    (∀ c q, kvGet c s.queues = some q → Completes (.doorbellWrite c) s fun t => kvGet c t.queues = some { q with bell := true } ∧ t.hi = s.hi ∧
      t.mem = s.mem) ∧
    (∀ c, kvGet c s.queues = none → Completes (.doorbellWrite c) s fun t => t.hi.err = s.hi.err ||| 4#6 ∧ t.queues = s.queues) ∧
    (∀ (c : Nat) (q : QueueRec) (v : W64), kvGet c s.queues = some q → v.toNat % 65536 < q.rqSlots →
      (v.toNat % 65536 + q.rqSlots - q.rqHead) % q.rqSlots ≤ (q.idle + q.rqSlots - q.rqHead) % q.rqSlots →
      Completes (.rqHeadWrite c v) s fun t => kvGet c t.queues = some { q with rqHead := v.toNat % 65536 }) ∧
    (∀ v : W64, s.winBusy = false → (v.toNat ≤ 4096 → Completes (.hiWinWrite true v) s fun t => t.hi.winSize = v.toNat ∧ t.hi.winBase = s.hi.winBase) ∧
      Completes (.hiWinWrite false v) s fun t => t.hi.winBase = v.toNat / 4096 % 2 ^ 36 * 4096 ∧ t.hi.winSize = s.hi.winSize) ∧
    (∀ (b : Bool) (v : W64), s.winBusy = true → Completes (.hiWinWrite b v) s fun t => t.hi.err = s.hi.err ||| 1#6 ∧ t.hi.winBase = s.hi.winBase ∧
      t.hi.winSize = s.hi.winSize) ∧
    (∀ v : W64, v.toNat % 2 = 1 → s.hi.mqEnabled = false →
      (s.mqOk = true → Completes (.mqEnableWrite v) s fun t => t.hi.mqEnabled = true ∧ ∃ q, kvGet 0 t.queues = some q ∧
        q.cqBase = cqWindow ∧ q.cqSlots = 1024 ∧ q.cqSeq = 1 ∧ q.cqTail = 0 ∧ q.rqBase = s.hi.mqRqBase ∧ q.rqSlots = s.hi.mqRqSlots ∧ q.idle = 0) ∧
      (s.mqOk = false → Completes (.mqEnableWrite v) s fun t => t.hi.err = s.hi.err ||| 2#6 ∧ t.hi.mqEnabled = false ∧ t.queues = s.queues)) ∧
    (∀ v : W64, v.toNat % 2 = 1 → Completes (.ntEnableWrite v) s fun t => t.hi.ntEnable = true ∧ t.nt.counts = [] ∧ ∀ n, n ≤ 1024 → n ∈ t.nt.armed) ∧
    (∀ c : Nat, c < 1024 → s.hi.ntEnable = true → kvGetD c s.nt.counts 0 = 0 → Completes (.ntAckWrite (BitVec.ofNat 64 c)) s fun t => c ∈ t.nt.armed ∧
      t.hi = s.hi) ∧
    (∀ c n : Nat, c < 1024 → s.hi.ntEnable = true → kvGetD c s.nt.counts 0 = n → n ≠ 0 → s.hi.linkUp = true →
      Completes (.ntAckWrite (BitVec.ofNat 64 c)) s fun t => c ∉ t.nt.armed ∧ t.hi.out = s.hi.out ++ [(HostTx.notify (notifyBytes 0 c (s.lastRetired c) n)).wire])) ∧
  ∀ s : State, s.hi.bootStage ≠ 0 →
    (∀ v : W64, Completes (.registerWrite 0x1_0010 v) s fun t => t.hi = { s.hi with rateMax := v.toNat % 4 } ∧ t.mem = s.mem ∧ t.ports = s.ports) ∧
    (∀ (o : Nat) (v : W64), s.decoded (o / 8 * 8) = false → Completes (.registerWrite o v) s fun t => t = { s with hi := { s.hi with err := s.hi.err ||| 32#6 } }) ∧
    (∀ (o : Nat) (v : W64), s.sbReach o = true → o % 8 = 0 → o < 0x1_1000 → rcReg o = none → Completes (.sidebandAccess false (cfgBase + o) true v) s fun t =>
      t = { s with hi := { s.hi with sbOut := s.hi.sbOut ++ [(true, BitVec.ofNat 64 (s.regPeek o))] } }) ∧
    (∀ (w : Bool) (o : Nat) (v : W64), s.sbReach o = false → o < 2 ^ 32 → Completes (.sidebandAccess w (cfgBase + o) true v) s fun t =>
      t = { s with hi := { s.hi with sbOut := s.hi.sbOut ++ [(false, 0#64)] } }) ∧
    (∀ tag, s.hi.linkUp = true → Completes (.lostCounterRead .eq tag) s fun t => t.evq.lost = 0 ∧ t.evq.entries = s.evq.entries ∧ t.trq = s.trq ∧ t.jrq = s.jrq ∧
      t.hi.out = s.hi.out ++ [(HostTx.completion tag 0 (leBytes 8 s.evq.lost)).wire]) ∧
    (∀ v : W64, (∀ p ∈ s.ports, p.state ≠ 2 ∧ p.state ≠ 3) → Completes (.vlModuleIdWrite v) s fun t =>
      t.vl.moduleId = v.toNat % 65536 ∧ t.vl.valid = bitOf v.toNat 16 ∧ t.ports = s.ports) ∧
    (∀ (v : W64) (p : Nat) (q : Port), s.vl.valid = true → s.ports[p]? = some q → p < 16 → q.state = 0 → s.vl.enable.getLsbD p = false → bitOf v.toNat p = true →
      s.vl.enable &&& ~~~(BitVec.ofNat 16 v.toNat) = 0#16 → Completes (.vlEnableWrite v) s fun t => t.vl.enable = BitVec.ofNat 16 v.toNat ∧
        ∃ q', t.ports[p]? = some q' ∧ q'.state = 2 ∧ q'.started = false ∧ q'.attempt = 0) ∧
    ∀ (v : W64) (p : Nat) (q : Port), v.toNat % 2 = 1 → s.ports[p]? = some q → q.state = 3 → Completes (.vpRetrainWrite p v) s fun t =>
      ∃ q', t.ports[p]? = some q' ∧ q'.state = 2 ∧ q'.retrain = true ∧ q'.replay = q.replay ∧ q'.credits = q.credits

/-- A write transaction of the host to memory that it reaches stores its bytes and no other; a read request is completed with what stands there, and waits where a sector's recovery is in
progress (R413); good data of a read of the module are what the module then sees of host memory, and its reader waits no more (R381 to R383).
It concludes that each of these completes: hostWriteTransaction, hostReadRequest, hostReadCompletion. -/
def Obligations.HostTransactionsReachTheirPlaces : Prop :=
  ∀ s : State, s.hi.linkUp = true → s.Canonical → s.poison = [] →
    (∀ (addr : Nat) (data : List Byte), data.length % 8 = 0 → data.length ≤ 224 → data ≠ [] → addr % 8 = 0 → inCfg addr = false →
      s.reachRange addr data.length = true → Completes (.hostWriteTransaction addr data []) s fun t =>
        (∀ i, (hi : i < data.length) → cellGet t.mem (addr + i) = data[i]) ∧
        (∀ a, (a < addr ∨ addr + data.length ≤ a) → cellGet t.mem a = cellGet s.mem a) ∧ t.hi = s.hi ∧ t.queues = s.queues) ∧
    (∀ addr len tag : Nat, len ≤ 28 → inCfg addr = false →
      (s.reachRange addr (8 * len) = true → s.rebuildDue [(addr, 8 * len)] = false → Completes (.hostReadRequest addr len tag []) s fun t =>
        t = { s with hi := { s.hi with out := s.hi.out ++ [(HostTx.completion tag 0 (s.physRead addr (8 * len))).wire] } }) ∧
      (s.reachRange addr (8 * len) = true → s.rebuildDue [(addr, 8 * len)] = true → Completes (.hostReadRequest addr len tag []) s fun t => t = s) ∧
      (s.reachRange addr (8 * len) = false → Completes (.hostReadRequest addr len tag []) s fun t =>
        t = { s with hi := { s.hi with out := s.hi.out ++ [(HostTx.completion tag 1 (zeros (8 * len))).wire] } })) ∧
    ∀ (tag a n tries : Nat) (data : List Byte), kvGet tag s.hi.reads = some (a, n, tries) → data.length = n → Completes (.hostReadCompletion tag 0 data) s fun t =>
      kvGet tag t.hi.reads = none ∧ (∀ i, i < n → kvGet (a + i) t.hi.view = data[i]?) ∧ (a, n) ∈ t.hi.got ∧ t.hi.want = [] ∧ t.mem = s.mem

/-- UCIe (R379, R380): HI_RETRAIN starts training from HI_RATE_MAX; an attempt that passes brings the link up at its rate, one that fails tries the next
lower rate; a fault takes the link down and trains at the current rate; replayed flits are counted; a start that waited for training ends in
`BOOT_STAGE` 4 (R435).
It concludes that each of these completes: hiRetrainWrite, ucieLinkFault, ucieFlitReplay, ucieTrainAttempt, ucieTrainAttemptEnd. -/
def Obligations.UcieTrainingMovesTheLink : Prop :=
  ∀ s : State, s.hi.bootStage ≠ 0 →
    (∀ v : W64, v.toNat % 2 = 1 → Completes (.hiRetrainWrite v) s fun t => t.hi.linkUp = false ∧ ∃ tr, t.hi.train = some tr ∧ tr.rate = max 1 s.hi.rateMax ∧
      tr.started = false ∧ tr.fault = false) ∧
    (s.hi.linkUp = true →
      (Completes (.ucieLinkFault) s fun t => t.hi.linkUp = false ∧ ∃ tr, t.hi.train = some tr ∧ tr.rate = s.hi.rate ∧ tr.fault = true ∧ tr.attempt = 0) ∧
      ∀ n, s.hi.crcRetry + n < 2 ^ 64 → Completes (.ucieFlitReplay n) s fun t => t.hi.crcRetry = s.hi.crcRetry + n ∧ t.hi.linkUp = true) ∧
    ∀ tr, s.hi.train = some tr →
      (tr.started = false → Completes (.ucieTrainAttempt) s fun t => ∃ r, t.hi.train = some r ∧ r.started = true ∧ r.attempt = tr.attempt + 1 ∧ r.rate = tr.rate) ∧
      (tr.started = true → s.resetDue = false → Completes (.ucieTrainAttemptEnd true) s fun t => t.hi.linkUp = true ∧ t.hi.rate = tr.rate ∧ t.hi.train = none ∧
        (tr.again = true → t.held = []) ∧ (s.hi.bootStage = 3 → t.hi.bootStage = 4) ∧ (s.hi.bootStage ≠ 3 → t.hi.bootStage = s.hi.bootStage)) ∧
      (tr.started = true → tr.fault = false → 1 < tr.rate → Completes (.ucieTrainAttemptEnd false) s fun t => t.hi.linkUp = s.hi.linkUp ∧
        ∃ r, t.hi.train = some r ∧ r.rate = tr.rate - 1 ∧ r.started = false) ∧
      (tr.started = true → tr.fault = true → 3 ≤ tr.attempt → Completes (.ucieTrainAttemptEnd false) s fun t => t.hi.train = none ∧ t.hi.lost = true ∧
        t.hi.err = s.hi.err ||| 8#6)

/-! ## Vauri links (17_vauri_links) -/

/-- Training (R395, R401, R402): an attempt starts and counts; a first training that passes brings the port UP with the peer and its buffers as credits, a
failed attempt leaves two more, the third failure takes the port down; LOCK_LOST and CRC errors of one second above the limit (R410) are marked; credits are reserved for one
context (R351).
It concludes that each of these completes: vauriTrainAttempt, vauriTrainAttemptEnd, vauriLockLost, vauriBerCheck, linkCreditReserve. -/
def Obligations.VauriPortsTrainAndGuard : Prop :=
  ∀ (s : State) (n : Nat) (p : Port), s.ports[n]? = some p →
    (p.state = 2 → p.started = false → Completes (.vauriTrainAttempt n) s fun t => t.ports = s.ports.set n { p with started := true, attempt := p.attempt + 1 }) ∧
    (p.state = 2 → p.started = true →
      (∀ o : TrainOutcome, o.pass = true → p.retrain = false → Completes (.vauriTrainAttemptEnd n o) s fun t => PortShows t n fun q => q.state = 3 ∧
        q.peerId = o.peerId ∧ q.peerPort = o.peerPort ∧ q.peerClass = o.peerClass ∧ q.credits = o.buffers ∧ q.peerBuf = o.buffers ∧ q.txSeq = 0 ∧ q.rxSeq = 0) ∧
      (∀ o : TrainOutcome, o.pass = false → p.attempt < 3 → Completes (.vauriTrainAttemptEnd n o) s fun t => PortShows t n fun q =>
        q.state = 2 ∧ q.started = false ∧ q.attempt = p.attempt ∧ q.failedLanes = o.failedLanes) ∧
      (∀ o : TrainOutcome, o.pass = false → 3 ≤ p.attempt → s.rsOut = [] → s.rsWait = [] → s.eddy = [] → s.trade = [] → s.expx = [] → s.stageQ = [] → p.txq = [] →
        p.replay = [] → Completes (.vauriTrainAttemptEnd n o) s fun t => PortShows t n fun q => q.state = 4 ∧ q.err.getLsbD 0 = true)) ∧
    (∀ lane, p.state = 3 → lane < 16 → Completes (.vauriLockLost n lane) s fun t => PortShows t n fun q => q.state = 2 ∧ q.retrain = true ∧ q.err = p.err ||| 16#5 ∧
      q.replay = p.replay ∧ q.credits = p.credits ∧ q.txSeq = p.txSeq ∧ q.rxSeq = p.rxSeq) ∧
    (p.berLimit ≠ 0 → p.berLimit < (p.crcTimes.filter fun t => decide (s.refCount < t + 1000000000)).length → p.berPosted = none → s.evq.write < 2 ^ 64 - 1 →
      Completes (.vauriBerCheck n) s fun t => t.evq.write = s.evq.write + 1 ∧ PortShows t n fun q => q.berPosted = some s.refCount ∧ q.crcTimes = p.crcTimes) ∧
    ∀ vc u, p.state = 3 → 1 ≤ vc → p.txq = [u] → u.vc = vc → u.sent = 0 → (vc = 1 ∨ s.circRuns u.ctx = true ∨ u.begun = true ∨ u.cont = true) → p.reserved = [] → u.flits ≤ nth p.peerBuf vc →
      u.flits ≤ nth p.credits vc → Completes (.linkCreditReserve n vc) s fun t => t.ports = s.ports.set n { p with reserved := [(u.ctx, vc, u.flits)] }

/-- An UP port (R397 to R404): IDLE carries acknowledgement and NAK, in 256 bytes with the CRC over the rest as the last four; a unit leaves in as
many flits as credit and replay buffer hold; a timeout sends the replay buffer again; a flit, as its bytes say where they are given, of a data unit in
its turn is taken, and its unit is acknowledged once its bytes are visible; one with a bad CRC makes a NAK due and its time is kept (R410); a remote signal is applied
once; an acknowledgement ends what it names.
SO_RSIGNAL on an UP port to its target waits to leave (R322); when every earlier unit of the context to the target has landed, it departs with the next number
and its instruction ends (R404, R405).
It concludes that each of these completes: vauriIdleSend, vauriUnitSend, vauriReplayTimeout, flitDataReceive, flitSignalReceive, flitLandAckReceive,
flitIdleReceive, soRsignal, rsignalDepart. -/
def Obligations.VauriPortsCarryFlitsAndSignals : Prop :=
  (∀ (s : State) (n : Nat) (p : Port), s.ports[n]? = some p → p.state = 3 →
    (Completes (.vauriIdleSend n) s fun t => PortShows t n fun q => q.nakDue = false ∧ q.txSeq = p.txSeq ∧ q.credits = p.credits ∧
      ∃ f l, q.out = p.out ++ [l] ∧ l = flitBytes f ∧ f.kind = 0 ∧ f.ack = (p.rxSeq + 4095) % 4096 ∧ f.nak = p.nakDue ∧
        l.length = 256 ∧ field l 2 2 = f.ack + (if p.nakDue then 4096 else 0) ∧ field l 252 4 = crc32c (l.take 252)) ∧
    (∀ vc u k, s.txNext p vc = some u →
      k = min (u.flits - u.sent) (min (nth p.credits vc - ((p.reserved.filter fun r => r.2.1 == vc && r.1 != u.ctx).map fun r => r.2.2).sum) (1024 - p.replay.length)) →
      k ≠ 0 → p.txSeq < 4096 → Completes (.vauriUnitSend n vc) s fun t => PortShows t n fun q => q.txSeq = (p.txSeq + k) % 4096 ∧
        q.replay.length = p.replay.length + k ∧ q.out.length = p.out.length + k ∧
        ∀ j < k, ∃ l, q.out[p.out.length + j]? = some l ∧ l.length = 256 ∧ field l 0 2 % 4096 = (p.txSeq + j) % 4096 ∧ field l 252 4 = crc32c (l.take 252)) ∧
    (p.replay ≠ [] → (∀ f ∈ p.replay, f.replays < 7) → Completes (.vauriReplayTimeout n) s fun t => PortShows t n fun q => q.state = 3 ∧ q.txSeq = p.txSeq ∧
      q.out.length = p.out.length + p.replay.length ∧ q.replay.map TxFlit.flit = p.replay.map TxFlit.flit) ∧
    (∀ f g : Flit, flitSeen f = g → g.kind = 1 → g.crcOk = false → Completes (.flitDataReceive n f) s fun t => PortShows t n fun q => q.nakDue = true ∧
      q.rxSeq = p.rxSeq ∧ q.txq = p.txq ∧ q.crcTimes.getLast? = some s.refCount) ∧
    (∀ f g : Flit, flitSeen f = g → g.kind = 1 → p.TakesWhole g → 2 ≤ g.vc → Completes (.flitDataReceive n f) s fun t => PortShows t n fun q =>
      q.rxSeq = (p.rxSeq + 1) % 4096 ∧ q.txq = p.txq ∧ q.toAck = p.toAck ++ [(s.bindCtx n, g.vc)]) ∧
    (∀ (g f : Flit) (o : Obj) (so v : Nat), flitSeen g = f → f.kind = 2 → p.TakesWhole f → field f.payload 2 2 = s.vl.moduleId → field f.payload 8 2 = so → field f.payload 10 1 = 0 →
      field f.payload 16 8 = v → s.rsIn = [] → kvGet so s.sos = some o → o.type = 0 → o.remote = true → o.broken = false → o.waits = [] → 1 ≤ v →
      o.value + v ≤ 2 ^ 32 - 1 → Completes (.flitSignalReceive n g) s fun t => kvGet so t.sos = some { o with value := o.value + v } ∧ PortShows t n fun q =>
        q.rxSeq = (p.rxSeq + 1) % 4096 ∧ ∃ u, q.txq = p.txq ++ [u] ∧ u.landed = some (.signal (field f.payload 4 4))) ∧
    (∀ g f : Flit, flitSeen g = f → f.kind = 3 → p.TakesWhole f →
      (∀ c, Completes (.flitLandAckReceive n g (.unit c)) s fun t => PortShows t n fun q => q.unlanded = p.unlanded.erase c ∧ q.rxSeq = (p.rxSeq + 1) % 4096) ∧
      ∀ num e, kvGet p.peerId s.rsOut = some e → Completes (.flitLandAckReceive n g (.signal num)) s fun t =>
        kvGet p.peerId t.rsOut = some (e.1, e.2.filter fun x => x.num != num)) ∧
    (∀ g f : Flit, flitSeen g = f → f.kind = 0 → p.Accepts f → f.crVc < p.credits.length → Completes (.flitIdleReceive n g) s fun t => PortShows t n fun q => q.rxSeq = p.rxSeq ∧
      nth q.credits f.crVc = nth p.credits f.crVc + f.crCount ∧ ∀ x ∈ q.replay, x ∈ p.replay)) ∧
  ∀ (s : State) (c i : Nat),
    (∀ (p : Plan) (r : Run) (f : SyncF) (q : Port), OpDue s c i p r (.sync f) → f.module ≠ 0xFFFF → s.ports[f.port]? = some q →
      (q.state = 3 ∨ q.state = 2 ∧ q.retrain = true) → q.peerValid = true →
      q.peerId = f.module → Completes (.soRsignal c i) s fun t => OpShows t c i (fun o => o.st = .begun) ∧ t.sos = s.sos ∧
        t.rsWait = s.rsWait ++ [{ ctx := c, op := i, target := f.module, num := 0, so := f.so, sop := f.op, n := f.n, port := f.port }]) ∧
    ∀ (x : Ctx) (p : Plan) (r : Run) (o : PlanOp) (q : OpRun) (w : RSignal) (e : Nat × List RSignal), s.opOf c i = some (x, p, r, o, q) → q.st = .begun →
      q.poisoned = false → q.poisonAt = none → q.dup = false → MoreOps r i → RecordOpen s c i r → s.rsWait = [w] → w.ctx = c → w.op = i → w.port ∈ s.portsTo w.target →
      s.allLanded c w.target = true → kvGetD w.target s.rsOut (0, []) = e → e.2.length < 1024 → Completes (.rsignalDepart c i) s fun t => OpEnded t c i .ok ∧
        t.rsWait = [] ∧ kvGet w.target t.rsOut = some ((e.1 + 1) % 2 ^ 32, e.2 ++ [{ w with num := e.1, port := w.port }])

/-! ## Groups, rings and queues between modules: formation (06_eddy_ring, 08, 09_trade_ring, 11) -/

/-- A create whose fields are in range, whose ports are free and UP to the own class, and whose context exists makes the group in formation: its ports are
bound to it and FORM has left on every one (R149 to R151, R225, R232, R287). Of a local stage queue the first end waits for the second, which forms both (R287).
It concludes that each of these completes: eddyGroupCreate, tradeRingCreate, expxGroupCreate, stageQueueCreate. -/
def Obligations.GroupCreatesMakeGroups : Prop :=
  ∀ (s : State) (h : PktHead), Ready s h 1 →
    (∀ f : EddyFields, EddyFields_ok f = true → s.eddyOf f.ctx = none → s.eddy.length < 16 → (∀ n ∈ f.portOut.take f.ports ++ f.portIn.take f.ports, s.portFree n = true) →
      (kvGet f.ctx s.ctxs).isSome = true → s.portsBad ((eddyView f).ins.map Prod.fst ++ (eddyView f).outs) = none → Completes (.eddyGroupCreate h f) s fun t =>
        t.mem = s.mem ∧ PortsForm s t (eddyView f) ((f.portOut.take f.ports ++ f.portIn.take f.ports).map fun n => (n, 1)) ∧
        ∃ g, kvGet (gkey f.ctx f.tag) t.eddy = some g ∧ g.f = f ∧ g.form.state = 0 ∧ g.form.inOk = [] ∧ g.op = none ∧ g.circ = 0) ∧
    (∀ f : TradeFields, TradeFields_ok f = true → s.tradeOf f.ctx = none → s.trade.length < 4 → (∀ n ∈ (tradePortUse f).map Prod.fst, s.portFree n = true) →
      ((tradePortUse f).map Prod.fst).Nodup → (kvGet f.ctx s.ctxs).isSome = true → s.portsBad ((tradeView f).ins.map Prod.fst ++ (tradeView f).outs) = none →
      Completes (.tradeRingCreate h f) s fun t => t.mem = s.mem ∧ PortsForm s t (tradeView f) (tradePortUse f) ∧
        ∃ g, kvGet (gkey f.ctx f.tag) t.trade = some g ∧ g.f = f ∧ g.form.state = 0 ∧ g.form.inOk = [] ∧ g.number = 0 ∧ g.op = none ∧
          g.states = List.replicate 64 GroupState.zero) ∧
    (∀ f : ExpxFields, ExpxFields_ok f = true → kvGet (gkey f.ctx f.tag) s.expx = none →
      (∀ n ∈ f.portOut.take f.ports ++ f.portIn.take f.ports, s.portFree n = true) → (kvGet f.ctx s.ctxs).isSome = true → s.framesFit (4096 * f.size) = true →
      s.portsBad ((expxView f).ins.map Prod.fst ++ (expxView f).outs) = none → Completes (.expxGroupCreate h f) s fun t =>
        t.mem = s.mem ∧ PortsForm s t (expxView f) ((f.portOut.take f.ports ++ f.portIn.take f.ports).map fun n => (n, 5)) ∧
        ∃ g, kvGet (gkey f.ctx f.tag) t.expx = some g ∧ g.f = f ∧ g.form.state = 0 ∧ g.form.inOk = [] ∧ g.op = none) ∧
    ∀ f : StageFields, StageFields_ok f s.vl.moduleId = true → (s.stagePaired f = true ∨ s.stageCount < 256) →
      (s.stageQ.filter fun e => e.1 / 2 ^ 32 == f.ctx).length < 64 → kvGet (gkey f.ctx f.tag) s.stageQ = none → (∀ n ∈ f.port.take f.ports, s.portFree n = true) →
      (kvGet f.ctx s.ctxs).isSome = true →
      (s.stageLocal f = false → s.portsBad ((stageView s.vl.moduleId f).ins.map Prod.fst ++ (stageView s.vl.moduleId f).outs) = none →
        Completes (.stageQueueCreate h f) s fun t => t.mem = s.mem ∧ PortsForm s t (stageView s.vl.moduleId f) ((f.port.take f.ports).map fun n => (n, 6)) ∧
          ∃ g, kvGet (gkey f.ctx f.tag) t.stageQ = some g ∧ g.f = f ∧ g.form.state = 0 ∧ g.putIdx = 0 ∧ g.credit = f.slots) ∧
      (s.stageLocal f = true → kvGet (gkey f.peerCtx f.tag) s.stageQ = none → Completes (.stageQueueCreate h f) s fun t => t.mem = s.mem ∧ t.ports = s.ports ∧
        ∃ g, kvGet (gkey f.ctx f.tag) t.stageQ = some g ∧ g.f = f ∧ g.form.state = 0 ∧ g.putIdx = 0 ∧ g.credit = f.slots) ∧
      ∀ o, s.stageLocal f = true → kvGet (gkey f.peerCtx f.tag) s.stageQ = some o → o.form.state = 0 → s.stageLocal o.f = true → o.f.peerCtx = f.ctx →
        o.f.consumer = !f.consumer → o.f.slots = f.slots → o.f.itemBytes = f.itemBytes → Completes (.stageQueueCreate h f) s fun t => t.ports = s.ports ∧
          (∃ g, kvGet (gkey f.ctx f.tag) t.stageQ = some g ∧ g.f = f ∧ g.form.state = 1 ∧ g.form.pkt = none) ∧
          ∃ g, kvGet (gkey f.peerCtx f.tag) t.stageQ = some g ∧ g.f = o.f ∧ g.form.state = 1 ∧ g.form.pkt = none

/-- The queries answer a group's state and counts; a destroy of a group at rest forgets it and frees its ports; the group state records are read and written
whole (R152, R225, R232, R259, R287; the layout of a query's results is the model's, log 18).
It concludes that each of these completes: eddyGroupQuery, eddyGroupDestroy, tradeRingQuery, tradeRingDestroy, expxGroupQuery, expxGroupDestroy,
stageQueueQuery, stageQueueDestroy, tradeStateRead, tradeStateWrite. -/
def Obligations.GroupsAreAskedReadAndDropped : Prop :=
  ∀ (s : State) (h : PktHead) (tag ctx : Nat),
    (∀ g, Ready s h 1 → kvGet (gkey ctx tag) s.eddy = some g → Replies (.eddyGroupQuery h tag ctx) s h 0x0522 1 .ok
        (leBytes 8 g.form.state ++ leBytes 8 g.circ ++ leBytes 8 (s.curRotation ctx g) ++ leBytes 8 ((g.blocks.map EBlock.rot).dedup).length)
        (fun u => u.eddy = s.eddy ∧ u.mem = s.mem) ∧
      (g.op = none → g.form.pkt = none → Replies (.eddyGroupDestroy h tag ctx) s h 0x0521 1 .ok [] fun u => kvGet (gkey ctx tag) u.eddy = none ∧
        PortsFreed s u (g.f.portOut.take g.f.ports ++ g.f.portIn.take g.f.ports))) ∧
    (∀ g, Ready s h 1 → kvGet (gkey ctx tag) s.trade = some g → Replies (.tradeRingQuery h tag ctx) s h 0x0512 1 .ok
        (leBytes 8 g.form.state ++ leBytes 8 g.trains.length ++ leBytes 8 g.number ++ leBytes 8 (g.buckets.filter fun b => b.verdict.isNone).length)
        (fun u => u.trade = s.trade ∧ u.mem = s.mem) ∧
      (g.op = none → g.form.pkt = none → Replies (.tradeRingDestroy h tag ctx) s h 0x0511 1 .ok [] fun u => kvGet (gkey ctx tag) u.trade = none ∧
        PortsFreed s u ((tradePortUse g.f).map Prod.fst))) ∧
    (∀ g, Ready s h 1 → kvGet (gkey ctx tag) s.expx = some g → Replies (.expxGroupQuery h tag ctx) s h 0x0532 1 .ok
        (leBytes 8 g.form.state ++ leBytes 8 (g.counts.filter fun x => !x.2.isEmpty).length ++ leBytes 8 (g.rows.map fun x => x.2.length).sum ++
          leBytes 8 (g.returned.map fun x => x.2.length).sum) (fun u => u.expx = s.expx ∧ u.mem = s.mem) ∧
      (g.op = none → g.form.pkt = none → Replies (.expxGroupDestroy h tag ctx) s h 0x0531 1 .ok [] fun u => kvGet (gkey ctx tag) u.expx = none ∧
        PortsFreed s u (g.f.portOut.take g.f.ports ++ g.f.portIn.take g.f.ports))) ∧
    (∀ g, Ready s h 1 → kvGet (gkey ctx tag) s.stageQ = some g → Replies (.stageQueueQuery h tag ctx) s h 0x0542 1 .ok
        (leBytes 8 g.form.state ++ leBytes 8 (if g.f.consumer then g.landed.length else g.f.slots - g.credit) ++ leBytes 8 (s.stageNext tag g).1 ++
          leBytes 8 (s.stageNext tag g).2) (fun u => u.stageQ = s.stageQ ∧ u.mem = s.mem) ∧
      (s.stageOp ctx tag = none → g.form.pkt = none → Replies (.stageQueueDestroy h tag ctx) s h 0x0541 1 .ok [] fun u =>
        kvGet (gkey ctx tag) u.stageQ = none ∧ PortsFreed s u (g.f.port.take g.f.ports))) ∧
    (∀ g first count, Ready s h (1 + count) → s.tradeOf ctx = some g → 1 ≤ count → first + count ≤ 64 →
      Replies (.tradeStateRead h ctx first count) s h 0x0513 (1 + count) .ok (((g.2.states.drop first).take count).flatMap GroupState.bytes) fun u => u.trade = s.trade) ∧
    ∀ g first count records, Ready s h 1 → s.tradeOf ctx = some g → 1 ≤ count → first + count ≤ 64 → records.length = 64 * count → (chunks 64 count records).all stateRecordOk = true →
      s.tradeBusy ctx = false →
      Replies (.tradeStateWrite h ctx first count records) s h 0x0514 1 .ok [] fun u => ∃ g', u.tradeOf ctx = some g' ∧ g'.2.number = g.2.number ∧
        g'.2.states = g.2.states.take first ++ (chunks 64 count records).map groupStateOf ++ g.2.states.drop (first + count)

/-- Formation (R150, R151): a FORM that matches marks its port, one with another digest or from another
member fails the group; SEAL arrives and goes on once every in-port has passed;
SEALED forms the group; a timeout fails a group that still forms.
It concludes that each of these completes: formMessage, sealMessage, sealedMessage, formTimeout. -/
def Obligations.FormationRunsToItsEnd : Prop :=
  ∀ (s : State) (p : Proto) (ctx tag : Nat) (v : FormView) (f : Form), s.formGet p ctx tag = some (v, f) → v.ctx = ctx → v.tag = tag → f.state = 0 →
    (∀ (m : FormMsg) (i : Nat × Nat × Nat), m.proto = p → m.ctx = ctx → m.tag = tag → v.ins.find? (fun x => x.1 == m.port) = some i → m.size = v.size →
      (m.digest = v.digest → m.rank = i.2.1 → s.portPeer m.port = some i.2.2 → Completes (.formMessage m) s fun t =>
        ∃ f', t.formGet p ctx tag = some (v, f') ∧ m.port ∈ f'.inOk ∧ f'.state = 0) ∧
      ((m.digest ≠ v.digest ∨ m.rank ≠ i.2.1 ∨ s.portPeer m.port ≠ some i.2.2) → Completes (.formMessage m) s fun t =>
        ∃ f', t.formGet p ctx tag = some (v, f') ∧ f'.state = 2 ∧ f'.pkt = none)) ∧
    (v.rank ≠ 0 → f.sealSent = false → (∀ i ∈ v.ins, i.1 ∈ f.inOk) → Completes (.sealMessage p ctx tag) s fun t =>
      ∃ f', t.formGet p ctx tag = some (v, f') ∧ f'.sealIn = true ∧ f'.sealSent = true ∧ f'.state = 0) ∧
    (f.sealSent = true → (v.rank ≠ 0 ∨ f.sealIn = true) → Completes (.sealedMessage p ctx tag) s fun t =>
      ∃ f', t.formGet p ctx tag = some (v, f') ∧ f'.state = 1 ∧ f'.pkt = none) ∧
    Completes (.formTimeout p ctx tag) s fun t => ∃ f', t.formGet p ctx tag = some (v, f') ∧ f'.state = 2 ∧ f'.pkt = none

/-! ## Matrix engine (03_matrix_engine) -/

/-- MATMUL begins with every claim range at its first index, its output scale fixed where a history gives one (R73, R281); a claim takes the next indices of
its range and the first becomes the position's unit (R73 to R75), or the range is recorded as exhausted, and the last such claim ends the operation; a chunk
load stages the operands and, with the first chunk, the initial entries (R66); a group that passes its check enters every accumulator entry (R46 to R50), one
that fails restarts the attempt, the third failure spoils the unit (R88, R89); a commit writes what the unit's rules say, finds a duplicate whose results are
discarded, or fails the tile on the accumulator's parity (R76, R77, R87). The entries show in the position's partition of the accumulator, each value's word
and flag at its place and no other byte changed (R174; which entry holds which element is the model's choice, log 116).
It concludes that each of these completes: matmul, claimReply, tileChunkLoad, tileGroupComplete, commitReply. -/
def Obligations.MatmulUnitsRunToCommit : Prop :=
  ∀ (s : State) (c pos i : Nat), pos < 1024 →
    (∀ (p : Plan) (r : Run) (f : MatF) (a : State), OpStarts s a c i p r (.matmul f) →
      (p.matHist f = none → Completes (.matmul c i []) s fun t => t.mem = s.mem ∧
        t.tiles = s.tiles ∧ OpShows t c i (fun q => q.st = .begun ∧ q.prog = .mat MatProg.start) ∧
        (f.ranges = 1 → ∀ o, kvGet (nth f.rangeSo 0) a.sos = some o → o.waits = [] → kvGet (nth f.rangeSo 0) t.sos = some { o with value := 0 })) ∧
      ∀ (d : TDesc) (l : List Byte) (b : Option Nat), p.matHist f = some d → a.rdBytes c d.shist 128 = .ok (l, b) →
        (shHistory d.fmt l = none → Completes (.matmul c i []) s fun t => t.mem = s.mem ∧ OpShows t c i fun q => q.st = .begun ∧ q.prog = .mat MatProg.start) ∧
        ∀ (sc : W32) (v : State), shHistory d.fmt l = some sc → a.wrBytes c (d.shist + 68) (leBytes 4 sc.toNat) = .ok v →
          Completes (.matmul c i []) s fun t => t.mem = v.mem ∧ OpShows t c i fun q => q.st = .begun ∧ q.prog = .mat ({ MatProg.start with shScale := some sc } : MatProg)) ∧
    (∀ (x : Ctx) (p : Plan) (r : Run) (f : MatF) (g : MatProg) (core n : Nat) (o : Obj), s.matOp c i = some (x, p, r, f, g) → s.coreOf c pos = some core →
      s.spansWait c (opReads p (.matmul f)) = false →
      kvGet (ckey c pos) s.tiles = none → kvGet (ckey c pos) s.att = none → nextRange (core / 48 % f.ranges) f.ranges pos g.exhausted = some n →
      kvGet (nth f.rangeSo n) s.sos = some o → o.type = 4 → o.broken = false → o.waits = [] → f.width ≤ 65535 → o.value + f.width ≤ 2 ^ 64 - 1 →
      (o.value < nth f.rangeEnd n → f.grpCount = 0 → Completes (.claimReply c pos i) s fun t => t.mem = s.mem ∧
        kvGet (nth f.rangeSo n) t.sos = some { o with value := o.value + f.width } ∧
        ∃ w, kvGet (ckey c pos) t.tiles = some w ∧ w.op = i ∧ w.unit = some o.value ∧ w.attempt = 0 ∧ w.chunk = 0 ∧ w.poisoned = false ∧
          w.claimed = (claimIndices o.value f.width (nth f.rangeEnd n)).tail ∧ w.group = (f.span (o.value % f.splits)).1) ∧
      (∀ (w : TileWork) (v : Nat), o.value < nth f.rangeEnd n → s.nextUnit c p f (TileWork.fresh i) (claimIndices o.value f.width (nth f.rangeEnd n)) = .ok w → w.unit = some v →
        Completes (.claimReply c pos i) s fun t => t.mem = s.mem ∧ t.tiles = kvSet (ckey c pos) w s.tiles) ∧
      (nth f.rangeEnd n ≤ o.value → s.unitsLeft c i = true → Completes (.claimReply c pos i) s fun t => t.mem = s.mem ∧ t.tiles = s.tiles ∧
        kvGet (nth f.rangeSo n) t.sos = some { o with value := o.value + f.width } ∧
        OpShows t c i fun q => ∃ g', q.prog = .mat g' ∧ g'.exhausted = g.exhausted ++ [(pos, n)]) ∧
      ∀ (po : PlanOp) (q : OpRun), s.opOf c i = some (x, p, r, po, q) → q.poisoned = false → q.poisonAt = none → q.dup = false → MoreOps r i → RecordOpen s c i r →
        p.matHist f = none → nth f.rangeEnd n ≤ o.value → s.unitsLeft c i = false →
        ({ g with exhausted := g.exhausted ++ [(pos, n)] } : MatProg).allExhausted x.positions.length f.ranges = true →
        Completes (.claimReply c pos i) s fun t => EndsOver t c i r .ok s) ∧
    (∀ (w : TileWork) (x : Ctx) (p : Plan) (r : Run) (f : MatF) (u core : Nat) (g : Geo) (da db : TDesc), s.workOf c pos = some (w, x, p, r, f, u) →
      s.coreOf c pos = some core → s.tileGeo c p f (u / f.splits) = .ok (some g, none) → p.ten f.aDesc = some da → p.ten f.bDesc = some db →
      (∀ (k0 k1 : Nat) (a b : List (List Nat)) (e : List Entry × NumStat) (z : State), s.mayLoad core = true → s.Takes c (chunkReads p f w u g) z →
        w.poisoned = false → w.staged.length < 2 →
        k0 = 32 * (f.span (u % f.splits)).1 + 256 * w.chunk → k1 = min (k0 + 256) (min f.k (32 * (f.span (u % f.splits)).2)) → k0 < k1 →
        z.rdChunk c da true f g.row0 g.rows f.tm r.pad ((List.range (k1 - k0)).map (· + k0)) = .ok (a, none) →
        z.rdChunk c (db.shift (g.grp * f.grpBBytes)) false f g.col0 g.cols f.tn r.pad ((List.range (k1 - k0)).map (· + k0)) = .ok (b, none) →
        (if w.chunk = 0 then z.loadC c p f g (u % f.splits) else .ok ((w.acc, NumStat.zero), none)) = .ok (e, none) →
        Completes (.tileChunkLoad c pos []) s fun t => t.mem = (s.showEntries c pos 0 e.1).mem ∧ ∃ w', kvGet (ckey c pos) t.tiles = some w' ∧ w'.op = w.op ∧
          w'.unit = some u ∧ w'.chunk = w.chunk + 1 ∧ w'.staged = w.staged ++ [(a, b)] ∧ w'.acc = e.1 ∧ w'.group = w.group ∧ w'.attempt = w.attempt) ∧
      (∀ (a b : List (List Nat)) (more : List (List (List Nat) × List (List Nat))), w.staged = (a, b) :: more →
        (∀ acc, acc = groupStep da.format.ff db.format.ff (modeFlush f.numMode) f.tn (32 * (w.group - (f.span (u % f.splits)).1) % 256)
            (min 32 (f.k - 32 * w.group)) a b w.acc →
          Completes (.tileGroupComplete c pos .pass) s fun t => t.mem = (s.showEntries c pos 0 acc).mem ∧ ∃ w', kvGet (ckey c pos) t.tiles = some w' ∧ w'.op = w.op ∧
            w'.unit = some u ∧ w'.group = w.group + 1 ∧ w'.attempt = w.attempt ∧ w'.acc = acc) ∧
        (w.attempt < 2 → Completes (.tileGroupComplete c pos .fail) s fun t => t.mem = s.mem ∧ ∃ w', kvGet (ckey c pos) t.tiles = some w' ∧
          w'.unit = some u ∧ w'.attempt = w.attempt + 1 ∧ w'.chunk = 0 ∧ w'.staged = [] ∧ w'.acc = [] ∧ w'.group = (f.span (u % f.splits)).1) ∧
        (2 ≤ w.attempt → Completes (.tileGroupComplete c pos .fail) s fun t => t.mem = (s.showEntries c pos 0 w.acc).mem ∧
          ∃ w', kvGet (ckey c pos) t.tiles = some w' ∧ w'.unit = some u ∧ w'.poisoned = true ∧ w'.group = (f.span (u % f.splits)).2)) ∧
      (∀ (y : Ctx) (m : MatProg), s.mayStore core = true → s.rebuildDue (s.physSpans c (s.tileWrites c p f u)) = false → s.matOp c w.op = some (y, p, r, f, m) → (f.span (u % f.splits)).2 ≤ w.group →
        (∀ (s' : State) (w' : TileWork) (v : Nat), m.commit.contains u = false → s.granted c w.op p f g u w = .ok s' →
          s'.nextUnit c p f w w.claimed = .ok w' → w'.unit = some v → Completes (.commitReply c pos { parity := .pass }) s fun t =>
            t.mem = s'.mem ∧ t.ctxs = s'.ctxs ∧ t.sos = s'.sos ∧ t.tiles = kvSet (ckey c pos) w' s'.tiles) ∧
        (∀ (v : Nat) (l : List Nat), m.commit.contains u = true → w.claimed = v :: l → f.grpCount = 0 →
          Completes (.commitReply c pos { parity := .pass }) s fun t => t.mem = s.mem ∧ OpShows t c w.op (fun q => q.st = .begun ∧ q.dup = true) ∧
            ∃ w', kvGet (ckey c pos) t.tiles = some w' ∧ w'.unit = some v ∧ w'.claimed = l ∧ w'.attempt = 0) ∧
        (w.poisoned = false → w.attempt < 2 → Completes (.commitReply c pos { parity := .fail }) s fun t => t.mem = s.mem ∧ t.ctxs = (s.recovered c).ctxs ∧
          ∃ w', kvGet (ckey c pos) t.tiles = some w' ∧ w'.op = w.op ∧ w'.unit = some u ∧ w'.claimed = w.claimed ∧ w'.attempt = w.attempt + 1 ∧ w'.chunk = 0 ∧
            w'.acc = [] ∧ w'.group = (f.span (u % f.splits)).1))) ∧
    ∀ (es : List Entry) (first core idx : Nat) (x : Ctx), s.Canonical → (s.pos? c pos).bind Position.resident? = some (core, idx) → core < 192 → kvGet c s.ctxs = some x →
      es ≠ [] → first % 2 = 0 → first + es.length ≤ partEnt x.part → idx < 2 ^ min x.part 2 →
      (∀ j e, es[j]? = some e →
        (s.showEntries c pos first es).physRead (accAddr core x.part idx + 4 * (first + j)) 4 = leBytes 4 e.v.toNat ∧
        (((s.showEntries c pos first es).byteAt (accFlagAddr core x.part idx + (first + j) / 2)) >>> (4 * ((first + j) % 2))).setWidth 4 = e.fl) ∧
      ∀ a, (a < accAddr core x.part idx + 4 * first ∨ accAddr core x.part idx + 4 * (first + es.length) ≤ a) →
        (a < accFlagAddr core x.part idx + first / 2 ∨ accFlagAddr core x.part idx + (first + es.length + 1) / 2 ≤ a) →
        cellGet (s.showEntries c pos first es).mem a = cellGet s.mem a

/-! ## Vector engine and special functions (04_vector_and_special_functions, 12 R298 to R300) -/

/-- VECTOR begins with every stream at its first word (R95). Each element-wise instruction gives every active lane its result from register D on, leaves
every other register and predicate (R92, R93, R96), and the stream moves to its next word, memory as before.
It concludes that each of these completes: vector, vadd, vsub, vmul, vfma, vmin, vmax, vabs, vneg, vsel, vtwosum, vtwoprod, vcvt, vkcg. -/
def Obligations.VectorLanesCompute : Prop :=
  (∀ (s : State) (c i : Nat) (p : Plan) (r : Run) (f : VecF), OpDue s c i p r (.vector f) → s.vecOp c = none → p.histStores f = [] →
    Completes (.vector c i) s fun t => t.mem = s.mem ∧ t.vec = s.vec ∧ OpShows t c i fun q => q.st = .begun ∧ q.prog = .vec (VecProg.start f.streams (s.vecRegs c))) ∧
  ∀ (s : State) (l : VLoc) (w : VWord) (e : VEnv) (c : Instr) (op : Nat) (g : VEnv → VecRegs → Nat × Nat × Nat → List Entry),
    (c, op, g) ∈ [
      (.vadd l w, 0x01, fun e v x => [eAdd e.flush (v.get w.a x.2.2) (v.get w.b x.2.2)]),
      (.vsub l w, 0x02, fun e v x => [eSub e.flush (v.get w.a x.2.2) (v.get w.b x.2.2)]),
      (.vmul l w, 0x03, fun e v x => [eMul e.flush (v.get w.a x.2.2) (v.get w.b x.2.2)]),
      (.vfma l w, 0x04, fun e v x => [eFma e.flush (v.get w.a x.2.2) (v.get w.b x.2.2) (v.get w.c x.2.2)]),
      (.vmin l w, 0x05, fun e v x => [eMin e.flush (v.get w.a x.2.2) (v.get w.b x.2.2)]),
      (.vmax l w, 0x06, fun e v x => [eMax e.flush (v.get w.a x.2.2) (v.get w.b x.2.2)]),
      (.vabs l w, 0x07, fun e v x => [eAbs e.flush (v.get w.a x.2.2)]),
      (.vneg l w, 0x08, fun e v x => [eNeg e.flush (v.get w.a x.2.2)]),
      (.vsel l w, 0x11, fun _ v x => [if v.pred (w.imm % 8) x.2.2 then v.get w.a x.2.2 else v.get w.b x.2.2]),
      (.vtwosum l w, 0x20, fun _ v x => [(twoSum (v.get w.a x.2.2) (v.get w.b x.2.2)).entHi, (twoSum (v.get w.a x.2.2) (v.get w.b x.2.2)).entLo]),
      (.vtwoprod l w, 0x21, fun _ v x => [(twoProd (v.get w.a x.2.2) (v.get w.b x.2.2)).entHi, (twoProd (v.get w.a x.2.2) (v.get w.b x.2.2)).entLo]),
      (.vcvt l w, 0x18, fun e v x => [cvtEnt w e.flush (v.get w.a x.2.2) (v.get w.c x.2.2)]),
      (.vkcg l w, 0x48, fun e v x => [kcgEnt (w.imm % 4) e.f.dropP32 e.f.dropScale e.flush
        (kcg64 e.r.seed e.r.step (match e.p.tenIdx (w.imm / 4 % 2 ^ 20) with | some d => d.stream | none => 0)
          (s.kcgIndex e.c (e.p.tenIdx (w.imm / 4 % 2 ^ 20)) (e.elem x)) ((v.get w.c x.2.2).v.toNat % 65536)) (v.get w.a x.2.2)])] →
    l.parity = .pass → s.vecEnv l op w = some e → e.Fits s (g e) →
    Completes c s fun t => e.Lanes s t (g e) ∧ ∀ k, nextWord e.f.words e.st (e.wi + 1) = some k → t.mem = s.mem ∧ t.sfu = s.sfu ∧ e.Moves t k

/-- The predicate instructions write predicate D of the active lanes and nothing else of the register file (R93, R96). VLD and VLDA give each active lane
the element that stands in the partition, the accumulator or the tensor, or the padding value beyond the tensor (R79, R96). VST leaves each active lane's
converted element in the partition and no other byte changed, or does what the tensor's store gives (R92). An instruction whose registers fail their
parity check starts the operation again from the registers that it found, its SFU requests withdrawn (R118).
It concludes that each of these completes: vadd, vmin, vcmp, vcvt, vst, vred, vsort, vsfu, vpand, vpor, vld, vlda. -/
def Obligations.VectorPredicatesLoadsAndStores : Prop :=
  (∀ (s : State) (l : VLoc) (w : VWord) (e : VEnv) (c : Instr) (op : Nat),
    (c, op) ∈ [(.vadd l w, 0x01), (.vmin l w, 0x05), (.vcmp l w, 0x10), (.vcvt l w, 0x18), (.vst l w [], 0x29), (.vred l w, 0x30), (.vsort l w, 0x38),
      (.vsfu l w, 0x40)] → l.parity = .fail → (op = 0x29 → w.tensor = true → s.mayStore e.core = true ∧ s.rebuild = [] ∧ s.rowDue = [] ∧ s.hi.want = []) →
    s.vecEnv l op w = some e → e.f.inplace ≠ 1 → e.v.attempt < 2 →
    Completes c s fun t => t.vecRegs e.c = e.v.init ∧ t.mem = s.mem ∧ (∀ x ∈ t.sfu, ∀ q ∈ x.2.reqs, q.ctx = e.c → q.att = true) ∧
      OpShows t e.c e.i fun q => q.st = .begun ∧ q.prog = .vec (VecProg.again e.f.streams e.v)) ∧
  ∀ (s : State) (l : VLoc) (w : VWord) (e : VEnv), l.parity = .pass →
    (∀ (c : Instr) (op : Nat) (g : VEnv → VecRegs → Nat → Bool),
      (c, op, g) ∈ [
        (.vcmp l w, 0x10, fun e v n => eCmp e.flush (w.imm % 8) (v.get w.a n) (v.get w.b n)),
        (.vpand l w, 0x12, fun _ v n => v.pred (w.a % 8) n && (v.pred (w.b % 8) n != bitOf w.imm 0)),
        (.vpor l w, 0x13, fun _ v n => v.pred (w.a % 8) n || (v.pred (w.b % 8) n != bitOf w.imm 0))] →
      s.vecEnv l op w = some e → e.f.streams ∈ [1, 2, 4] → e.st < e.f.streams → w.d < 8 →
      Completes c s fun t => (t.vecRegs e.c).regs = (s.vecRegs e.c).regs ∧
        (∀ x ∈ e.active (s.vecRegs e.c), (t.vecRegs e.c).pred w.d x.2.2 = g e (s.vecRegs e.c) x.2.2) ∧
        ∀ q lane : Nat, q < 8 → lane < 64 → (q = w.d → ∀ x ∈ e.active (s.vecRegs e.c), x.2.2 ≠ lane) →
          (t.vecRegs e.c).pred q lane = (s.vecRegs e.c).pred q lane) ∧
    (∀ g : VecRegs → Nat × Nat × Nat → List Entry, s.vecEnv l 0x28 w = some e → w.tensor = false → e.spFault (e.active (s.vecRegs e.c)) = none →
      (∀ v x, g v x = loadBits (fmtOf w.fmt) e.flush (leNat (s.physRead (spAddr e.core e.part e.idx + e.spOffset x) (fmtOf w.fmt).size)) (.fin false 1 0)) →
      e.Fits s g → Completes (.vld l w []) s fun t => e.Lanes s t g) ∧
    (∀ (z : State) (d : TDesc) (rd : Nat → List Byte) (sc : Nat → FV) (g : VecRegs → Nat × Nat × Nat → List Entry), s.vecEnv l 0x28 w = some e →
      w.tensor = true → e.p.tenIdx (w.imm % 2 ^ 20) = some d → s.mayLoad e.core = true →
      s.Takes e.c (((e.active (s.vecRegs e.c)).filter fun x => decide (e.elem x < d.elems)).map fun x => d.elemRange (e.elem x)) z →
      (∀ x ∈ e.active (s.vecRegs e.c), e.elem x < d.elems → z.rdBytes e.c (d.atFlat (e.elem x)) d.format.size = .ok (rd (e.elem x), none) ∧
        (if d.format.isFp8 then z.rdScale e.c d (e.elem x / d.lastDim) (e.elem x % d.lastDim) else .ok (.fin false 1 0, none))
          = .ok (sc (e.elem x), none)) →
      (∀ v x, g v x = if e.elem x < d.elems then loadBits d.format e.flush (leNat (rd (e.elem x))) (sc (e.elem x))
        else if w.range then [] else loadBits d.format e.flush (padBits d.format e.r.pad) (.fin false 1 0)) →
      e.Fits s g → Completes (.vld l w []) s fun t => e.Lanes s t g) ∧
    (∀ (k : Nat) (ent : Nat × Nat × Nat → Nat) (g : VecRegs → Nat × Nat × Nat → List Entry), s.vecEnv l 0x2A w = some e →
      (∀ x, ent x = bits w.imm 0 16 + 16 * (bits w.imm 16 9 * e.t.iter + x.1) + x.2.1) → (∀ x ∈ e.active (s.vecRegs e.c), ent x < partEnt e.part) →
      (∀ v x, g v x = [⟨BitVec.ofNat 32 (leNat (s.physRead (accAddr e.core e.part e.idx + 4 * ent x) 4)),
        (s.byteAt (accFlagAddr e.core e.part e.idx + ent x / 2) >>> (4 * (ent x % 2))).setWidth 4,
        isNan32 (BitVec.ofNat 32 (leNat (s.physRead (accAddr e.core e.part e.idx + 4 * ent x) 4)))⟩]) →
      e.Fits s g → nextWord e.f.words e.st (e.wi + 1) = some k → Completes (.vlda l w) s fun t => e.Lanes s t g ∧ t.mem = s.mem ∧ e.Moves t k) ∧
    ∀ k : Nat, s.vecEnv l 0x29 w = some e →
      (nextWord e.f.words e.st (e.wi + 1) = some k → w.tensor = false → e.spFault (e.active (s.vecRegs e.c)) = none → s.Canonical → s.poison = [] →
        hostBase + s.hi.winSize * gib ≤ coreBase → Completes (.vst l w []) s fun t => t.vec = s.vec ∧ e.Moves t k ∧
          (∀ x ∈ e.active (s.vecRegs e.c), t.physRead (spAddr e.core e.part e.idx + e.spOffset x) (fmtOf w.fmt).size = leBytes (fmtOf w.fmt).size
            (if (fmtOf w.fmt).isInt then ((s.vecRegs e.c).get w.a x.2.2).v.toNat
             else (storeFv (fmtOf w.fmt) e.f.numMode (.fin false 1 0) ((s.vecRegs e.c).get w.a x.2.2) ((s.vecRegs e.c).get (w.a + 1) x.2.2)).pat)) ∧
          ∀ a : Nat, (∀ x ∈ e.active (s.vecRegs e.c), a < spAddr e.core e.part e.idx + e.spOffset x ∨
            spAddr e.core e.part e.idx + e.spOffset x + (fmtOf w.fmt).size ≤ a) → cellGet t.mem a = cellGet s.mem a) ∧
      ∀ (d : TDesc) (s' : State), nextWord e.f.words e.st (e.wi + 1) = some k → w.tensor = true → s.mayStore e.core = true →
        s.rebuildDue (s.physSpans e.c (((e.active (s.vecRegs e.c)).filter fun x => decide (e.elem x < d.elems)).map fun x => d.elemRange (e.elem x))) = false →
        e.p.tenIdx (w.imm % 2 ^ 20) = some d → s.vstTensor e (w.imm % 2 ^ 20) d = .ok s' →
        Completes (.vst l w []) s fun t => t.vec = s.vec ∧ t.mem = s'.mem ∧ t.poison = s'.poison

/-- VRED, VVAR and VTOPK collect their elements over the iterations, and at the last one write their results into lane 0 of D on, or lanes 0 to k - 1
(R97, R98, R101, R116); VSORT and VMERGE leave the sorted pairs in the active lanes (R101). Which field makes keys integers is the model's choice (log 111).
It concludes that each of these completes: vred, vvar, vtopk, vsort, vmerge. -/
def Obligations.VectorReductionsAndSorts : Prop :=
  ∀ (s : State) (l : VLoc) (w : VWord) (e : VEnv), l.parity = .pass →
    (∀ (c : Instr) (op : Nat) (out : List (Nat × Entry × Entry) → List Entry),
      (c, op, out) ∈ [
        (.vred l w, 0x30, fun all => vredOf (w.imm % 16) e.flush (all.map fun x => (x.1, x.2.1))),
        (.vvar l w, 0x50, fun all => [(varianceOf e.flush e.f.ddof (all.map fun x => (x.1, x.2.1))).1,
          (varianceOf e.flush e.f.ddof (all.map fun x => (x.1, x.2.1))).2.1])] →
      s.vecEnv l op w = some e → e.last = true → w.d + (out (kvGetD e.wi e.v.taken [] ++ e.take (s.vecRegs e.c))).length ≤ 32 →
      Completes c s fun t =>
        (∀ (k : Nat) (h : k < (out (kvGetD e.wi e.v.taken [] ++ e.take (s.vecRegs e.c))).length),
          (t.vecRegs e.c).get (w.d + k) (16 * (e.st * e.f.groups)) = (out (kvGetD e.wi e.v.taken [] ++ e.take (s.vecRegs e.c)))[k]) ∧
        ∀ r lane : Nat, r < 32 → (lane ≠ 16 * (e.st * e.f.groups) ∨ r < w.d ∨
            w.d + (out (kvGetD e.wi e.v.taken [] ++ e.take (s.vecRegs e.c))).length ≤ r) →
          (t.vecRegs e.c).get r lane = (s.vecRegs e.c).get r lane) ∧
    (∀ (c : Instr) (op : Nat), (c, op) ∈ [(.vred l w, 0x30), (.vvar l w, 0x50), (.vtopk l w, 0x3A)] → s.vecEnv l op w = some e → e.last = false →
      Completes c s fun t => t.vec = s.vec ∧ t.mem = s.mem ∧ OpShows t e.c e.i fun q => ∃ v, q.prog = .vec v ∧
        kvGetD e.wi v.taken [] = kvGetD e.wi e.v.taken [] ++ e.take (s.vecRegs e.c)) ∧
    (∀ top : List (Entry × Entry), s.vecEnv l 0x3A w = some e → e.last = true → w.d + 2 ≤ 32 →
      top = (sortPairs (intKeys w) true ((kvGetD e.wi e.v.taken [] ++ e.take (s.vecRegs e.c)).map Prod.snd)).take (w.imm % 64 + 1) →
      Completes (.vtopk l w) s fun t => ∀ k, k < w.imm % 64 + 1 →
        ((t.vecRegs e.c).get w.d (16 * (e.st * e.f.groups) + k), (t.vecRegs e.c).get (w.d + 1) (16 * (e.st * e.f.groups) + k))
          = top.getD k (⟨inf32 true, flINFIN, false⟩, intEnt 0xFFFFFFFF)) ∧
    (s.vecEnv l 0x38 w = some e → w.d + 2 ≤ 32 → Completes (.vsort l w) s fun t =>
      (e.active (s.vecRegs e.c)).map (fun x => ((t.vecRegs e.c).get w.d x.2.2, (t.vecRegs e.c).get (w.d + 1) x.2.2))
        = sortPairs (intKeys w) (w.imm % 2 == 1) ((e.take (s.vecRegs e.c)).map Prod.snd) ∧
      ∀ r lane : Nat, r < w.d → (t.vecRegs e.c).get r lane = (s.vecRegs e.c).get r lane) ∧
    ∀ a b : List (Entry × Entry), s.vecEnv l 0x39 w = some e → w.d + 4 ≤ 32 →
      a = (e.active (s.vecRegs e.c)).map (fun x => ((s.vecRegs e.c).get w.a x.2.2, (s.vecRegs e.c).get (w.a + 1) x.2.2)) →
      b = (e.active (s.vecRegs e.c)).map (fun x => ((s.vecRegs e.c).get w.b x.2.2, (s.vecRegs e.c).get (w.b + 1) x.2.2)) →
      sortedRun (intKeys w) (w.imm % 2 == 1) a = true → sortedRun (intKeys w) (w.imm % 2 == 1) b = true →
      Completes (.vmerge l w) s fun t =>
        (e.active (s.vecRegs e.c)).map (fun x => ((t.vecRegs e.c).get w.d x.2.2, (t.vecRegs e.c).get (w.d + 1) x.2.2)) ++
          (e.active (s.vecRegs e.c)).map (fun x => ((t.vecRegs e.c).get (w.d + 2) x.2.2, (t.vecRegs e.c).get (w.d + 3) x.2.2))
        = sortPairs (intKeys w) (w.imm % 2 == 1) (a ++ b)

/-- VSFU asks the special function unit once for each lane group with active lanes, and its stream waits (R102); the unit grants the first request at or
after its pointer beside those in flight (R102, R103), and a failed check of its store leaves the request pending (R104); the first complete one of them
answers each lane's function value (R105, R108), or an attention unit's exponentials (R124); each of the fifteen basic steps acts on every lane that stands at
it in the first program whose step it is (R111, R113).
It concludes that each of these completes: vsfu, sfuGrant, sfuResult, msSplite, msSpliti, msSeg, msHorner, msFadd, msFmul, msFfma, msScale, msCmp,
msSel, msSkip, msClamp, msSeamclamp, msCall, msOut. -/
def Obligations.SpecialFunctionUnitServes : Prop :=
  (∀ (s : State) (l : VLoc) (w : VWord) (e : VEnv) (gs : List Nat), l.parity = .pass → s.vecEnv l 0x40 w = some e →
    gs = (e.sfuGroups (s.vecRegs e.c)).filter (fun g => !e.t.sfuDone.contains g) → gs ≠ [] → Completes (.vsfu l w) s fun t => t.vec = s.vec ∧ t.mem = s.mem ∧
      (∃ new : List SfuReq, (t.sfuAt e.core).reqs = (s.sfuAt e.core).reqs ++ new ∧ new.map SfuReq.group = gs.map (e.st * e.f.groups + ·) ∧
        ∀ q ∈ new, q.ctx = e.c ∧ q.att = false ∧ q.stream = e.st ∧ q.slot = w.imm % 64 ∧ q.d = w.d ∧
          q.args.map Prod.fst = q.lanes.map ((s.vecRegs e.c).get w.a)) ∧
      OpShows t e.c e.i fun q => ∃ v m, q.prog = .vec v ∧ v.streams[e.st]? = some m ∧ m.waitSfu = true ∧ m.word = e.wi) ∧
  ∀ (s : State) (core : Nat),
    (∀ q : SfuReq, s.running = true → (s.sfuAt core).pick = some q →
      (Completes (.sfuGrant core { storeOk := true }) s fun t => t.vec = s.vec ∧ t.mem = s.mem ∧ t.ctxs = s.ctxs ∧ (t.sfuAt core).ptr = (q.group + 1) % 4 ∧
        (t.sfuAt core).reqs = (s.sfuAt core).reqs.erase q ∧ ∃ g : SfuRun, (t.sfuAt core).granted = (s.sfuAt core).granted ++ [g] ∧ g.req = q ∧
          g.lanes = if (s.mpOf q).isSome then sfuLanes (s.sfuFlush q) q else []) ∧
      Completes (.sfuGrant core { storeOk := false }) s fun t => t.vec = s.vec ∧ t.mem = s.mem ∧ t.sfu = s.sfu) ∧
    (∀ g : SfuRun, s.halted = false → (s.sfuAt core).granted.find? s.sfuRan = some g →
      (g.req.att = false → g.req.slot ≤ 10 → g.req.d < 32 → g.req.lanes.Nodup → g.req.lanes.length = g.req.args.length →
        Completes (.sfuResult core) s fun t => (∀ x ∈ (t.sfuAt core).granted, x ∈ (s.sfuAt core).granted.erase g) ∧
          g.req.lanes.map ((t.vecRegs g.req.ctx).get g.req.d) = g.req.args.map (fun a => sfuFn g.req.slot (s.sfuFlush g.req) a.1) ∧
          ∀ r lane : Nat, r < 32 → (r ≠ g.req.d ∨ lane ∉ g.req.lanes) → (t.vecRegs g.req.ctx).get r lane = (s.vecRegs g.req.ctx).get r lane) ∧
      ∀ w : AttWork, g.req.att = true → kvGet (ckey g.req.ctx g.req.pos) s.att = some w → w.unit = g.req.d → Completes (.sfuResult core) s fun t =>
        t.vec = s.vec ∧ t.mem = s.mem ∧ t.ctxs = s.ctxs ∧ (t.sfuAt core).granted = (s.sfuAt core).granted.erase g ∧
        kvGet (ckey g.req.ctx g.req.pos) t.att = some { w with sfu := w.sfu.map fun l => l.filter fun k => !g.req.lanes.contains k }) ∧
    ∀ (w : StepWord) (c : Instr) (op k : Nat) (g : SfuRun) (pre post : List SfuRun) (p : MicroProg) (x : BitVec 32),
      (c, op) ∈ [(.msSplite core w, 0), (.msSpliti core w, 1), (.msSeg core w, 2), (.msHorner core w, 3), (.msFadd core w, 4), (.msFmul core w, 5),
        (.msFfma core w, 6), (.msScale core w, 7), (.msCmp core w, 8), (.msSel core w, 9), (.msSkip core w, 10), (.msClamp core w, 11),
        (.msSeamclamp core w, 12), (.msCall core w, 13), (.msOut core w, 14)] →
      s.halted = false → (s.sfuAt core).granted = pre ++ g :: post → (∀ y ∈ pre, s.mpDue (swPack w op) y = none) → s.mpOf g.req = some p →
      runPc p.steps.length g.lanes = some k → p.steps[k]? = some x → x.toNat = swPack w op → Completes c s fun t => t.vec = s.vec ∧ t.mem = s.mem ∧
        t.ctxs = s.ctxs ∧ (t.sfuAt core).granted =
          pre ++ { g with lanes := g.lanes.map fun l => if l.pc = k then { mpAct p x l with pc := k + mpAdvance x l } else l } :: post

/-! ## Attention (05_attention_engine) -/

/-- ATTENTION forward and backward begin (R119, R134, R139), over circulated keys on their formed group (R154), without one with ST_EDDY_LINK (R368);
verify checks the tree, stages the nodes, records position and count in the header and begins,
or ends with its status (R144, R145); append stores its tokens, advances the ring and clears the staging (R141, R142); commit moves an accepted path into
the ring, or ends with ST_VERIFY_PATH (R146); only a ring's owner writes it (R142).
It concludes that each of these completes: attentionBackward, attentionForward, attentionAppend, attentionCommit, attentionVerify. -/
def Obligations.AttentionOperationsBegin : Prop :=
  ∀ (s a : State) (c i : Nat) (p : Plan) (r : Run) (f : AttF), OpStarts s a c i p r (.attention f) →
    (f.kvSrc = 1 → ∀ (op : Instr) (k : Nat), (op, k) ∈ [(Instr.attentionForward c i [], 0), (.attentionBackward c i [], 1)] → f.op = k →
      (∀ (m : Nat) (g : Eddy), a.eddyOf c = some (m, g) → g.form.state = 1 → g.op = none → Completes op s fun t => t.mem = s.mem ∧
        OpShows t c i (fun q => q.st = .begun ∧ q.prog = .att (AttProg.start none [])) ∧ EddyShows t c fun g' => g' = { g with op := some i }) ∧
      (a.eddyOf c = none → Completes op s fun t => EndsOver t c i r .eddyLink a)) ∧
    (f.op = 0 → f.kvSrc = 0 → Completes (.attentionForward c i []) s fun t => t.mem = s.mem ∧ t.att = s.att ∧
      OpShows t c i fun q => q.st = .begun ∧ q.prog = .att (AttProg.start none [])) ∧
    (f.op = 1 → f.kvSrc = 0 → Completes (.attentionBackward c i []) s fun t => t.mem = s.mem ∧ t.att = s.att ∧
      OpShows t c i fun q => q.st = .begun ∧ q.prog = .att (AttProg.start none [])) ∧
    ∀ h : RingHdr, a.ringHeader c f.ringDesc = .ok (h, none) →
      (3 ≤ f.op → f.op ≤ 4 → h.owner ≠ c → Completes (if f.op = 3 then .attentionAppend c i [] else .attentionCommit c i []) s fun t =>
        EndsOver t c i r .ringOwner a) ∧
      (h.Fits f c →
        (f.op = 0 → f.kvSrc = 2 → Completes (.attentionForward c i []) s fun t => t.mem = s.mem ∧
          OpShows t c i fun q => q.st = .begun ∧ q.prog = .att (AttProg.start (some h) [])) ∧
        (∀ par : List Nat, f.op = 2 → a.treeParents c p f f.qLen = .ok (par, none) →
          (∀ u v : State, treeFails h par = none →
            (a.opBegin c i .none).ringStores c i p f h true (fun n => (n, h.next + nth (treeDepths par) n - 1)) = .ok u →
            u.ringFields c f.ringDesc [(16, 4, h.next), (12, 1, f.qLen)] = .ok v →
            Completes (.attentionVerify c i []) s fun t => t.mem = v.mem ∧ t.poison = v.poison ∧
              OpShows t c i fun q => q.st = .begun ∧ q.prog = .att (AttProg.start (some h) par)) ∧
          ∀ st : Status, treeFails h par = some st → Completes (.attentionVerify c i []) s fun t => EndsOver t c i r st a) ∧
        (f.op = 3 → 0 < f.qLen → (∀ u v : State, h.next + f.qLen - 1 < noDoc →
            (a.opBegin c i .none).ringStores c i p f h false (fun n => ((h.next + n) % h.w, h.next + n)) = .ok u →
            u.ringFields c f.ringDesc [(8, 4, h.next + f.qLen), (12, 1, 0)] = .ok v → OpShows v c i (fun q => q.poisoned = false ∧ q.poisonAt = none) →
            Completes (.attentionAppend c i []) s fun t => EndsOver t c i r .ok v) ∧
          (noDoc ≤ h.next + f.qLen - 1 → Completes (.attentionAppend c i []) s fun t => EndsOver t c i r .ringPosition a)) ∧
        ∀ (d : TDesc) (l : List Byte) (par : List Nat), f.op = 4 → p.ten f.pathDesc = some d → a.rdBytes c d.addr 32 = .ok (l, none) →
          (if field l 0 1 = 0 then .ok ([], none) else a.treeParents c p f h.staged) = .ok (par, none) →
          (pathOk h l par = false → Completes (.attentionCommit c i []) s fun t => EndsOver t c i r .verifyPath a) ∧
          ∀ u v : State, pathOk h l par = true →
            ((a.opBegin c i .none).recoverRanges c (h.slotRanges true ((List.range (field l 0 1)).map fun t => field l (1 + t) 1)) []).ringMoves c i h l = .ok u →
            u.ringFields c f.ringDesc [(8, 4, h.next + field l 0 1), (12, 1, 0)] = .ok v → OpShows v c i (fun q => q.poisoned = false ∧ q.poisonAt = none) →
            Completes (.attentionCommit c i []) s fun t => EndsOver t c i r .ok v)

/-- A claim gives a free position the next unit in order, a backward one its query-gradient rows at +0 (R125, R134); ATTEND_BLOCK skips a key block by its
bounds (R130), asks the lane groups for its exp2, 16 a request (R102, R124), and with their results applies the block once its check passes, a failed check leaving the rows as
they were (R126, R138); BACKWARD_STEP does one key block against one query block in the same way (R134); a commit writes a finished unit's rows, discards a
duplicate's, or fails on the accumulator's parity (R76, R77, R87); BACKWARD_COMBINE writes the gradients and the operation ends (R135). Memory otherwise changes
only where a unit's entries show in its position's partition (R174; which entry holds which value is the model's choice, log 116).
It concludes that each of these completes: claimReply, attendBlock, backwardStep, commitReply, backwardCombine. -/
def Obligations.AttentionUnitsRun : Prop :=
  ∀ (s : State) (c pos i : Nat),
    (∀ (e : AEnv) (core : Nat) (w : AttWork), s.attOp c i = some e → s.coreOf c pos = some core → kvGet (ckey c pos) s.att = none →
      kvGet (ckey c pos) s.tiles = none → e.g.parked = [] → e.g.next < e.f.units →
      (e.f.back = false → w = AttWork.start i e.g.next (e.f.rowsIn 32 (e.g.next % e.f.bq)).length e.f.headDim →
        Completes (.claimReply c pos i) s fun t => t.mem = (s.attSet c pos w).mem ∧ kvGet (ckey c pos) t.att = some w ∧
          OpShows t c i fun q => ∃ g, q.prog = .att g ∧ g.next = e.g.next + 1 ∧ g.commit = e.g.commit) ∧
      ∀ u : State, e.f.back = true → w = AttWork.start i e.g.next 0 0 →
        wrAll (fun s q => e.wrPartial s (e.g.next / e.f.dqParts) (e.g.next % e.f.dqParts) q (List.replicate e.f.headDim ⟨0, false, false, false, 0⟩)) (s.attSet c pos w)
          (List.range e.f.qLen) = .ok u →
        Completes (.claimReply c pos i) s fun t => t.mem = u.mem ∧ kvGet (ckey c pos) t.att = some w) ∧
    (∀ (z : State) (w w1 : AttWork) (e e2 : AEnv) (core h g : Nat) (rows qd : List Nat) (qs : List (List FV × Nat)) (near refs : List KeyRef)
        (kv : List (List FV × List FV × Nat)), s.attWork c pos = some (w, e, core) → w.fin = false → e.f.back = false →
      h = w.unit / e.f.bq → g = h / e.f.group → rows = e.f.rowsIn 32 (w.unit % e.f.bq) → z = s.attRecover e 64 w.blk g (e.fwdReads h g w.blk rows) [] →
      z.rebuildDue (z.physSpans c (e.fwdReads h g w.blk rows)) = false → z.mayLoad core = true →
      rdAll (fun i => e.row z e.f.qDesc [h, i]) rows = .ok (qs, none) → rdAll (fun i => e.docAt z (e.docIdx i)) rows = .ok (qd, none) →
      e.keyRefs z 64 w.blk g false = .ok (near, none) →
      w1 = (if w.loaded then w else { w with loaded := true, num := w.num.addFlush ((qs.map Prod.snd).sum) }) →
      (e.f.skips false (rows.map e.qPos) [] near = true → ∀ check, Completes (.attendBlock c pos check []) s fun t =>
        t.mem = (z.attSet c pos (e.advance w1)).mem ∧ t.ctxs = z.ctxs ∧ kvGet (ckey c pos) t.att = some (e.advance w1)) ∧
      (e.f.skips false (rows.map e.qPos) [] near = false → z.attOp c w.op = some e2 → e2.present 64 w.blk g = true →
        e.keyRefs z 64 w.blk g true = .ok (refs, none) → e.f.skips true (rows.map e.qPos) qd refs = false →
        rdAll (e.keyRow z 64 w.blk g) refs = .ok (kv, none) → ∀ n, n = e.probs w1 rows qs qd refs kv →
        (∀ check w2, w.sfu = none → n ≠ 0 → w2 = { w1 with sfu := some (List.range (ceilDiv n 16)) } → Completes (.attendBlock c pos check []) s fun t =>
          t.mem = (z.attSet c pos w2).mem ∧ t.ctxs = z.ctxs ∧ kvGet (ckey c pos) t.att = some w2 ∧
          (t.sfuAt core).reqs = (s.sfuAt core).reqs ++ (List.range (ceilDiv n 16)).map fun k =>
            { ctx := c, op := w.op, pos := pos, att := true, stream := 0, group := k % 4, slot := 0, d := w.unit, lanes := [k], args := [] }) ∧
        (w.sfu = some [] ∨ w.sfu = none ∧ n = 0 →
          (∀ w2, w2 = e.advance (e.attended { w1 with sfu := none } rows qs qd refs kv) → Completes (.attendBlock c pos .pass []) s fun t =>
            t.mem = (z.attSet c pos w2).mem ∧ t.ctxs = z.ctxs ∧ kvGet (ckey c pos) t.att = some w2) ∧
          (∀ w2, w.attempt < 2 → w2 = { w1 with attempt := w.attempt + 1, sfu := none } → Completes (.attendBlock c pos .fail []) s fun t =>
            t.mem = (z.attSet c pos w2).mem ∧ kvGet (ckey c pos) t.att = some w2)))) ∧
    (∀ (z : State) (w : AttWork) (e e2 : AEnv) (core b h r g : Nat) (rows qd : List Nat) (near refs : List KeyRef) (rs : List (BRow × Nat))
        (kv : List (List FV × List FV × Nat)) (dqs : List (List Entry)), s.attWork c pos = some (w, e, core) → w.fin = false → e.f.back = true →
      h = w.unit / e.f.dqParts → r = w.unit % e.f.dqParts → g = h / e.f.group → (e.partBlocks r)[w.blk]? = some b →
      rows = e.f.rowsIn 64 w.qb → z = s.attRecover e 32 b g (e.backReads h r g b rows) [] → z.rebuildDue (z.physSpans c (e.backReads h r g b rows)) = false →
      z.mayLoad core = true → z.mayStore core = true →
      rdAll (fun i => e.docAt z (e.docIdx i)) rows = .ok (qd, none) → e.keyRefs z 32 b g false = .ok (near, none) →
      (∀ w2, e.f.skips false (rows.map e.qPos) [] near = true → w.qb + 1 < ceilDiv e.f.qLen 64 → w2 = { w with qb := w.qb + 1, attempt := 0 } → ∀ check,
        Completes (.backwardStep c pos check []) s fun t => t.mem = (z.attSet c pos w2).mem ∧ kvGet (ckey c pos) t.att = some w2) ∧
      (e.f.skips false (rows.map e.qPos) [] near = false → z.attOp c w.op = some e2 →
        e2.present 32 b g = true → e.keyRefs z 32 b g true = .ok (refs, none) →
        e.f.skips true (rows.map e.qPos) qd refs = false → rdAll (e.backRow z h) rows = .ok (rs, none) →
        rdAll (e.keyRow z 32 b g) refs = .ok (kv, none) → rdAll (e.rdPartial z h r) rows = .ok (dqs, none) → ∀ n, n = e.pairs rows qd refs →
        (∀ check w2, w.sfu = none → n ≠ 0 → w2 = { w with sfu := some (List.range (ceilDiv n 16)) } → Completes (.backwardStep c pos check []) s fun t =>
          t.mem = (z.attSet c pos w2).mem ∧ t.ctxs = z.ctxs ∧ kvGet (ckey c pos) t.att = some w2) ∧
        (w.sfu = some [] ∨ w.sfu = none ∧ n = 0 →
          (∀ u : State, e.backApply z pos h r b (decide ((e.partBlocks r).length ≤ w.blk + 1)) { w with sfu := none } rows qd rs refs kv dqs = .ok u →
            Completes (.backwardStep c pos .pass []) s fun t => t.mem = u.mem ∧ t.att = u.att ∧ t.ctxs = u.ctxs) ∧
          (∀ w2, w.attempt < 2 → w2 = { w with attempt := w.attempt + 1, sfu := none } → Completes (.backwardStep c pos .fail []) s fun t =>
            t.mem = (z.attSet c pos w2).mem ∧ kvGet (ckey c pos) t.att = some w2)))) ∧
    (∀ (w : AttWork) (e : AEnv) (core : Nat), s.attWork c pos = some (w, e, core) → s.workOf c pos = none → w.fin = true → e.eg = none →
      s.rebuildDue (s.physSpans c (e.unitWrites w.unit)) = false → s.mayStore core = true →
      (∃ u, u < e.f.units ∧ u ≠ w.unit ∧ e.g.commit.contains u = false) →
      (e.g.commit.contains w.unit = true → Completes (.commitReply c pos { parity := .pass }) s fun t => t.mem = s.mem ∧ kvGet (ckey c pos) t.att = none ∧
        OpShows t c w.op fun q => q.st = .begun ∧ q.dup = true) ∧
      (∀ u : State, e.g.commit.contains w.unit = false → w.poisoned = false → e.f.back = false →
        (((s.attDo c w.op fun g => { g with commit := insNat w.unit g.commit }).opCount c w.op w.num).attWrite e w (w.unit / e.f.bq) (w.unit % e.f.bq)) =
          .ok u → Completes (.commitReply c pos { parity := .pass }) s fun t => t.mem = u.mem ∧ t.poison = u.poison ∧ kvGet (ckey c pos) t.att = none) ∧
      (∀ w2, w.poisoned = false → w.attempt < 2 → w2 = { w with attempt := w.attempt + 1 } → Completes (.commitReply c pos { parity := .fail }) s fun t =>
        t.mem = (s.attSet c pos w2).mem ∧ kvGet (ckey c pos) t.att = some w2)) ∧
    ∀ (z : State) (e : AEnv) (x : Ctx) (p : Plan) (r : Run) (q : OpRun) (u v : State), s.attOp c i = some e → s.opOf c i = some (x, p, r, .attention e.f, q) →
      z = s.recoverRanges c (e.p.rangesOf [e.f.dqpDesc]) [] →
      z.rebuildDue (s.physSpans c (e.p.rangesOf [e.f.dqpDesc]) ++ s.physSpans c (e.p.rangesOf [e.f.dqDesc, e.f.dkDesc, e.f.dvDesc])) = false → MoreOps r i → RecordOpen s c i r → e.f.back = true → e.g.combined = false → e.eg = none →
      (List.range e.f.units).all e.g.commit.contains = true → e.combineQueries z = .ok u → e.combineBlocks u = .ok v →
      OpShows v c i (fun q => q.poisoned = false ∧ q.poisonAt = none ∧ q.dup = false) →
      Completes (.backwardCombine c { op := i }) s fun t => EndsOver t c i r .ok v

/-! ## Eddy ring (06_eddy_ring) -/

/-- A block that arrives in its circulation, step, size and place lands in its slot (R156 to R159), one that does not fails the group and its operation with
ST_EDDY_SKEW (R158); the own slice and landed blocks leave on their port, each for one credit (R160, R161); a free slot grants one credit and a received
one is held (R159); an owner sends a block again as kind 3, another member passes the request on (R166); a stall posts its event (R165).
It concludes that each of these completes: eddyBlockLand, eddyBlockForward, eddyCreditGrant, eddyCreditReceive, eddyResendRequest, eddyStallTimeout. -/
def Obligations.EddyRingCirculates : Prop :=
  ∀ (s : State) (c : Nat) (g : Eddy) (e : AEnv) (r : Run), s.circOf c = some (g, e, r) →
    (∀ (port own u h kind t : Nat) (b : List Byte), own = field b 12 2 → u = field b 16 4 → h = field b 14 2 → kind = field b 36 1 →
      t = (if own = g.f.rank then g.f.size else (g.f.rank + g.f.size - own) % g.f.size) →
      (∀ v : State, field b 0 4 = g.circ → field b 4 8 = r.step → b.length = eddyBytes kind e.f.headDim e.f.docs → kind < 3 → own < g.f.size → u < g.per →
        h < e.f.kvHeads → own ≠ g.f.rank → g.find t u h = none → g.freed < t → s.wrBytes c (g.blockAddr e.f t u h) b = .ok v →
        Completes (.eddyBlockLand c port b ⟨false, []⟩) s fun s' => s'.mem = v.mem ∧ s'.ports = (s.landed c 2).ports ∧ EddyShows s' c fun g' => g' = { g with
          blocks := g.blocks ++ [{ rot := t, loc := u, head := h, kind := kind, hdr := b.take 64, sent := false, asked := false, poisoned := false }] }) ∧
      (field b 0 4 ≠ g.circ → (kind ≠ 3 ∨ field b 38 2 = g.f.rank) → EarlierOp r e.i → RecordOpen s c e.i r → Completes (.eddyBlockLand c port b ⟨false, []⟩) s fun s' => OpEnded s' c e.i .eddySkew ∧
        EddyShows s' c fun g' => g'.form.state = 2)) ∧
    (∀ (z : State) (u h n p : Nat) (b : List Byte), s.circRuns c = true → s.Takes c (opReads e.p (.attention e.f)) z → g.ownSent < g.per * e.f.kvHeads → u = g.ownSent / e.f.kvHeads → h = g.ownSent % e.f.kvHeads →
      n = g.reach e.f g.f.rank u → 0 < n → 0 < g.credit → e.f.back = false → e.ownBlock z g r.step u h 0 (n == 1) 0xFFFF = .ok (b, none) →
      s.sharePort (g.f.portOut.take g.f.ports) u = some p → Completes (.eddyBlockForward c []) s fun s' =>
        Sends s s' p (plainUnit 2 c g.f.tag b false) ∧ EddyShows s' c fun g' => g'.credit = g.credit - 1) ∧
    (∀ (z : State) (t u h p : Nat) (x : EBlock) (l : List Byte), s.circRuns c = true → g.per * e.f.kvHeads ≤ g.ownSent → g.nextOut e.f = some (t, u, h) →
      g.find t u h = some x → e.f.back = false → t < g.reach e.f (g.owner t) u → bitOf (field x.hdr 37 1) 1 = false → 0 < g.credit → x.asked = false →
      x.poisoned = false → x.kind ≠ 2 → z = s.recoverRanges c [(g.blockAddr e.f t u h, eddyBytes x.kind e.f.headDim e.f.docs)] [] →
      z.rdBytes c (g.blockAddr e.f t u h + 64) (eddyBytes 0 e.f.headDim e.f.docs - 64) = .ok (l, none) →
      s.sharePort (g.f.portOut.take g.f.ports) u = some p → Completes (.eddyBlockForward c []) s fun s' =>
        Sends s s' p (plainUnit 2 c g.f.tag (x.hdr.take 37 ++ leBytes 1 (field x.hdr 37 1 % 2 + (if g.reach e.f (g.owner t) u = t + 1 then 2 else 0)) ++
          x.hdr.drop 38 ++ l) false) ∧ EddyShows s' c fun g' => g'.credit = g.credit - 1) ∧
    (∀ (g2 : Eddy) (e2 : AEnv) (r2 : Run) (p : Nat), (s.attEnd c e.i).circOf c = some (g2, e2, r2) → (s.attEnd c e.i).circRuns c = true →
      g2.granted < ((List.range (min (g2.lastRot e.f) (g2.freed + g2.f.slots))).map fun t => (g2.places e.f (t + 1)).length).sum →
      (s.attEnd c e.i).sharePort (g2.f.portIn.take g2.f.ports) g2.granted = some p → Completes (.eddyCreditGrant c) s fun s' =>
        Sends s s' p (plainUnit 0 c g.f.tag (ctlMsg msgCredit (leBytes 4 g.f.tag ++ leBytes 4 1)) false) ∧
        EddyShows s' c fun g' => g' = { g2 with granted := g2.granted + 1 }) ∧
    (∀ tag : Nat, tag < 2 ^ 32 → kvGet (gkey c tag) s.eddy = some g → Completes (.eddyCreditReceive c tag) s fun s' => s'.mem = s.mem ∧
      s'.ports = s.ports ∧ EddyShows s' c fun g' => g' = { g with credit := g.credit + 1 }) ∧
    (∀ (own h u p : Nat) (dest : ResendTo) (b : List Byte) (pa : Option Nat), dest.errs = [] →
      (∀ (g2 : Eddy) (e2 : AEnv) (step : Nat) (z : State), s.askedCirc c dest.circ = some (g2, e2, step) → own = g2.f.rank → u < g2.per → h < e2.f.kvHeads →
        z = s.recoverRanges c (opReads e2.p (.attention e2.f)) [] → e2.ownBlock z g2 step u h 3 false dest.dest = .ok (b, pa) →
        s.sharePort (g2.f.portOut.take g2.f.ports) u = some p → Completes (.eddyResendRequest c own h u dest) s fun s' =>
          s'.mem = s.mem ∧ s'.eddy = s.eddy ∧ Sends s s' p (plainUnit 2 c g2.f.tag b pa.isSome)) ∧
      (own ≠ g.f.rank → s.sharePort (g.f.portIn.take g.f.ports) u = some p → Completes (.eddyResendRequest c own h u dest) s fun s' =>
        s'.mem = s.mem ∧ s'.eddy = s.eddy ∧ Sends s s' p (plainUnit 0 c g.f.tag
          (ctlMsg msgResend (leBytes 2 own ++ leBytes 2 h ++ leBytes 4 u ++ leBytes 2 dest.dest ++ leBytes 4 dest.circ)) false))) ∧
    ∀ since n : Nat, g.f.stallLimit ≠ 0 → kvGetD (stallKey 2 c 0) s.stalls (0, 0) = (since, n) → ((r.ops[e.i]?.map OpRun.began).getD 0) ≤ since →
      since + (n + 1) * g.f.stallLimit * 1000000 ≤ s.refCount → Completes (.eddyStallTimeout c) s fun s' => s'.mem = s.mem ∧ s'.eddy = s.eddy ∧ s'.ports = s.ports ∧
        s'.evq = s.evq.push s.refCount 0x0513 c (groupData g.f.tag 2 0xFF ((s.refCount - since) / 1000000))

/-! ## Trade ring (09_trade_ring) -/

/-- A reduction or gather begins with its table's buckets, the scale exponents of their records, and an OPEN on every out-port (R234, R243); a first hop
quantises the member's gradients and leaves as a train for one landing credit (R236 to R241); the final record completes the reduction with the status of
its flags (R250, R251); credit is held (R241), a train asked for goes out again with its poison and a stall of the limit
posts its event with the milliseconds without progress (R256; log 127). Without a ring the operation ends with ST_TRADE_LINK (R368).
It concludes that each of these completes: tradeGather, tradeReduce, tradeLandingCredit, trainSend, finalVerdictRecord, trainRerequest,
tradeStallTimeout. -/
def Obligations.TradeOperationsRun : Prop :=
  (∀ (s a : State) (c i n table m : Nat) (p : Plan) (r : Run) (gather : Bool), OpStarts s a c i p r (if gather then .tradeGather table n m else .tradeReduce table n m) →
    s.tradeOf c = none → Completes (if gather then .tradeGather c i [] else .tradeReduce c i []) s fun t => EndsOver t c i r .tradeLink a) ∧
  (∀ (s a : State) (c i n table m k : Nat) (p : Plan) (r : Run) (gather : Bool) (g : Trade) (l : List Byte) (bs : List Bucket),
    OpStarts s a c i p r (if gather then .tradeGather table n m else .tradeReduce table n m) → s.tradeOf c = some (k, g) → g.form.state = 1 → g.early = [] →
    (∃ y ∈ (tradeView g.f).ins, s.portAlive y.1 = true) → a.rdBytes c table (64 * n) = .ok (l, none) →
    a.openBuckets c gather ((List.range n).map (bucketAt l)) = .ok (bs, none) →
    Completes (if gather then .tradeGather c i [] else .tradeReduce c i []) s fun t => t.mem = s.mem ∧ OpShows t c i (fun q => q.st = .begun) ∧
      TradeShows t c (fun g' => g'.op = some i ∧ g'.gather = gather ∧ g'.buckets = bs ∧ g'.opened = [] ∧ g'.started = false ∧ g'.number = g.number ∧
        g'.digest = (Config.shake256 l).setWidth 128) ∧
      ∀ o ∈ (tradeView g.f).outs, s.ports[o]? ≠ none → PortShows t o fun q => plainUnit 0 c g.f.tag (ctlMsg msgOpen (leBytes 4 g.f.tag ++
        leBytes 8 g.number ++ leBytes 8 r.step ++ leBytes 16 ((Config.shake256 l).setWidth 128 : BitVec 128).toNat)) false ∈ q.txq) ∧
  (∀ (s : State) (c n k : Nat) (g : Trade), s.tradeOf c = some (k, g) → g.form.state = 1 → Completes (.tradeLandingCredit c n) s fun t =>
    t.mem = s.mem ∧ t.ports = s.ports ∧ TradeShows t c fun g' => g' = { g with credit := g.credit + n }) ∧
  ∀ (s : State) (c : Nat) (e : TEnv), s.tradeEnv c = some e →
    (∀ (z : State) (k p : Nat) (b : Bucket) (l : List Byte) (gs : List Entry) (out : List (Option Int)) (h : TrainBits), e.Quiet → e.t.started = true →
      e.t.amaxDone = true → e.t.gather = false → s.circRuns c = true → e.t.f.landTrains ≤ e.t.granted → e.t.nextTrain = some (k, b, none) → b.resid = 0 →
      0 < e.t.credit → s.sharePort e.t.outs b.done = some p → z = s.recoverRanges c [(b.grad, 4 * b.elems), (b.resid, 8 * b.elems)] [] →
      z.rdBytes c (b.grad + 16384 * b.done) (4 * b.span b.done) = .ok (l, none) →
      gs = (wordsOf l).map loadEnt → out = gs.map (fun g => (hopElem (modeFlush e.mode) (b.e.getD 0) none g).1) →
      h = { ovf := out.any (·.isNone), nf := gs.any Entry.special, last := b.done + 1 == b.count, gather := false, peak := peakOf out, hop := 1 } →
      Completes (.trainSend c []) s fun t => t.mem = s.mem ∧
        Sends s t p (plainUnit 3 c e.t.f.tag (trainHeader (e.t.stepOf b.group) k b.group b.attempt (b.e.getD 0 + 149).toNat h b.done ++ trainBody out)
          false) ∧
        TradeShows t c fun g => g.credit = e.t.credit - 1 ∧ ∃ b', g.buckets[k]? = some b' ∧ b'.done = b.done + 1 ∧ b'.verdict = none) ∧
    (∀ l : List Byte, e.t.early = [] → e.t.started = true → e.t.gather = false → s.circRuns c = true → e.t.f.rank + 1 ≠ e.t.f.size → MoreOps e.r e.i → RecordOpen s c e.i e.r →
      OpShows s c e.i (fun q => q.poisoned = false ∧ q.dup = false) → Completes (.finalVerdictRecord c l) s fun t =>
        OpEnded t c e.i (tradeStatus (field l 16 2)) ∧
        TradeShows t c fun g => g.op = none ∧ g.number = e.t.number + 1 ∧ kvGet e.i g.finals = some l ∧ g.states = e.t.states) ∧
    (∀ (port k idx : Nat) (y : SentTrain), s.ports[port]? ≠ none →
      e.t.sent.reverse.find? (fun y => y.bucket == k && y.idx == idx && (y.port == port || !e.t.gather)) = some y →
      Completes (.trainRerequest c port k idx) s fun t => t.mem = s.mem ∧ t.trade = s.trade ∧ Sends s t port (plainUnit 3 c e.t.f.tag y.bytes y.poison)) ∧
    ∀ since n : Nat, e.t.f.stallLimit ≠ 0 → kvGetD (stallKey 3 c 0) s.stalls (0, 0) = (since, n) → ((e.r.ops[e.i]?.map OpRun.began).getD 0) ≤ since →
      since + (n + 1) * e.t.f.stallLimit * 1000000 ≤ s.refCount → Completes (.tradeStallTimeout c) s fun t => t.mem = s.mem ∧ t.trade = s.trade ∧
        t.ports = s.ports ∧ t.evq = s.evq.push s.refCount 0x0503 c (groupData e.t.f.tag 2 0xFF ((s.refCount - since) / 1000000))

/-- An OPEN that matches is recorded, one that does not fails the ring with ST_TRADE_SKEW (R234); an amax message goes on with the member's maximum, or sets
every exponent (R244); a reduce train lands in a free slot (R239, R241); a bucket verdict restarts the bucket, commits its scale record or ends it, and
goes on (R246); the verdict record waits for the member's last bucket and goes on with its contribution (R249, R250); a gather train lands in
`BK_PARAM` (R255).
It concludes that each of these completes: openMessage, amaxExchangeMessage, trainLand, bucketVerdictMessage, verdictRecordMessage, gatherTrainLand. -/
def Obligations.TradeMessagesAct : Prop :=
  ∀ (s : State) (c : Nat) (e : TEnv), s.tradeEnv c = some e → e.Quiet →
    (∀ m : OpenMsg, m.ctx = c → e.t.opened.contains m.port = false → e.t.started = false → e.t.amaxDone = false →
      (∃ p ∈ e.t.allIns, p ≠ m.port ∧ s.portAlive p = true ∧ e.t.opened.contains p = false) →
      (m.tag = e.t.f.tag → m.number = e.t.number → m.step = e.r.step → m.digest = e.t.digest → Completes (.openMessage m) s fun t => t.mem = s.mem ∧
        t.ports = s.ports ∧ TradeShows t c fun g => g = { e.t with opened := insNat m.port e.t.opened }) ∧
      (m.step ≠ e.r.step → MoreOps e.r e.i → RecordOpen s c e.i e.r → Completes (.openMessage m) s fun t => OpEnded t c e.i .tradeSkew ∧
        TradeShows t c fun g => g.form.state = 2 ∧ g.op = none)) ∧
    (e.t.started = true → e.t.gather = false → s.circRuns c = true →
      (∀ l : List (Nat × W32), e.t.amaxDone = false →
        (e.t.f.rank + 1 < e.t.f.size → Completes (.amaxExchangeMessage c false l) s fun t => t.mem = s.mem ∧ TradeShows t c (fun g => g = e.t) ∧
          e.Tells s t msgAmax (amaxBytes false (l.map fun x => (x.1, max32 x.2 (((e.t.buckets[x.1]?).map Bucket.amax).getD 0#32))))) ∧
        (e.t.f.rank + 2 < e.t.f.size → (e.t.amaxTake l).buckets.any (fun b => b.verdict.isNone) = true →
          Completes (.amaxExchangeMessage c true l) s fun t => t.mem = s.mem ∧ TradeShows t c (fun g => g = e.t.amaxTake l) ∧
            e.Tells s t msgAmax (amaxBytes true l))) ∧
      (∀ (port : Nat) (l : List Byte) (b : Bucket) (v : State), e.t.buckets[field l 8 3]? = some b → e.t.headOk false l = true →
        (parseBody (b.span (field l 16 2) + 1) (b.span (field l 16 2)) (l.drop 20)).isSome = true →
        b.landed.contains (field l 11 1 / 64, field l 16 2) = false → b.attempt ≤ field l 11 1 / 64 → b.verdict = none → b.owner ≠ e.t.f.rank →
        0 < e.t.f.landTrains → s.wrBytes c (e.t.slotAddr 0) l = .ok v → Completes (.trainLand c port l []) s fun t => t.mem = v.mem ∧ t.ports = (s.landed c 3).ports ∧
          TradeShows t c fun g => g.granted = e.t.granted - 1 ∧ g.trains = [Train.mk 0 (field l 8 3) (field l 11 1 / 64) (field l 16 2) (l.take 20)
              (l.length - 20)] ∧ g.skew = (e.t.skew || decide (field l 0 8 ≠ e.t.stepOf b.group))) ∧
      (∀ (k peak : Nat) (x : Int) (b : Bucket), e.t.buckets[k]? = some b → b.owner ≠ e.t.f.rank → b.verdict = none →
        (Completes (.bucketVerdictMessage c k .restart x peak) s fun t => t.mem = s.mem ∧ TradeShows t c (fun g => g = e.t.setBucket k (Bucket.again · x)) ∧
          e.Tells s t msgVerdict (leBytes 4 k ++ leBytes 4 1 ++ leBytes 4 (uInt 32 x) ++ leBytes 4 peak)) ∧
        (∀ v : Verdict, v = .nonfinite ∨ v = .exhausted → e.Pends (some k) → Completes (.bucketVerdictMessage c k v x peak) s fun t => t.mem = s.mem ∧
          TradeShows t c (fun g => g = e.t.setBucket k fun b => { b with verdict := some v }) ∧
          e.Tells s t msgVerdict (leBytes 4 k ++ leBytes 4 (verdictCode v) ++ leBytes 4 (uInt 32 x) ++ leBytes 4 peak)) ∧
        ∀ (l : List Byte) (u : State), s.rdBytes c b.scale 64 = .ok (l, none) → s.wrBytes c b.scale ((srCommit l x peak b.attempt).take 53) = .ok u →
          e.Pends (some k) → Completes (.bucketVerdictMessage c k .commit x peak) s fun t => t.mem = u.mem ∧
            TradeShows t c (fun g => g = e.t.setBucket k fun b => { b with verdict := some .commit }) ∧
            e.Tells s t msgVerdict (leBytes 4 k ++ leBytes 4 0 ++ leBytes 4 (uInt 32 x) ++ leBytes 4 peak)) ∧
      ∀ l : List Byte, e.t.held = none →
        (e.Pends none → Completes (.verdictRecordMessage c l) s fun t => t.mem = s.mem ∧ t.ports = s.ports ∧
          TradeShows t c fun g => g = { e.t with held := some l }) ∧
        ∀ (rd : Bucket → List Byte) (own : PF), e.t.amaxDone = true → e.t.contributed = false → e.t.buckets.all (fun b => b.verdict.isSome) = true →
          e.t.f.rank ≠ 0 → e.t.f.rank + 1 < e.t.f.size →
          (∀ b ∈ e.t.buckets, b.owner = e.t.f.rank → b.verdict = some .commit → s.rdBytes c b.out (4 * b.elems) = .ok (rd b, none)) →
          own = (e.t.buckets.filter fun b => b.owner == e.t.f.rank && b.verdict == some .commit).foldl (fun a b =>
            pfAdd a (treeReduce pfAdd pfZero ((enumFrom 0 ((wordsOf (rd b)).map loadEnt)).map fun x => (x.1, twoProd x.2 x.2)))) pfZero →
          Completes (.verdictRecordMessage c l) s fun t => t.mem = s.mem ∧ TradeShows t c (fun g => g = { e.t with contributed := true }) ∧
            e.Tells s t msgRecord (s.combineRecord e own (some l))) ∧
    ∀ (port : Nat) (l : List Byte) (b : Bucket) (v : State) (x : GTrain), e.t.started = true → e.t.gather = true → e.t.buckets[field l 8 3]? = some b →
      e.t.headOk true l = true → b.param ≠ 0 → l.length - 20 = (b.prange (field l 16 2)).2 → e.t.holds (field l 8 3) (field l 16 2) = false →
      field l 0 8 = e.t.stepOf b.group → x = { bucket := field l 8 3, idx := field l 16 2, step := field l 0 8, body := none, poisoned := [] } →
      ({ e.t with gheld := e.t.gheld ++ [x] } : Trade).gatherDone = false → s.wrBytes c (b.prange (field l 16 2)).1 (l.drop 20) = .ok v →
      Completes (.gatherTrainLand c port l []) s fun t => t.mem = v.mem ∧ t.ports = (s.landed c 3).ports ∧
        TradeShows t c fun g => g = { e.t with gheld := e.t.gheld ++ [x] }

/-! ## Parameter update (10_parameter_update) -/

/-- OPT_UPDATE begins behind a reduction that ended ST_OK, with its group table, its buckets, the scales that histories give and its claims at 0, or ends with
ST_STEP_LIMIT or ST_UPDATE_PARAM (R73, R248, R262, R263, R280); behind an overflow it halves the loss scale, behind another status it changes nothing, and ends
with that status (R262, R272). UPDATE_UNIT claims the next unit and runs it, runs it again after a failed check, or records the position as exhausted; behind
the last unit the refresh phase claims its sides from 0, or the update commits every named group's step (R266 to R270); REFRESH_UNIT runs the next due side,
behind the last of which the update commits (R268, R275, R276).
It concludes that each of these completes: optUpdate, updateUnit, refreshUnit. -/
def Obligations.ParameterUpdateRuns : Prop :=
  ∀ (s : State) (c i : Nat),
    (∀ (a : State) (p : Plan) (r : Run) (f : UpdF), OpStarts s a c i p r (.optUpdate f) → a.tradeOf c = none →
      Completes (.optUpdate c i []) s fun t => EndsOver t c i r .tradeLink a) ∧
    (∀ (a : State) (p : Plan) (r : Run) (f : UpdF) (k : Nat) (g : Trade), OpStarts s a c i p r (.optUpdate f) → a.tradeOf c = some (k, g) →
      (∀ (l : List Byte) (bks : List (List Nat)) (e : UEnv) (own : List (Nat × List Nat × List Byte)), (r.ops[f.reduce]?).map OpRun.status = some .ok →
        a.rdBytes c f.groups 4096 = .ok (l, none) → a.updTable c p f = .ok (bks, none) → e.c = c → e.i = i → e.f = f → e.t = g → e.u.groups = chunks 64 64 l →
        e.u.bks = bks → a.ownedBuckets e = .ok (own, none) →
        (∀ (ls : List Byte) (pa : Option Nat), (∃ b ∈ bks, 2 ^ 64 - 1 ≤ g.stepOf (nth b 0)) → a.rdBytes c f.lscale 64 = .ok (ls, pa) →
          Completes (.optUpdate c i []) s fun t => EndsOver t c i r .stepLimit a) ∧
        ((∀ b ∈ bks, g.stepOf (nth b 0) < 2 ^ 64 - 1) →
          (e.paramsOk own = false → Completes (.optUpdate c i []) s fun t => EndsOver t c i r .updateParam a) ∧
          ∀ (v : State) (own2 : List (Nat × List Nat × List Byte)) (qa : Option Nat), e.paramsOk own = true → a.updScales e own = .ok v →
            v.ownedBuckets e = .ok (own2, qa) → 0 < (e.units own2).length →
            Completes (.optUpdate c i []) s fun t => t.mem = v.mem ∧
              OpShows t c i (fun q => q.st = .begun ∧ ∃ u, q.prog = .upd u ∧ u.groups = chunks 64 64 l ∧ u.bks = bks ∧ u.done = [] ∧ u.refreshing = false) ∧
              ∀ o, kvGet f.claimSo a.sos = some o → o.waits = [] → kvGet f.claimSo t.sos = some { o with value := 0 })) ∧
      ∀ (st : Status) (l : List Byte) (pa : Option Nat), (r.ops[f.reduce]?).map OpRun.status = some st → st ≠ .ok → st.continues = true →
        a.rdBytes c f.lscale 64 = .ok (l, pa) →
        (st ≠ .gradOverflow → Completes (.optUpdate c i []) s fun t => EndsOver t c i r st a) ∧
        ∀ v : State, st = .gradOverflow → a.wrBytes c f.lscale ((lossScale l false).1.take 20) = .ok v →
          Completes (.optUpdate c i []) s fun t => EndsOver t c i r st v) ∧
    ∀ (pos core : Nat) (e : UEnv), s.updEnv c i = some e → s.coreOf c pos = some core → e.u.exhausted.contains pos = false →
      s.unitReady c i core = true →
      (∀ (own : List (Nat × List Nat × List Byte)) (qa : Option Nat) (o : Obj), e.u.refreshing = false →
        s.ownedBuckets e = .ok (own, qa) → kvGet pos e.u.held = none → kvGet e.f.claimSo s.sos = some o → o.type = 4 → o.broken = false → o.waits = [] →
        o.value + 1 ≤ 2 ^ 64 - 1 →
        (∀ x : Nat × List Nat × List Byte × Nat, (e.units own)[o.value]? = some x →
          (∀ (z v : State) (ls : List Byte) (pa qb : Option Nat) (own2 : List (Nat × List Nat × List Byte)),
            z = (s.updClaim e pos).2.recoverRanges c (e.reads x.2.1 x.2.2.1 x.2.2.2) [] →
            z.rebuildDue ((s.updClaim e pos).2.physSpans c (e.reads x.2.1 x.2.2.1 x.2.2.2) ++ (s.updClaim e pos).2.physSpans c (e.writes x.2.1 x.2.2.1 x.2.2.2)) =
              false →
            z.rdBytes c e.f.lscale 64 = .ok (ls, pa) → z.runUnit e (field ls 4 1) pa x = .ok v → v.ownedBuckets e = .ok (own2, qb) →
            ((insNat o.value e.u.done).length < (e.units own2).length → Completes (.updateUnit c i pos .pass []) s fun t => t.mem = v.mem ∧
              kvGet e.f.claimSo t.sos = some { o with value := o.value + 1 } ∧
              OpShows t c i fun q => ∃ u, q.prog = .upd u ∧ u.done = insNat o.value e.u.done ∧ u.refreshing = false) ∧
            ((e.units own2).length ≤ (insNat o.value e.u.done).length →
              (∀ (sides : List (Nat × Nat × Nat)) (pb : Option Nat), v.sidesDue e own2 = .ok (sides, pb) → sides ≠ [] →
                Completes (.updateUnit c i pos .pass []) s fun t => t.mem = v.mem ∧ kvGet e.f.claimSo t.sos = some { o with value := 0 } ∧
                  OpShows t c i fun q => ∃ u, q.prog = .upd u ∧ u.refreshing = true ∧ u.sides = sides ∧ u.sidesDone = e.u.sidesDone ∧ u.held = [] ∧ u.exhausted = []) ∧
              ∀ (l2 : List Byte) (w : State), (∀ x ∈ own2, pgAlgo (e.pg x.2.1) ≠ 2) → e.u.scales = [] → v.rdBytes c e.f.lscale 64 = .ok (l2, none) →
                v.wrBytes c e.f.lscale ((lossScale l2 true).1.take 20) = .ok w → MoreOps e.r i → RecordOpen s c i e.r →
                OpShows v c i (fun q => q.poisoned = false ∧ q.poisonAt = none ∧ q.dup = false) → Completes (.updateUnit c i pos .pass []) s fun t =>
                  EndsOver t c i e.r .ok w ∧ TradeShows t c fun g => g.states = (enumFrom 0 e.t.states).map fun x =>
                    x.2.commit (e.u.bks.any fun b => nth b 0 == x.1))) ∧
          (kvGetD o.value e.u.attempts 0 < 2 → Completes (.updateUnit c i pos .fail []) s fun t => t.mem = s.mem ∧
            OpShows t c i fun q => ∃ u, q.prog = .upd u ∧ u.done = e.u.done ∧ kvGet pos u.held = some o.value ∧
              kvGetD o.value u.attempts 0 = kvGetD o.value e.u.attempts 0 + 1)) ∧
        ((e.units own).length ≤ o.value → e.u.done.length < (e.units own).length → ∀ check, Completes (.updateUnit c i pos check []) s fun t => t.mem = s.mem ∧
            OpShows t c i fun q => ∃ u, q.prog = .upd u ∧ u.exhausted = insNat pos e.u.exhausted ∧ u.done = e.u.done)) ∧
      ∀ u : Nat, e.u.refreshing = true →
        (kvGet pos e.u.held = some u ∨ kvGet pos e.u.held = none ∧ ∃ o, kvGet e.f.claimSo s.sos = some o ∧ o.type = 4 ∧ o.broken = false ∧ o.waits = [] ∧
          o.value = u ∧ u + 1 ≤ 2 ^ 64 - 1) →
        (∀ x : Nat × Nat × Nat, e.u.sides[u]? = some x →
          (∀ a z v : State, a = (s.updClaim e pos).2.updHold c i pos u → z = a.recoverRanges c (a.sideSlot e x) [] →
            z.rebuildDue (z.physSpans c (a.sideSlot e x)) = false → z.runRefresh e false x = .ok v →
            ((insNat u e.u.sidesDone).length ≠ e.u.sides.length → Completes (.refreshUnit c i pos .pass []) s fun t => t.mem = v.mem ∧
              OpShows t c i fun q => ∃ p, q.prog = .upd p ∧ p.sidesDone = insNat u e.u.sidesDone ∧ kvGet pos p.held = none) ∧
            ∀ (own2 : List (Nat × List Nat × List Byte)) (qb : Option Nat) (k : Nat) (g : Trade) (l2 : List Byte) (w : State),
              (insNat u e.u.sidesDone).length = e.u.sides.length → v.ownedBuckets e = .ok (own2, qb) → v.tradeOf c = some (k, g) → e.u.scales = [] →
              v.rdBytes c e.f.lscale 64 = .ok (l2, none) → v.wrBytes c e.f.lscale ((lossScale l2 true).1.take 20) = .ok w → MoreOps e.r i → RecordOpen s c i e.r →
              OpShows v c i (fun q => q.poisoned = false ∧ q.poisonAt = none ∧ q.dup = false) → Completes (.refreshUnit c i pos .pass []) s fun t =>
                EndsOver t c i e.r .ok w ∧ TradeShows t c fun g2 => g2.states = (enumFrom 0 g.states).map fun x =>
                  x.2.commit (e.u.bks.any fun b => nth b 0 == x.1)) ∧
          (kvGetD u e.u.attempts 0 < 2 → Completes (.refreshUnit c i pos .fail []) s fun t => t.mem = s.mem ∧
            OpShows t c i fun q => ∃ p, q.prog = .upd p ∧ p.sidesDone = e.u.sidesDone ∧ kvGet pos p.held = some u ∧
              kvGetD u p.attempts 0 = kvGetD u e.u.attempts 0 + 1)) ∧
        (e.u.sides.length ≤ u → ∀ check, Completes (.refreshUnit c i pos check []) s fun t => t.mem = s.mem ∧
          OpShows t c i fun q => ∃ p, q.prog = .upd p ∧ p.sidesDone = e.u.sidesDone ∧ p.exhausted = insNat pos e.u.exhausted)

/-! ## Expert dispatch and exchange (08_sparsity_and_experts) -/

/-- Without an exchange: EXPERT_ROUTE begins and its chunks are counted one by one, a failed count again (R216, R224); the last writes records, scores and
counts (R217); EXPERT_SCATTER copies every local row (R222); EXPERT_COMBINE forms every active token's row (R223); OMT_PACK writes the planes, or ends with
ST_OMT_FULL where they do not fit (R210); OMT_UNPACK writes every element (R211).
It concludes that each of these completes: expertRoute, expertScatter, expertCombine, routeChunkCount, omtPack, omtUnpack. -/
def Obligations.ExpertOperationsRun : Prop :=
  ∀ (s : State) (c i : Nat),
    (∀ (a : State) (p : Plan) (r : Run) (f : ExpF), OpStarts s a c i p r (.expert f) → f.group = 0 →
      (f.op = 0 → Completes (.expertRoute c i []) s fun t => t.mem = a.mem ∧
        OpShows t c i fun q => q.st = .begun ∧ q.prog = .exp { chunks := [], attempts := [], poisoned := false }) ∧
      ∀ (e : XEnv) (l : List Rec) (v : State), e.c = c → e.i = i → e.p = p → e.f = f → e.records a = .ok (l, none) →
        OpShows v c i (fun q => q.poisoned = false ∧ q.poisonAt = none) →
        (f.op = 1 → wrAll (fun s x => s.scatterRow e (f.per none) x) (a.opBegin c i .none) (l.filter fun x => !x.remote) = .ok v →
          Completes (.expertScatter c i []) s fun t => EndsOver t c i r .ok v) ∧
        ∀ act : List Bool, f.op = 2 → (∀ x ∈ l, x.remote = false) → a.circRuns c = true →
          a.rebuildDue (a.physSpans c (e.p.rangesOf [f.yDesc, f.yovfDesc, f.retDesc, f.recDesc, f.wDesc])) = false → rdAll (fun t => e.active a t) (List.range f.tokens) = .ok (act, none) →
          wrAll (fun s t => s.combineRow e (f.per none) l t) (a.opBegin c i .none) (((enumFrom 0 act).filter Prod.snd).map Prod.fst) = .ok v →
          Completes (.expertCombine c i []) s fun t => EndsOver t c i r .ok v) ∧
    (∀ (e : XEnv) (q : ExpProg) (chunk : Nat) (rs : List Routed), s.expOp c i = some e → e.q.st = .begun → e.q.prog = .exp q → e.f.op = 0 →
      chunk < e.f.chunks → q.chunks.contains chunk = false → s.circRuns c = true →
      (kvGetD chunk q.attempts 0 < 2 → Completes (.routeChunkCount c i chunk .fail []) s fun t => t.mem = s.mem ∧
        OpShows t c i fun z => z.prog = .exp { q with attempts := kvSet chunk (kvGetD chunk q.attempts 0 + 1) q.attempts }) ∧
      ∀ z : State, z = s.recoverRanges c (e.p.rangesOf [e.f.scoreDesc, e.f.predDesc, e.f.emaskDesc]) [] →
        z.rebuildDue (z.physSpans c (e.p.rangesOf [e.f.scoreDesc, e.f.predDesc, e.f.emaskDesc]) ++
          s.physSpans c (e.p.rangesOf [e.f.recDesc, e.f.selDesc, e.f.cntDesc])) = false → rdAll (fun t => e.route z t) ((List.range (min 4096 (e.f.tokens - 4096 * chunk))).map (· + 4096 * chunk)) = .ok (rs, none) →
        ((insNat chunk q.chunks).length < e.f.chunks → Completes (.routeChunkCount c i chunk .pass []) s fun t => t.mem = z.mem ∧
          OpShows t c i fun z => z.prog = .exp { q with chunks := insNat chunk q.chunks }) ∧
        ∀ (l : List (Nat × Routed)) (base : List (List Nat)) (rd sd cd : TDesc) (v1 v2 v3 : State), e.f.chunks ≤ (insNat chunk q.chunks).length →
          e.f.group = 0 → q.poisoned = false → e.q.poisoned = false → e.q.poisonAt = none → e.q.dup = false → MoreOps e.r i → RecordOpen s c i e.r →
          e.routeAll z = .ok (l, none) → base = [(assignAll e.f.experts l).2] → e.p.ten e.f.recDesc = some rd → e.p.ten e.f.selDesc = some sd →
          e.p.ten e.f.cntDesc = some cd → z.wrBytes c rd.addr (routeRecords e.f none base l) = .ok v1 → v1.routeScores e sd l = .ok v2 →
          v2.wrBytes c cd.addr (routeCounts e.f (totalsOf (e.f.per none) base)) = .ok v3 →
          Completes (.routeChunkCount c i chunk .pass []) s fun t => EndsOver t c i e.r .ok v3) ∧
    ∀ (z : State) (p : Plan) (r : Run) (sd dd mode : Nat) (a b : TDesc) (l : List (List (List (Option Wb)))), p.ten sd = some a → p.ten dd = some b →
      z = s.recoverRanges c a.ranges [] →
      (OpDue s c i p r (.omtPack sd dd mode) → OpDue z c i p r (.omtPack sd dd mode) → rdAll (fun x : Nat × Nat => z.packBlock c mode a b x.1 x.2 0xFFFF) b.blockList = .ok (l, none) →
        (b.omtCap < ((l.map (packedBlock b.format)).map fun x => popBelow x.1 16).sum → EarlierOp r i →
          Completes (.omtPack c i []) s fun t => OpEnded t c i .omtFull) ∧
        ∀ v : State, ((l.map (packedBlock b.format)).map fun x => popBelow x.1 16).sum ≤ b.omtCap →
          (z.opBegin c i .none).packPlanes c b (l.map (packedBlock b.format)) = .ok v →
          Completes (.omtPack c i []) s fun t => EndsOver t c i r .ok v) ∧
      ∀ (chk : List (Nat × Nat)) (v : State), OpDue s c i p r (.omtUnpack sd dd mode) → OpDue z c i p r (.omtUnpack sd dd mode) →
        rdAll (fun x : Nat × Nat => z.omtBlock c a x.1 x.2) a.blockList = .ok (chk, none) →
        rdAll (fun x : (Nat × Nat) × Nat × Nat => z.packBlock c mode a b x.1.1 x.1.2 x.2.1) (List.zip a.blockList chk) = .ok (l, none) →
        (z.opBegin c i .none).unpackWrite c b (movedElems a.blockList l) = .ok v →
        Completes (.omtUnpack c i []) s fun t => EndsOver t c i r .ok v

/-- A unit or message of an exchange that names another member goes on to the successor; here counts are kept by source (R226), a grant by owner (R227), a
row goes to the slot of its source, expert and ordinal, a returned row to its own (R226), a damaged one is asked for again, and a source sends a row again
(R228).
It concludes that each of these completes: expxCountLand, expxRowGrant, expxRowLand, expxReturnLand, expxRowResendRequest. -/
def Obligations.ExpertExchangeActs : Prop :=
  ∀ (s : State) (m : ExpxMsg) (g : Expx), kvGet (gkey m.ctx m.tag) s.expx = some g → g.form.state = 1 →
    (∀ (c : Instr) (vc kind p : Nat) (l : List Byte) (bad dmg : Bool) (step ex ord ret : Nat) (counts : List Nat) (row : List Byte), m.dst ≠ g.f.rank →
      (c, vc, kind, l, bad) ∈ [
        (.expxCountLand m step counts bad, 4, unitCount, leBytes 8 step ++ counts.flatMap (leBytes 4), bad), (.expxRowGrant m, 0, msgGrant, [], false),
        (.expxRowLand m ex ord ret row bad dmg, 4, unitRow, leBytes 4 ex ++ leBytes 4 ord ++ leBytes 4 ret ++ row, bad),
        (.expxReturnLand m ret row bad dmg, 4, unitReturn, leBytes 4 ret ++ row, bad),
        (.expxRowResendRequest m ex ord ret, 0, msgResend, leBytes 4 ex ++ leBytes 4 ord ++ leBytes 4 ret, false)] →
      s.sharePort (g.f.portOut.take g.f.ports) m.dst = some p →
      Completes c s fun t => t.mem = s.mem ∧ t.expx = s.expx ∧ t.ctxs = s.ctxs ∧
        ∃ u, Sends s u p (expxUnit vc kind m l bad) ∧ t.ports = if vc = 4 then (u.landed m.ctx 4).ports else u.ports) ∧
    (m.dst = g.f.rank →
      (∀ (step : Nat) (counts : List Nat) (bad : Bool), (m.src, step, m.op) ∈ g.taken ∨ (∃ x ∈ kvGetD m.src g.counts [], x.step = step ∧ x.op = m.op) →
        Completes (.expxCountLand m step counts bad) s fun t => t = s.landed m.ctx 4) ∧
      (∀ (step : Nat) (counts : List Nat) (bad : Bool), g.op = none → (m.src, step, m.op) ∉ g.taken →
        (∀ x ∈ kvGetD m.src g.counts [], ¬ (x.step = step ∧ x.op = m.op)) → Completes (.expxCountLand m step counts bad) s fun t => t.mem = s.mem ∧
        t.ports = (s.landed m.ctx 4).ports ∧
        ExpxShows t m.ctx m.tag fun g' => g' = { g with counts := kvSet m.src (kvGetD m.src g.counts [] ++ [⟨step, m.op, counts, bad⟩]) g.counts }) ∧
      (g.op = none → Completes (.expxRowGrant m) s fun t => t.mem = s.mem ∧ t.ports = s.ports ∧ ExpxShows t m.ctx m.tag fun g' =>
        (∀ x, x ∈ g'.grants ↔ x = (m.op, m.src) ∨ x ∈ g.grants) ∧ g'.rows = g.rows ∧ g'.base = g.base ∧ g'.counts = g.counts) ∧
      (∀ (e : XEnv) (p ex ord ret : Nat) (row : List Byte) (d : TDesc) (y : Nat × Nat), s.expxTarget m 1 = some e → g.f.tag = m.tag →
        y = e.landSlot g (e.f.bufDesc, e.f.ovfDesc) m.src ex ord → e.p.ten y.1 = some d → s.sharePort (g.f.portOut.take g.f.ports) m.src = some p →
        Completes (.expxRowLand m ex ord ret row false true) s fun t => t.mem = s.mem ∧ t.expx = s.expx ∧ ∃ u, t.ports = (u.landed m.ctx 4).ports ∧
          Sends s u p (expxUnit 0 msgResend { m with src := g.f.rank, dst := m.src, errs := [] } (leBytes 4 ex ++ leBytes 4 ord ++ leBytes 4 ret) false)) ∧
      (∀ (e : XEnv) (ex ord ret : Nat) (row : List Byte) (d : TDesc) (y : Nat × Nat) (ws : List Wb) (sc : List FV) (w : RowAt) (had : Bool) (v : State),
        m.errs = [] → s.expxTarget m 1 = some e → g.op ≠ some m.op → y = e.landSlot g (e.f.bufDesc, e.f.ovfDesc) m.src ex ord → e.p.ten y.1 = some d →
        w = ⟨m.op, false, m.src, ex, ord, ret, s.physSpans m.ctx [(d.at [y.2, 0], e.f.rowLen * d.format.size)]⟩ →
        had = ((kvGetD m.op g.rows []).any fun x => x.1 == m.src && x.2.1 == ex && x.2.2.1 == ord) →
        (had = true → ∃ b ∈ s.rowDue, inSpans w.spans ⟨b.2, 0, true, 1⟩ = true) →
        rdAll (fun k => s.rdScale e.c d y.2 k) (List.range e.f.rowLen) = .ok (sc, none) → ws = storeRow e.f.numMode d.format sc row →
        s.wrBytes e.c (d.at [y.2, 0]) (rowBytes d.format ws) = .ok v → Completes (.expxRowLand m ex ord ret row false false) s fun t =>
          t.mem = v.mem ∧ t.ports = (s.landed m.ctx 4).ports ∧ (∀ b ∈ t.rowDue, b ∈ s.rowDue ∧ inSpans w.spans ⟨b.2, 0, true, 1⟩ = false) ∧
          ExpxShows t m.ctx m.tag fun g' => g' = { g with
            landed := (g.landed.filter fun z => z.spans != w.spans) ++ [w]
            rows := if had then g.rows else kvSet m.op (kvGetD m.op g.rows [] ++ [(m.src, ex, ord, ret)]) g.rows }) ∧
      (∀ (e : XEnv) (ret : Nat) (row : List Byte) (d : TDesc) (sc : List FV) (w : RowAt) (v : State), m.errs = [] → s.expxTarget m 2 = some e →
        g.op ≠ some m.op → (kvGetD m.op g.returned []).contains ret = false → e.p.ten e.f.retDesc = some d →
        w = ⟨m.op, true, m.src, 0, 0, ret, s.physSpans m.ctx [(d.at [ret, 0], e.f.rowLen * d.format.size)]⟩ →
        rdAll (fun k => s.rdScale e.c d ret k) (List.range e.f.rowLen) = .ok (sc, none) →
        s.wrBytes e.c (d.at [ret, 0]) (storeReturn e.f.numMode e.f.rowLen d.format sc row) = .ok v →
        Completes (.expxReturnLand m ret row false false) s fun t => t.mem = v.mem ∧ t.ports = (s.landed m.ctx 4).ports ∧ ExpxShows t m.ctx m.tag fun g' =>
          g' = { g with landed := (g.landed.filter fun z => z.spans != w.spans) ++ [w]
                        returned := kvSet m.op (insNat ret (kvGetD m.op g.returned [])) g.returned }) ∧
      (∀ (e : XEnv) (z : State) (p ex ord ret : Nat) (l : List Rec) (q : Option Nat) (x : Rec × Nat) (body : List Byte), m.errs = [] →
        s.expxTarget m 1 = some e → z = s.recoverRanges e.c (e.p.rangesOf [e.f.xDesc, e.f.wDesc, e.f.recDesc]) [] →
        e.records z = .ok (l, q) → (remoteRows (e.f.per (some g)) m.src l).find? (fun x => x.1.e == ex && x.2 == ord) = some x →
        e.rowBody z x.1 = .ok (body, none) → s.sharePort (g.f.portOut.take g.f.ports) m.src = some p →
        Completes (.expxRowResendRequest m ex ord ret) s fun t => t.mem = z.mem ∧ t.expx = s.expx ∧
          Sends s t p (expxUnit 4 unitRow (e.msg g m.src) (leBytes 4 x.1.e ++ leBytes 4 x.2 ++ leBytes 4 x.1.slot ++ body) false)) ∧
      ∀ (e : XEnv) (z : State) (p ret : Nat) (x : Nat × Nat × Nat × Nat) (y : Nat × Nat) (d rd : TDesc) (row : List Byte), m.errs = [] →
        s.expxTarget m 1 = none → s.expxTarget m 2 = some e → z = s.recoverRanges e.c (e.p.rangesOf [e.f.yDesc, e.f.yovfDesc]) [] →
        (g.heldRows e).find? (fun x => x.1 == m.src && x.2.2.2 == ret) = some x → y = e.landSlot g (e.f.yDesc, e.f.yovfDesc) x.1 x.2.1 x.2.2.1 →
        e.p.ten y.1 = some d → e.p.ten e.f.retDesc = some rd → rd.format = d.format →
        z.rdBytes e.c (d.at [y.2, 0]) (e.f.rowLen * d.format.size) = .ok (row, none) → s.sharePort (g.f.portOut.take g.f.ports) x.1 = some p →
        ∀ ex ord, Completes (.expxRowResendRequest m ex ord ret) s fun t => t.mem = z.mem ∧ t.expx = s.expx ∧
          Sends s t p (expxUnit 4 unitReturn (e.msg g x.1) (leBytes 4 x.2.2.2 ++ row) false))

/-! ## Transfers and stage queues (05_memory, 11_job_mapping) -/

/-- TRANSFER's descriptors join the context's queues in the order of its list, or one out of range ends it with ST_TIER_TOKEN (R193, R194).
The head of a queue starts once no earlier transfer of its token is in progress and its gate is acquired: a Downdraft's token is filling from then on,
an Updraft on an EMPTY token ends with ST_TIER_TOKEN, and a gate that is not to be had makes it wait (R194). The segment that arbitration picks moves: each
sector of its source is copied to its destination, and the last ends the transfer (R193, R196).
It concludes that each of these completes: transfer, transferStart, transferSegmentComplete. -/
def Obligations.TransfersJoinStartAndMove : Prop :=
  (∀ (s a : State) (c i list count : Nat) (x : Ctx) (p : Plan) (r : Run) (l : List Byte) (ts : List Xfer), OpDue s c i p r (.transfer list count) →
    a = s.recoverRanges c [(list, 64 * count)] [] → OpDue a c i p r (.transfer list count) → kvGet c a.ctxs = some x → 0 < count → a.rdBytes c list (64 * count) = .ok (l, none) →
    ts = (enumFrom 0 (chunks 64 (count + 1) l)).map (fun y => xferOf y.2 (x.xferSeq + y.1) i) →
    ((∀ y ∈ List.zip ts (chunks 64 (count + 1) l), x.xferOk y.1 (field y.2 32 1) = true) → Completes (.transfer c { op := i }) s fun t => t.mem = a.mem ∧
      OpShows t c i (fun q => q.st = .begun) ∧ CtxShows t c fun y => y.down = x.down ++ ts.filter (fun u => !u.updraft) ∧
        y.up = x.up ++ ts.filter (fun u => u.updraft) ∧ y.xferSeq = x.xferSeq + count ∧ y.tokens = x.tokens) ∧
    ((∃ y ∈ List.zip ts (chunks 64 (count + 1) l), x.xferOk y.1 (field y.2 32 1) = false) → EarlierOp r i →
      Completes (.transfer c { op := i }) s fun t => OpEnded t c i .tierToken)) ∧
  (∀ (s : State) (c : Nat) (up : Bool) (x : Ctx) (t : Xfer) (rest : List Xfer) (k : Token), kvGet c s.ctxs = some x → x.queueOf up = t :: rest →
    t.started = false → t.waiting = false → (∀ u ∈ x.down ++ x.up, u.token = t.token → t.seq ≤ u.seq) → x.countsSaved = false → s.running = true →
    x.tokens[t.token]? = some k →
    (∀ u : State, (t.gated = true ∧ u = s ∨ t.gated = false ∧ u.ctxs = s.ctxs ∧
        ∃ o v, kvGet t.gateSo s.sos = some o ∧ s.soApply t.gateSo (acquireOp o.type) t.gateN c 0 = (.done v, u)) →
      (up = false ∨ k.state ≠ 0 → Completes (.transferStart c up) s fun s' => s'.mem = u.mem ∧ s'.sos = u.sos ∧ CtxShows s' c fun y =>
        y.queueOf up = { t with started := true, gated := true } :: rest ∧ y.queueOf (!up) = x.queueOf (!up) ∧
          y.tokens = if up then x.tokens else x.tokens.set t.token { k with state := 1, placed := [] }) ∧
      ∀ (p : Plan) (r : Run) (o : PlanOp) (q : OpRun), up = true → k.state = 0 → s.opOf c t.op = some (x, p, r, o, q) → q.st = .begun →
        EarlierOp r t.op → RecordOpen s c t.op r → Completes (.transferStart c up) s fun s' => OpEnded s' c t.op .tierToken) ∧
    ∀ (o : Obj) (u w : State) (n : WaitKind), t.gated = false → kvGet t.gateSo s.sos = some o →
      s.soApply t.gateSo (acquireOp o.type) t.gateN c 0 = (.wait n, u) → u.ctxs = s.ctxs →
      w = (u.addWait t.gateSo { who := .gate c up, kind := n, left := 0, since := s.refCount }).xferHead c up (fun t => some { t with waiting := true }) →
      (o.type = 3 → Completes (.transferStart c up) s fun s' => s' = w.boostCheck t.gateSo (.gate c up)) ∧
      (o.type ≠ 3 → Completes (.transferStart c up) s fun s' => s'.mem = u.mem ∧
          s'.sos = (u.addWait t.gateSo { who := .gate c up, kind := n, left := 0, since := s.refCount }).sos ∧ CtxShows s' c fun y => y.queueOf up = { t with waiting := true } :: rest ∧ y.tokens = x.tokens)) ∧
  ∀ (s : State) (c : Nat) (up : Bool) (x : Ctx) (t : Xfer) (rest : List Xfer) (k : Token) (n : Nat) (ps sp dp : List (Nat × Nat)) (src dst : List Nat) (u v : State),
    kvGet c s.ctxs = some x → x.queueOf up = t :: rest → t.started = true → s.running = true → s.tierPick = some (c, up) → x.countsSaved = false →
    (∀ b ∈ s.rebuild, b.1 ≠ c) → x.tokens[t.token]? = some k → n = min segBytes (t.bytes - t.done) → vspans x.maps up (t.hbm + t.done) n = .ok ps →
    (∀ p ∈ ps, (s.region p.1).isHbm = true) → sp = (if up then [(k.home + t.offset + t.done, n)] else ps) →
    dp = (if up then ps else [(k.home + t.offset + t.done, n)]) → src = sectorList sp → dst = sectorList dp →
    u = ({ s with tierLast := (c, up) } : State).recover c sp [] → u.rebuildDue sp = false → (u.copyAll src dst).1 = v →
    (u.Canonical → (∀ b ∈ dst, ∀ j < 64, u.region (b + j) ≠ .host) → dst.Pairwise (fun a b => a + 64 ≤ b ∨ b + 64 ≤ a) →
      ∀ (j a b : Nat), src[j]? = some a → dst[j]? = some b → u.readsPoison a = false → v.physRead b 64 = u.physRead a 64) ∧
    (t.done + n < t.bytes → Completes (.transferSegmentComplete c up []) s fun s' => s'.mem = v.mem ∧ s'.poison = v.poison ∧ CtxShows s' c fun y =>
      y.queueOf up = { t with done := t.done + n } :: rest ∧ y.queueOf (!up) = x.queueOf (!up) ∧
        y.tokens = if up then x.tokens else x.tokens.set t.token { k with poison := k.poison + (src.filter u.readsPoison).length }) ∧
    ∀ (p : Plan) (r : Run) (o : PlanOp) (q : OpRun) (m : Nat), t.bytes ≤ t.done + n → t.doneSo = 0xFFFF → s.opOf c t.op = some (x, p, r, o, q) →
      q.prog = .wait m →
      (1 < m → Completes (.transferSegmentComplete c up []) s fun s' => s'.mem = v.mem ∧ OpShows s' c t.op (fun z => z.prog = .wait (m - 1)) ∧
        CtxShows s' c fun y => y.queueOf up = rest ∧
          (up = false → y.tokens = x.tokens.set t.token { k with state := 2, poison := k.poison + (src.filter u.readsPoison).length }) ∧
          (up = true → t.last = true → y.tokens = x.tokens.set t.token { k with state := 0, poison := 0, placed := [] })) ∧
      (m ≤ 1 → q.st = .begun → q.poisoned = false → q.poisonAt = none → q.dup = false → MoreOps r t.op → RecordOpen s c t.op r →
        Completes (.transferSegmentComplete c up []) s fun s' => EndsOver s' c t.op r .ok v)

/-- STQ_PUT takes a credit, without one it waits: the item leaves behind its header on its port, or lands in the local consumer's slot; STQ_GET takes the
item at its index once that has landed, and waits until then; STQ_RELEASE ends the oldest held item and gives its credit back (R288).
An item's segment is written to its slot, and the last to come makes the item there; one landed before or released changes nothing; one of another step
or beyond the free slots fails the queue (R288, R289); a credit returns to the producer, up to its slots (R288); a stall posts its event (R289).
It concludes that each of these completes: stqPut, stqGet, stqRelease, stageItemLand, stageCreditReturn, stageStallTimeout. -/
def Obligations.StageQueuesCarryItems : Prop :=
  (∀ (s : State) (c i : Nat) (p : Plan) (r : Run) (f : StqF) (q : StageQ), OpDue s c i p r (.stage f) → kvGet (gkey c f.tag) s.stageQ = some q →
    q.form.state = 1 →
    (f.op = 0 → q.f.consumer = false →
      (q.credit = 0 → Completes (.stqPut c i []) s fun t => t.mem = s.mem ∧ t.ports = s.ports ∧ t.stageQ = s.stageQ ∧
        OpShows t c i fun z => z.st = .begun) ∧
      ∀ (z : State) (d : TDesc), 0 < q.credit → p.ten f.srcDesc = some d → (s.opBegin c i (.wait 0)).Takes c [(d.addr, q.f.itemBytes)] z →
        (∀ (l : List (Nat × List Byte × Bool)) (us : List TxUnit) (pa : Option Nat) (n : Nat) (x : Port), s.stageLocal q.f = false →
          us = l.map (fun e => { plainUnit 5 c q.f.tag ((if e.1 = 0 then itemHeader r.step q.putIdx q.f.itemBytes else []) ++ e.2.1) e.2.2 with
            cont := e.1 != 0 }) →
          z.itemSegs c d.addr q.f.itemBytes = .ok (l, pa) → s.sharePort q.ports q.putIdx = some n → s.ports[n]? = some x →
          Completes (.stqPut c i []) s fun t => EndsOver t c i r .ok z ∧
            kvGet (gkey c f.tag) t.stageQ = some { q with credit := q.credit - 1, putIdx := q.putIdx + 1 } ∧
            t.ports = s.ports.set n { x with txq := x.txq ++ us }) ∧
        ∀ (l : List Byte) (o : StageQ) (v : State), s.stageLocal q.f = true → q.f.tag = f.tag → q.f.peerCtx ≠ c → 0 < q.f.itemBytes →
          q.f.itemBytes ≤ itemSegBytes → z.rdBytes c d.addr q.f.itemBytes = .ok (l, none) → l.length ≤ o.f.itemBytes →
          kvGet (gkey q.f.peerCtx f.tag) s.stageQ = some o → o.form.state = 1 → o.f.consumer = true → o.relIdx ≤ q.putIdx →
          (∀ e ∈ o.landed, e.1 ≠ q.putIdx) → (∀ e ∈ o.segs, e.1 ≠ q.putIdx) → s.stageSkew q.f.peerCtx f.tag r.step q.putIdx o = false →
          s.stageOp q.f.peerCtx f.tag = none → z.wrBytes q.f.peerCtx (o.slotAddr q.putIdx) l = .ok v →
          Completes (.stqPut c i []) s fun t => EndsOver t c i r .ok v ∧ t.ports = s.ports ∧
            kvGet (gkey q.f.peerCtx f.tag) t.stageQ = some { o with landed := o.landed ++ [(q.putIdx, r.step)] }) ∧
    (f.op = 1 → q.f.consumer = true → q.getIdx < q.relIdx + q.f.slots →
      ((∀ e ∈ q.landed, e.1 ≠ q.getIdx) → Completes (.stqGet c { op := i }) s fun t => t.mem = s.mem ∧ t.stageQ = s.stageQ ∧ OpShows t c i fun z => z.st = .begun) ∧
      ∀ v : State, s.circRuns c = true → q.landed.find? (fun e => e.1 == q.getIdx) = some (q.getIdx, r.step) →
        (f.result = 0 ∧ v = s ∨ f.result ≠ 0 ∧ s.wrBytes c f.result (leBytes 8 (q.slotAddr q.getIdx)) = .ok v) →
        Completes (.stqGet c { op := i }) s fun t => EndsOver t c i r .ok v ∧ kvGet (gkey c f.tag) t.stageQ = some { q with getIdx := q.getIdx + 1 }) ∧
    (f.op = 2 → q.f.consumer = true → q.relIdx < q.getIdx → s.stageLocal q.f = false → ∀ n : Nat, s.sharePort q.ports q.relIdx = some n →
      Completes (.stqRelease c i) s fun t => EndsOver t c i r .ok s ∧
        kvGet (gkey c f.tag) t.stageQ = some { q with relIdx := q.relIdx + 1, landed := q.landed.filter fun e => e.1 != q.relIdx } ∧
        Sends s t n (plainUnit 0 c f.tag (ctlMsg msgCredit (leBytes 4 f.tag ++ leBytes 4 1)) false))) ∧
  ∀ (s : State) (c tag : Nat) (q : StageQ), kvGet (gkey c tag) s.stageQ = some q →
    (q.form.state = 1 → q.f.consumer = true → s.stageOp c tag = none → ∀ (step index seg : Nat) (data : List Byte) (last : Bool),
      (index < q.relIdx ∨ (∃ e ∈ q.landed, e.1 = index) → ∀ bad,
        Completes (.stageItemLand c tag step index seg data last bad) s fun t => t = (s.progress 5 c tag).landed c 5) ∧
      (q.relIdx ≤ index → (∀ e ∈ q.landed, e.1 ≠ index) →
        (s.stageSkew c tag step index q = false → seg * itemSegBytes + data.length ≤ q.f.itemBytes →
          (∀ e ∈ q.segs, e.1 = index → e.2.1 ≠ seg ∧ e.2.2 = false) → ∀ v : State,
          s.wrBytes c (q.slotAddr index + seg * itemSegBytes) data = .ok v →
          Completes (.stageItemLand c tag step index seg data last false) s fun t => t.mem = v.mem ∧ t.ports = (s.landed c 5).ports ∧
            kvGet (gkey c tag) t.stageQ = some (if last = true ∧ (q.segs.filter fun e => e.1 == index).length = seg
              then { q with landed := q.landed ++ [(index, step)], segs := q.segs.filter fun e => e.1 != index }
              else { q with segs := q.segs ++ [(index, seg, last)] })) ∧
        ((∀ e ∈ q.segs, e.1 = index → e.2.1 ≠ seg) → s.stageSkew c tag step index q = true → ∀ bad,
          Completes (.stageItemLand c tag step index seg data last bad) s fun t => t.mem = s.mem ∧
            kvGet (gkey c tag) t.stageQ = some { q with form := { q.form with state := 2 } } ∧
            t.evq = s.evq.push s.refCount 0x0532 c (groupData tag 3 0xFF (s.runStep c))))) ∧
    (q.form.state = 1 → q.f.consumer = false →
      (q.credit < q.f.slots → s.stageOp c tag = none → Completes (.stageCreditReturn c tag) s fun t => t.mem = s.mem ∧ t.ports = s.ports ∧
        kvGet (gkey c tag) t.stageQ = some { q with credit := q.credit + 1 }) ∧
      (q.f.slots ≤ q.credit → Completes (.stageCreditReturn c tag) s fun t => t = s.progress 5 c tag)) ∧
    ∀ (w : Nat × StqF) (o : OpRun) (since n : Nat), q.f.stallLimit ≠ 0 → s.stageOp c tag = some w → OpShows s c w.1 (· = o) →
      kvGetD (stallKey 5 c tag) s.stalls (0, 0) = (since, n) → o.began ≤ since → since + (n + 1) * q.f.stallLimit * 1000000 ≤ s.refCount →
      Completes (.stageStallTimeout c tag) s fun t => t.mem = s.mem ∧ t.stageQ = s.stageQ ∧ t.ports = s.ports ∧
        t.evq = s.evq.push s.refCount 0x0533 c (groupData tag 2 0xFF ((s.refCount - since) / 1000000))

/-! ## Step record, lull counters, trace, rebuild (05_memory, 11_job_mapping, 12_determinism, 21_registers) -/

/-- STEP_MARK writes the step record and starts its span anew, and ends with ST_POISON where a tensor held poison (R302, R303); LULL_SNAP writes the summed
counters (R295); TRACE_MARK makes its entry whatever points are enabled (R466), and ends with ST_MEM_FAULT where its record's area refuses the record (R175, R181); a rebuilt tensor's sectors no longer wait and are counted and no longer
poisoned, and one whose rebuild met an error is poisoned (R185, R186).
It concludes that each of these completes: stepMark, lullSnap, traceMark, tensorRebuild. -/
def Obligations.MarksSnapshotsAndRebuild : Prop :=
  (∀ (s : State) (c i : Nat) (x : Ctx) (p : Plan) (r : Run), kvGet c s.ctxs = some x →
    (∀ (a : State) (addr fp : Nat) (es : List (Nat × Nat × Nat)) (fps : List (List Byte)) (ma mb : Option Nat) (l : List (Status × List Byte)) (env : Bool) (v : State),
      OpStarts s a c i p r (.stepMark addr es) → kvGet c a.ctxs = some x → rdAll (a.fpOf c) es = .ok (fps, ma) → a.stateFp c p = .ok (fp, mb) → l = sinceMark x.mark r i →
      env = (x.mark.envir || (match pFirst ma mb with | some pa => a.hwPoisoned pa | none => false)) →
      a.wrBytes c addr (padTo 384 (a.recordHead c { x with mark := { x.mark with envir := env } } p r es.length (statusFp l) fp l ++ fps.flatten)) = .ok v →
      Completes (.stepMark c i []) s fun t => EndsOver t c i r (if ma = none ∧ mb = none then .ok else .poison) v ∧
        CtxShows t c fun y => y.mark = { since := s.refCount, firstOp := i + 1, recovered := 0, envir := false, statuses := [] }) ∧
    (∀ (addr : Nat) (v : State), OpDue s c i p r (.lullSnap addr) → s.wrBytes c addr x.lullSum = .ok v →
      Completes (.lullSnap c { op := i }) s fun t => EndsOver t c i r .ok v) ∧
    (∀ (code : Nat) (data : W64), OpDue s c i p r (.traceMark code data) → Completes (.traceMark c i) s fun t => EndsOver t c i r .ok s ∧
      (s.tqEnable = 0#8 → t.trq = s.trq.push s.refCount code c (leBytes 8 data.toNat))) ∧
    ∀ (code : Nat) (data : W64) (o : PlanOp) (q : OpRun) (f : MFault), s.opOf c i = some (x, p, r, o, q) → o = .traceMark code data → s.mayIssue c i = true →
      s.reach c true (r.area + 128 * i) 128 = .error f → f.kind ≠ kindWaits → EarlierOp r i →
      Completes (.traceMark c i) s fun t => OpEnded t c i .memFault) ∧
  ∀ (s : State) (c tensor : Nat) (x : Ctx) (p : Plan) (d : TDesc) (mine : List (Nat × Nat)), kvGet c s.ctxs = some x → x.plan = some p →
    p.ten tensor = some d → d.rebuildCount ≠ 0 → x.quiet d = true → mine = s.rebuild.filter (fun b => b.1 == c && (x.tensorSpans d).any fun y =>
      decide (y.1 / 64 ≤ b.2 ∧ b.2 * 64 < y.1 + y.2)) → mine ≠ [] →
    Completes (.tensorRebuild c tensor true) s (fun t => t.tel = (s.telAdd 0x0142 8 1).tel ∧ t.mem = s.mem ∧
      (∀ k, k ∈ t.poison ↔ k ∈ s.poison ∧ ¬ (k ∈ s.sound ∧ inSpans (x.tensorSpans d) ⟨k, 0, false, 0⟩ = true)) ∧
      (∀ b, b ∈ t.rebuild ↔ b ∈ s.rebuild ∧ b ∉ mine) ∧
      CtxShows t c fun y => y.mark.recovered = min (x.mark.recovered + 1) (2 ^ 32 - 1) ∧ y.run = x.run) ∧
    Completes (.tensorRebuild c tensor false) s fun t => t.mem = s.mem ∧ (∀ b, b ∈ t.rebuild ↔ b ∈ s.rebuild ∧ b ∉ mine) ∧
      (∀ k, k ∈ t.poison ↔ k ∈ s.poison ∨ ∃ b ∈ mine, b.2 = k) ∧ CtxShows t c fun y => y.mark.envir = true ∧ y.run = x.run
end

