-- ==== Sys2Proof/Laws/Memory.lean ====
section
/-! SUPPORT. The byte cells of memory: reading after writing, and the canonical form, which every memory operation keeps. -/
namespace Sys2Proof.Machine

/-! One proof after another, so that the check's memory is not shared among many threads. -/
set_option Elab.async false

/-- The canonical form behind a first cell. -/
theorem cellsAbove_cons (lo : Option Nat) (a : Nat) (v : Byte) (t : List Host.Cell) :
    cellsAbove lo ((a, v) :: t) = true ↔
      (∀ l, lo = some l → l < a) ∧ v ≠ memDefault ∧ cellsAbove (some a) t = true := by
  cases lo <;> simp [cellsAbove, and_assoc]

/-- A lower bound may be lowered. -/
theorem cellsAbove_weaken {lo lo' : Option Nat} {m : List Host.Cell}
    (h : ∀ l', lo' = some l' → ∃ l, lo = some l ∧ l' ≤ l) (w : cellsAbove lo m = true) : cellsAbove lo' m = true := by
  cases m with
  | nil => simp [cellsAbove]
  | cons c t =>
    obtain ⟨a, v⟩ := c
    rw [cellsAbove_cons] at w ⊢
    refine ⟨fun l' e => ?_, w.2⟩
    obtain ⟨l, e2, le⟩ := h l' e
    exact Nat.lt_of_le_of_lt le (w.1 l e2)

/-- Writing a byte above the bound keeps the form. -/
theorem cellsAbove_cellSet {lo : Option Nat} {m : List Host.Cell} (a : Nat) (v : Byte) (h : ∀ l, lo = some l → l < a)
    (w : cellsAbove lo m = true) : cellsAbove lo (cellSet m a v) = true := by
  induction m generalizing lo with
  | nil =>
    unfold cellSet
    split
    · simp [cellsAbove]
    · rename_i hv
      rw [cellsAbove_cons]
      exact ⟨h, hv, by simp [cellsAbove]⟩
  | cons c t ih =>
    obtain ⟨b, u⟩ := c
    have w' := (cellsAbove_cons ..).1 w
    unfold cellSet
    split
    · rename_i hlt
      split
      · exact w
      · rename_i hv
        rw [cellsAbove_cons]
        refine ⟨h, hv, ?_⟩
        rw [cellsAbove_cons]
        exact ⟨fun l e => by cases e; exact hlt, w'.2⟩
    · split
      · rename_i he
        subst he
        split
        · exact cellsAbove_weaken (fun l' e => ⟨a, rfl, Nat.le_of_lt (w'.1 l' e)⟩) w'.2.2
        · rename_i hv
          rw [cellsAbove_cons]
          exact ⟨w'.1, hv, w'.2.2⟩
      · rename_i h1 h2
        rw [cellsAbove_cons]
        exact ⟨w'.1, w'.2.1, ih (fun l e => by cases e; omega) w'.2.2⟩

/-- Writing one byte keeps the canonical form. -/
theorem cellSet_wf {m : List Host.Cell} (a : Nat) (v : Byte) (w : Memory.wf m = true) : Memory.wf (cellSet m a v) = true :=
  cellsAbove_cellSet a v (fun _ e => by cases e) w

/-- Writing bytes keeps the canonical form. -/
theorem cellsWrite_wf {m : List Host.Cell} (a : Nat) (l : List Byte) (w : Memory.wf m = true) :
    Memory.wf (cellsWrite m a l) = true := by
  induction l generalizing m a with
  | nil => exact w
  | cons b t ih => exact ih (a + 1) (cellSet_wf a b w)

/-- An address under every listed one reads as the default. -/
theorem cellGet_below {m : List Host.Cell} {lo a : Nat} (w : cellsAbove (some lo) m = true) (h : a ≤ lo) :
    cellGet m a = memDefault := by
  induction m generalizing lo with
  | nil => rfl
  | cons c t ih =>
    obtain ⟨b, u⟩ := c
    have w' := (cellsAbove_cons ..).1 w
    have := w'.1 lo rfl
    unfold cellGet
    rw [if_neg (by omega)]
    exact ih w'.2.2 (by omega)

/-- Reading behind a write of one byte, in a canonical memory. -/
theorem cellGet_cellSet_above {lo : Option Nat} {m : List Host.Cell} (a x : Nat) (v : Byte) (w : cellsAbove lo m = true) :
    cellGet (cellSet m a v) x = if x = a then v else cellGet m x := by
  induction m generalizing lo with
  | nil =>
    unfold cellSet
    split
    · rename_i hv
      split
      · rw [hv]; rfl
      · rfl
    · by_cases hx : x = a
      · simp [cellGet, hx]
      · have : ¬a = x := fun e => hx e.symm
        simp [cellGet, hx, this]
  | cons c t ih =>
    obtain ⟨b, u⟩ := c
    have w' := (cellsAbove_cons ..).1 w
    unfold cellSet
    split
    · rename_i hlt
      split
      · rename_i hv
        split
        · rename_i hx
          subst hx
          unfold cellGet
          rw [if_neg (by omega), cellGet_below w'.2.2 (by omega), hv]
        · rfl
      · by_cases hx : x = a
        · simp [cellGet, hx]
        · rw [if_neg hx]
          conv_lhs => unfold cellGet
          rw [if_neg (by omega)]
    · split
      · rename_i he
        subst he
        split
        · rename_i hv
          by_cases hx : x = a
          · rw [if_pos hx, hx, cellGet_below w'.2.2 (Nat.le_refl _), hv]
          · rw [if_neg hx]
            conv_rhs => unfold cellGet
            rw [if_neg (by omega)]
        · by_cases hx : x = a
          · simp [cellGet, hx]
          · rw [if_neg hx]
            unfold cellGet
            rw [if_neg (by omega), if_neg (by omega)]
      · rename_i h1 h2
        unfold cellGet
        split
        · rename_i hb
          rw [if_neg (by omega)]
        · exact ih w'.2.2

/-- Reading behind a write of one byte. -/
theorem cellGet_cellSet {m : List Host.Cell} (a x : Nat) (v : Byte) (w : Memory.wf m = true) :
    cellGet (cellSet m a v) x = if x = a then v else cellGet m x := cellGet_cellSet_above a x v w

/-- An address outside the bytes written reads as before. -/
theorem cellGet_cellsWrite_other {m : List Host.Cell} (a x : Nat) (l : List Byte) (w : Memory.wf m = true)
    (h : x < a ∨ a + l.length ≤ x) : cellGet (cellsWrite m a l) x = cellGet m x := by
  induction l generalizing m a with
  | nil => rfl
  | cons b t ih =>
    rw [cellsWrite, ih (a + 1) (cellSet_wf a b w) (by simp at h; omega), cellGet_cellSet a x b w]
    rw [if_neg (by simp at h; omega)]

/-- An address among the bytes written reads what was written. -/
theorem cellGet_cellsWrite {m : List Host.Cell} (a i : Nat) (l : List Byte) (w : Memory.wf m = true) (h : i < l.length) :
    cellGet (cellsWrite m a l) (a + i) = l[i] := by
  induction l generalizing m a i with
  | nil => simp at h
  | cons b t ih =>
    cases i with
    | zero =>
      rw [cellsWrite, cellGet_cellsWrite_other _ _ _ (cellSet_wf a b w) (by omega), cellGet_cellSet a _ b w]
      simp
    | succ k =>
      have := ih (m := cellSet m a b) (a := a + 1) (i := k) (cellSet_wf a b w) (by simpa using h)
      rw [cellsWrite]
      rw [show a + (k + 1) = a + 1 + k by omega, this]
      simp

/-- Leaving cells out keeps the form. -/
theorem cellsAbove_filter {lo : Option Nat} {m : List Host.Cell} (p : Host.Cell → Bool) (w : cellsAbove lo m = true) :
    cellsAbove lo (m.filter p) = true := by
  induction m generalizing lo with
  | nil => exact w
  | cons c t ih =>
    obtain ⟨a, v⟩ := c
    have w' := (cellsAbove_cons ..).1 w
    rw [List.filter_cons]
    split
    · rw [cellsAbove_cons]
      exact ⟨w'.1, w'.2.1, ih w'.2.2⟩
    · exact ih (cellsAbove_weaken (fun l' e => ⟨a, rfl, Nat.le_of_lt (w'.1 l' e)⟩) w'.2.2)

/-- Leaving cells out keeps the canonical form. -/
theorem filter_wf {m : List Host.Cell} (p : Host.Cell → Bool) (w : Memory.wf m = true) : Memory.wf (m.filter p) = true :=
  cellsAbove_filter p w

/-- A fold whose every step keeps a property keeps it. -/
theorem foldl_keeps {α β : Type} {P : β → Prop} (f : β → α → β) (h : ∀ b a, P b → P (f b a)) (l : List α) (b : β) (hb : P b) :
    P (l.foldl f b) := by
  induction l generalizing b with
  | nil => exact hb
  | cons a t ih => exact ih _ (h b a hb)

/-- Moving bytes keeps the canonical form. -/
theorem moveMem_wf {s : State} (src dst n : Nat) (w : Memory.wf s.mem = true) : Memory.wf (s.moveMem src dst n).mem = true := by
  unfold State.moveMem
  exact foldl_keeps (P := fun m => Memory.wf m = true) _ (fun m c h => cellSet_wf _ _ h) _ _ (filter_wf _ w)

end Sys2Proof.Machine
end

