-- ==== Sys2Proof/Laws/Ops.lean ====
section
/-! SUPPORT. What each shared operation can change: one lemma for each, which later proofs cite in place of its definition. -/
namespace Sys2Proof.Machine

/-! One proof after another, so that the check's memory is not shared among many threads. -/
set_option Elab.async false

/-- What sending to the host die can change of the host interface. -/
def HostIf.sent (h : HostIf) (out : List (List Byte)) (view : List Host.Cell) (replay : List HostTx) (down : Bool) : HostIf :=
  { h with out := out, view := view, replay := replay, downPosted := down }

/-- A second sending. -/
@[simp] theorem HostIf.sent_sent (h : HostIf) (o o' : List (List Byte)) (v v' : List Host.Cell) (r r' : List HostTx) (d d' : Bool) :
    (h.sent o v r d).sent o' v' r' d' = h.sent o' v' r' d' := rfl
@[simp] theorem HostIf.sent_self (h : HostIf) : h.sent h.out h.view h.replay h.downPosted = h := rfl
@[simp] theorem HostIf.sent_bootStage (h : HostIf) (o : List (List Byte)) (v : List Host.Cell) (r : List HostTx) (d : Bool) :
    (h.sent o v r d).bootStage = h.bootStage := rfl
@[simp] theorem HostIf.sent_linkUp (h : HostIf) (o : List (List Byte)) (v : List Host.Cell) (r : List HostTx) (d : Bool) :
    (h.sent o v r d).linkUp = h.linkUp := rfl
@[simp] theorem HostIf.sent_winSize (h : HostIf) (o : List (List Byte)) (v : List Host.Cell) (r : List HostTx) (d : Bool) :
    (h.sent o v r d).winSize = h.winSize := rfl
@[simp] theorem HostIf.sent_lost (h : HostIf) (o : List (List Byte)) (v : List Host.Cell) (r : List HostTx) (d : Bool) :
    (h.sent o v r d).lost = h.lost := rfl

/-- What a message to the host die with its events can change: nothing outside the host interface, the notifications and the event
queue. -/
def State.hostSent (s : State) (out : List (List Byte)) (view : List Host.Cell) (replay : List HostTx) (down : Bool) (nt : Notif)
    (evq : EvQueue) : State :=
  { s with hi := s.hi.sent out view replay down, nt := nt, evq := evq }

/-- `t` is `s` but for messages to the host die and their events. -/
def State.SentOnly (s t : State) : Prop := ∃ o v r d n e, t = s.hostSent o v r d n e

theorem State.SentOnly.refl (s : State) : s.SentOnly s := ⟨s.hi.out, s.hi.view, s.hi.replay, s.hi.downPosted, s.nt, s.evq, rfl⟩

theorem State.SentOnly.trans {s t u : State} (a : s.SentOnly t) (b : t.SentOnly u) : s.SentOnly u := by
  obtain ⟨_, _, _, _, _, _, rfl⟩ := a
  obtain ⟨o, v, r, d, n, e, rfl⟩ := b
  exact ⟨o, v, r, d, n, e, rfl⟩

/-- A NOTIFY changes only what is sent. -/
theorem State.notifySend_only (s : State) (k c n : Nat) : s.SentOnly (s.notifySend k c n) := by
  unfold State.notifySend
  extract_lets tx
  split
  · exact ⟨_, s.hi.view, s.hi.replay, s.hi.downPosted, s.nt, s.evq, rfl⟩
  · split
    · exact ⟨s.hi.out, s.hi.view, _, s.hi.downPosted, s.nt, s.evq, rfl⟩
    · exact State.SentOnly.refl s

/-- A cause changes only the notifications and what is sent. -/
theorem State.ntCause_only (s : State) (c : Nat) : s.SentOnly (s.ntCause c) := by
  unfold State.ntCause
  split
  · exact State.SentOnly.refl s
  · split
    · exact State.SentOnly.trans ⟨s.hi.out, s.hi.view, s.hi.replay, s.hi.downPosted, _, s.evq, rfl⟩ (State.notifySend_only ..)
    · exact ⟨s.hi.out, s.hi.view, s.hi.replay, s.hi.downPosted, _, s.evq, rfl⟩

/-- Posting an event changes only the event queue, the notifications and what is sent. -/
theorem State.post_only (s : State) (code ctx : Nat) (d : List Byte) : s.SentOnly (s.post code ctx d) :=
  State.SentOnly.trans ⟨s.hi.out, s.hi.view, s.hi.replay, s.hi.downPosted, s.nt, _, rfl⟩ (State.ntCause_only ..)

/-- A trace point changes only the trace queue. -/
theorem State.trace_only (s : State) (p c : Nat) (d : List Byte) : ∃ q, s.trace p c d = { s with trq := q } := by
  unfold State.trace
  split
  · exact ⟨_, rfl⟩
  · exact ⟨s.trq, rfl⟩

/-- A journal entry changes only the journal queue, or the entries that wait for it, and the chain. -/
theorem State.journal_only (s : State) (code : Nat) (persistent : Bool) (ctx : Nat) (p : List Byte) :
    ∃ j c n w, s.journal code persistent ctx p = { s with jrq := j, fw := { s.fw with chain := c, count := n, jwait := w } } := by
  unfold State.journal
  dsimp only
  split
  · exact ⟨_, _, _, s.fw.jwait, rfl⟩
  · exact ⟨s.jrq, _, _, _, rfl⟩

/-- Counting changes only telemetry. -/
theorem State.telAdd_only (s : State) (u i n : Nat) : ∃ t o, s.telAdd u i n = { s with tel := t, telOvf := o } := by
  unfold State.telAdd
  dsimp only
  split
  · exact ⟨_, s.telOvf, rfl⟩
  · exact ⟨_, _, rfl⟩

/-- A write to host memory changes only what is sent, and posts the loss once (R380). -/
theorem State.hostWrite_only (s : State) (o : Nat) (l : List Byte) : s.SentOnly (s.hostWrite o l) := by
  unfold State.hostWrite
  dsimp only
  split
  · exact ⟨_, _, s.hi.replay, s.hi.downPosted, s.nt, s.evq, rfl⟩
  · split
    · exact ⟨s.hi.out, _, _, s.hi.downPosted, s.nt, s.evq, rfl⟩
    · split
      · exact State.SentOnly.refl s
      · exact State.SentOnly.trans ⟨s.hi.out, s.hi.view, s.hi.replay, _, s.nt, s.evq, rfl⟩ (State.post_only ..)

/-- `t` is `s` but for memory, its poison marks, and messages to the host die. -/
def State.Wrote (s t : State) : Prop :=
  ∃ m p w b u, s.SentOnly u ∧ t = { u with mem := m, poison := p, hwPoison := w, sound := b } ∧ (Memory.wf s.mem = true → Memory.wf m = true)

theorem State.SentOnly.mem {s t : State} (h : s.SentOnly t) : t.mem = s.mem ∧ t.poison = s.poison ∧ t.hwPoison = s.hwPoison := by
  obtain ⟨_, _, _, _, _, _, rfl⟩ := h
  exact ⟨rfl, rfl, rfl⟩

theorem State.SentOnly.with_mem {s t : State} (h : s.SentOnly t) (m : List Host.Cell) (p w : List Nat) :
    ({ s with mem := m, poison := p, hwPoison := w } : State).SentOnly { t with mem := m, poison := p, hwPoison := w } := by
  obtain ⟨o, v, r, d, n, e, rfl⟩ := h
  exact ⟨o, v, r, d, n, e, rfl⟩

theorem State.Wrote.of_sent {s t : State} (h : s.SentOnly t) : s.Wrote t :=
  ⟨t.mem, t.poison, t.hwPoison, t.sound, t, h, rfl, fun w => by rw [h.mem.1]; exact w⟩

theorem State.Wrote.refl (s : State) : s.Wrote s := .of_sent (.refl s)

theorem State.Wrote.of_mem (s : State) (m : List Host.Cell) (p : List Nat) (h : Memory.wf s.mem = true → Memory.wf m = true) :
    s.Wrote { s with mem := m, poison := p } := ⟨m, p, s.hwPoison, s.sound, s, .refl s, rfl, h⟩

theorem State.Wrote.trans {s t u : State} (a : s.Wrote t) (b : t.Wrote u) : s.Wrote u := by
  obtain ⟨m, p, k, x, v, hv, rfl, hm⟩ := a
  obtain ⟨m', p', k', x', w, hw, rfl, hm'⟩ := b
  obtain ⟨o, vi, r, d, n, e, rfl⟩ := hw
  exact ⟨m', p', k', x', _, hv.trans ⟨o, vi, r, d, n, e, rfl⟩, rfl, fun k => hm' (hm k)⟩

/-- What a write leaves: its memory is canonical if it was. -/
theorem State.Wrote.wf {s t : State} (h : s.Wrote t) (w : Memory.wf s.mem = true) : Memory.wf t.mem = true := by
  obtain ⟨m, p, k, b, u, _, rfl, hm⟩ := h
  exact hm w

theorem State.poisonRange_only (s : State) (a n : Nat) : ∃ p w x, s.poisonRange a n = { s with poison := p, hwPoison := w, sound := x } := by
  unfold State.poisonRange
  refine foldl_keeps (P := fun t => ∃ p w x, t = { s with poison := p, hwPoison := w, sound := x }) _ ?_ _ _ ⟨s.poison, s.hwPoison, s.sound, rfl⟩
  rintro b k ⟨p, w, x, rfl⟩
  exact ⟨_, _, _, rfl⟩

theorem State.writeSector_only (s : State) (a : Nat) (l : List Byte) : s.Wrote (s.writeSector a l) := by
  unfold State.writeSector
  split
  · exact .of_mem s _ _ (cellsWrite_wf a l)
  · split
    · exact .refl s
    · exact .of_mem s _ s.poison (cellsWrite_wf a l)

theorem State.writeMem_only (f : Nat) (s : State) (a : Nat) (l : List Byte) : s.Wrote (State.writeMem f s a l) := by
  induction f generalizing s a l with
  | zero => exact .refl s
  | succ n ih =>
    unfold State.writeMem
    split
    · exact .refl s
    · exact (s.writeSector_only ..).trans (ih ..)

/-- A physical write changes only memory, poison marks and messages to the host die. -/
theorem State.physWrite_only (s : State) (a : Nat) (l : List Byte) : s.Wrote (s.physWrite a l) := by
  unfold State.physWrite
  split
  · exact .refl s
  · split
    · exact (State.Wrote.of_mem s s.mem _ id).trans (.of_sent (State.hostWrite_only ..))
    · exact State.writeMem_only ..

theorem State.writeSlots_only (s : State) (q : QueueRec) (i : Nat) (l : List (List Byte)) : s.Wrote (s.writeSlots q i l) := by
  induction l generalizing s i with
  | nil => exact .refl s
  | cons b t ih => exact (s.physWrite_only ..).trans (ih ..)

theorem State.writeSpans_only (s : State) (ps : List (Nat × Nat)) (l : List Byte) : s.Wrote (s.writeSpans ps l) := by
  induction ps generalizing s l with
  | nil => exact .refl s
  | cons p t ih => exact (s.physWrite_only ..).trans (ih ..)

theorem State.dirtySlot_only (s : State) (a : Nat) : ∃ m, s.dirtySlot a = { s with models := m } := by
  unfold State.dirtySlot
  split
  · exact ⟨_, rfl⟩
  · exact ⟨s.models, rfl⟩

/-- A write to a virtual range changes only memory, poison marks, messages to the host die and the dirty bits of models. -/
theorem State.vwrite_only {s t : State} {c va : Nat} {l : List Byte} (h : s.vwrite c va l = .ok t) :
    ∃ m, ({ s with models := m } : State).Wrote t := by
  unfold State.vwrite at h
  split at h
  · cases h
  · rename_i ps _
    cases h
    have : ∃ m, ps.foldl (fun s p => s.dirtySlot p.1) s = { s with models := m } := by
      refine foldl_keeps (P := fun t => ∃ m, t = { s with models := m }) _ ?_ _ _ ⟨s.models, rfl⟩
      rintro b p ⟨m, rfl⟩
      obtain ⟨m', h'⟩ := State.dirtySlot_only ({ s with models := m } : State) p.1
      exact ⟨m', h'⟩
    obtain ⟨m, hm⟩ := this
    exact ⟨m, by rw [hm]; exact State.writeSpans_only ..⟩

/-- Free bytes move only the counter of free values. -/
theorem freshBytes_only (n : Nat) (s : State) : ∃ k, (freshBytes n s).2 = { s with freeCtr := k } := by
  induction n generalizing s with
  | zero => exact ⟨s.freeCtr, rfl⟩
  | succ n ih =>
    obtain ⟨k, hk⟩ := ih s.fresh.2
    exact ⟨k, hk⟩

/-- REPLY_WRITE changes only memory, messages to the host die, its queue, the packets accepted, the replies held and the trace. -/
theorem State.replyWrite_only (s : State) (h : PktHead) (op slots : Nat) (st : Status) (r : List Byte) :
    ∃ u q a hd tr, s.Wrote u ∧ s.replyWrite h op slots st r = { u with queues := q, accepted := a, held := hd, trq := tr } := by
  unfold State.replyWrite
  split
  · exact ⟨s, s.queues, _, s.held, s.trq, .refl s, rfl⟩
  · split
    · exact ⟨s, s.queues, s.accepted, s.held, s.trq, .refl s, rfl⟩
    split
    · exact ⟨s, s.queues, s.accepted, _, s.trq, .refl s, rfl⟩
    · rename_i q _ _ _
      extract_lets q1 time body s1 s2 s3 s4 s5 s6 s7
      have w : s.Wrote s4 :=
        (((s.physWrite_only ..).trans (s1.physWrite_only ..)).trans (s2.writeSlots_only ..)).trans (s3.physWrite_only ..)
      obtain ⟨tr, h7⟩ : ∃ tr, s7 = { s6 with trq := tr } := s6.trace_only ..
      have e7 : s7 = { s4 with queues := s5.queues, accepted := s6.accepted, trq := tr } := h7
      split
      · obtain ⟨o, v, rp, d, n, e, hc⟩ := s7.ntCause_only h.queue
        rw [hc, e7]
        exact ⟨s4.hostSent o v rp d n e, s5.queues, s6.accepted, s4.held, tr, w.trans (.of_sent ⟨o, v, rp, d, n, e, rfl⟩), rfl⟩
      · rw [e7]
        exact ⟨s4, s5.queues, s6.accepted, s4.held, tr, w, rfl⟩

end Sys2Proof.Machine
end

