-- ==== Sys2Proof/Laws/Sched.lean ====
section
/-! SUPPORT. Tables by number, and what scheduling and the commit point of a command can change. -/
namespace Sys2Proof.Machine

/-! One proof after another, so that the check's memory is not shared among many threads. -/
set_option Elab.async false

/-! ## Tables -/

/-- A table with a key written: that key has the new entry, every other its old one. -/
theorem kvGet_kvSet {α : Type} (k j : Nat) (a : α) (m : KV α) :
    kvGet j (kvSet k a m) = if j = k then some a else kvGet j m := by
  induction m with
  | nil => by_cases h : j = k <;> simp [kvSet, kvGet, h, eq_comm (a := k)]
  | cons e t ih =>
    obtain ⟨i, b⟩ := e
    unfold kvSet
    by_cases h : j = k
    · subst h
      split
      · simp [kvGet]
      · split
        · simp [kvGet]
        · rename_i h2
          simp [kvGet, ih, show i ≠ j from fun e => h2 e.symm]
    · split
      · simp [kvGet, show k ≠ j from fun e => h e.symm]
      · split
        · rename_i h2
          subst h2
          simp [kvGet, show k ≠ j from fun e => h e.symm]
        · simp [kvGet, ih, h]

@[simp] theorem kvGet_kvSet_self {α : Type} (k : Nat) (a : α) (m : KV α) : kvGet k (kvSet k a m) = some a := by
  simp [kvGet_kvSet]

/-! ## Contexts -/

/-- Updating a context changes the table of contexts alone. -/
theorem State.ctxDo_only (s : State) (c : Nat) (f : Ctx → Ctx) : ∃ x, s.ctxDo c f = { s with ctxs := x } := by
  unfold State.ctxDo
  split
  · exact ⟨s.ctxs, rfl⟩
  · exact ⟨_, rfl⟩

/-- Every context behind an update of one. -/
theorem State.ctxDo_ctx (s : State) (c d : Nat) (f : Ctx → Ctx) :
    kvGet d (s.ctxDo c f).ctxs = if d = c then (kvGet c s.ctxs).map f else kvGet d s.ctxs := by
  unfold State.ctxDo
  split
  · rename_i h
    split
    · rename_i e
      rw [e, h]
      rfl
    · rfl
  · rename_i x h
    rw [kvGet_kvSet]
    split
    · rw [h]
      rfl
    · rfl

/-- `t` is `s` but for the positions of contexts and the trace queue. -/
def State.Placed (s t : State) : Prop :=
  ∃ x q, t = { s with ctxs := x, trq := q } ∧
    ∀ c, (kvGet c s.ctxs = none ∧ kvGet c x = none) ∨ ∃ y ps, kvGet c s.ctxs = some y ∧ kvGet c x = some { y with positions := ps }

theorem State.Placed.refl (s : State) : s.Placed s := by
  refine ⟨s.ctxs, s.trq, rfl, fun c => ?_⟩
  cases h : kvGet c s.ctxs with
  | none => exact .inl ⟨rfl, rfl⟩
  | some y => exact .inr ⟨y, y.positions, rfl, rfl⟩

theorem State.Placed.trans {s t u : State} (a : s.Placed t) (b : t.Placed u) : s.Placed u := by
  obtain ⟨x, q, rfl, h⟩ := a
  obtain ⟨x', q', rfl, h'⟩ := b
  refine ⟨x', q', rfl, fun c => ?_⟩
  have h1 := h c
  have h2 := h' c
  dsimp only at h2
  rcases h1 with ⟨e, e1⟩ | ⟨y, ps, e, e1⟩
  · rcases h2 with ⟨_, e3⟩ | ⟨y', _, e2, _⟩
    · exact .inl ⟨e, e3⟩
    · rw [e1] at e2; cases e2
  · rcases h2 with ⟨e2, _⟩ | ⟨y', ps', e2, e3⟩
    · rw [e1] at e2; cases e2
    · rw [e1] at e2
      cases e2
      exact .inr ⟨y, ps', e, e3⟩

theorem State.Placed.fold {α : Type} (f : State → α → State) (h : ∀ (t : State) (a : α), t.Placed (f t a)) (l : List α) (s : State) :
    s.Placed (l.foldl f s) := by
  induction l generalizing s with
  | nil => exact .refl s
  | cons a t ih => exact (h s a).trans (ih _)

/-- Updating a position leaves everything but positions. -/
theorem State.posDo_placed (s : State) (c p : Nat) (f : Position → Position) : s.Placed (s.posDo c p f) := by
  unfold State.posDo
  obtain ⟨x, hx⟩ := s.ctxDo_only c fun x =>
    match x.positions[p]? with
    | none => x
    | some q => { x with positions := x.positions.set p (f q) }
  refine ⟨x, s.trq, hx, fun d => ?_⟩
  have := s.ctxDo_ctx c d fun x =>
    match x.positions[p]? with
    | none => x
    | some q => { x with positions := x.positions.set p (f q) }
  rw [hx] at this
  dsimp only at this
  rw [this]
  cases hc : kvGet c s.ctxs with
  | none =>
    by_cases e : d = c
    · subst e; exact .inl ⟨hc, by simp⟩
    · rw [if_neg e]
      cases hd : kvGet d s.ctxs with
      | none => exact .inl ⟨rfl, rfl⟩
      | some y => exact .inr ⟨y, y.positions, rfl, rfl⟩
  | some z =>
    by_cases e : d = c
    · subst e
      rw [if_pos rfl]
      cases hp : z.positions[p]? with
      | none => exact .inr ⟨z, z.positions, hc, by simp [hp]⟩
      | some q => exact .inr ⟨z, z.positions.set p (f q), hc, by simp [hp]⟩
    · rw [if_neg e]
      cases hd : kvGet d s.ctxs with
      | none => exact .inl ⟨rfl, rfl⟩
      | some y => exact .inr ⟨y, y.positions, rfl, rfl⟩

theorem State.trace_placed (s : State) (p c : Nat) (d : List Byte) : s.Placed (s.trace p c d) := by
  obtain ⟨q, h⟩ := s.trace_only p c d
  rw [h]
  refine ⟨s.ctxs, q, rfl, fun c => ?_⟩
  cases h : kvGet c s.ctxs with
  | none => exact .inl ⟨rfl, rfl⟩
  | some y => exact .inr ⟨y, y.positions, rfl, rfl⟩

theorem State.place1_placed (s : State) (c p w : Nat) (ok : Occ → Bool) (key : Occ → List Nat) :
    s.Placed (s.place1 c p w ok key).1 := by
  unfold State.place1
  split
  · exact .refl s
  · extract_lets os
    split
    · exact s.posDo_placed ..
    · split
      · exact (State.Placed.fold _ (fun t o => t.posDo_placed ..) _ s).trans (State.posDo_placed ..)
      · exact s.posDo_placed ..

theorem State.placeAll_placed (s : State) (c : Nat) (l : List Nat) (n : Nat × Nat) : s.Placed (s.placeAll c l n).1 := by
  induction l generalizing s n with
  | nil => exact .refl s
  | cons p t ih =>
    unfold State.placeAll
    split
    · split
      · exact (s.place1_placed ..).trans (ih ..)
      · extract_lets due
        split
        · exact (s.posDo_placed ..).trans (ih ..)
        · exact ih ..
    · exact ih ..

/-- A scheduling decision changes only positions and the trace queue. -/
theorem State.decideFrom_placed (s : State) (n : Nat × Nat) : s.Placed (s.decideFrom n) := by
  unfold State.decideFrom
  split
  · exact .refl s
  · refine State.Placed.trans ?_ (State.trace_placed ..)
    refine foldl_keeps (P := fun (a : State × Nat × Nat) => s.Placed a.1) _ ?_ _ _ (.refl s)
    intro a c h
    split
    · exact h.trans (State.placeAll_placed ..)
    · exact h

theorem State.schedule_placed (s : State) : s.Placed s.schedule := s.decideFrom_placed (0, 0)

/-- Positions that take their partitions change only positions. -/
theorem State.settle_placed (s : State) : s.Placed s.settle := by
  unfold State.settle
  split
  · exact .refl s
  · refine State.Placed.fold _ (fun t o => ?_) _ s
    split <;> try exact .refl t
    split
    · exact t.posDo_placed ..
    · exact .refl t

/-- A decision at the end of a packet changes only positions and the trace queue. -/
theorem State.retired_placed (s : State) (c : Nat) : s.Placed (s.retired c) := by
  unfold State.retired
  split
  · exact .refl s
  · split
    · exact s.schedule_placed
    · exact .refl s

/-- What a scheduling change leaves of a context. -/
theorem State.Placed.ctx {s t : State} (h : s.Placed t) {c : Nat} {y : Ctx} (e : kvGet c s.ctxs = some y) :
    ∃ ps, kvGet c t.ctxs = some { y with positions := ps } := by
  obtain ⟨x, q, rfl, k⟩ := h
  rcases k c with ⟨e1, _⟩ | ⟨y', ps, e1, e2⟩
  · rw [e] at e1; cases e1
  · rw [e] at e1
    cases e1
    exact ⟨ps, e2⟩

theorem State.Placed.ctx_none {s t : State} (h : s.Placed t) {c : Nat} (e : kvGet c s.ctxs = none) : kvGet c t.ctxs = none := by
  obtain ⟨x, q, rfl, k⟩ := h
  rcases k c with ⟨_, e2⟩ | ⟨y', ps, e1, _⟩
  · exact e2
  · rw [e] at e1; cases e1

/-- Accepting a packet changes the accepted packets, positions and the trace queue. -/
theorem State.accept_only (s : State) (h : PktHead) (op : Nat) :
    ({ s with accepted := s.accepted ++ [{ head := h, opcode := op, since := s.refCount }] } : State).Placed (s.accept h op) :=
  (State.trace_placed ..).trans (State.schedule_placed _)

/-! ## What every command keeps -/

/-- What no command changes: the queue of waiting commands and the identity fuses; and it keeps memory canonical. -/
structure State.Keeps (s t : State) : Prop where
  pending : t.pending = s.pending
  ident : t.ident = s.ident
  wf : Memory.wf s.mem = true → Memory.wf t.mem = true

theorem State.Keeps.refl (s : State) : s.Keeps s := ⟨rfl, rfl, id⟩

theorem State.Keeps.trans {s t u : State} (a : s.Keeps t) (b : t.Keeps u) : s.Keeps u :=
  ⟨b.pending.trans a.pending, b.ident.trans a.ident, fun w => b.wf (a.wf w)⟩

theorem State.Keeps.fold {α : Type} (f : State → α → State) (h : ∀ (t : State) (a : α), t.Keeps (f t a)) (l : List α) (s : State) :
    s.Keeps (l.foldl f s) := by
  induction l generalizing s with
  | nil => exact .refl s
  | cons a t ih => exact (h s a).trans (ih _)

theorem State.SentOnly.keeps {s t : State} (h : s.SentOnly t) : s.Keeps t := by
  obtain ⟨_, _, _, _, _, _, rfl⟩ := h
  exact ⟨rfl, rfl, id⟩

theorem State.Wrote.keeps {s t : State} (h : s.Wrote t) : s.Keeps t := by
  obtain ⟨m, p, k, b, u, hu, rfl, hm⟩ := h
  exact ⟨hu.keeps.pending, hu.keeps.ident, hm⟩

theorem State.Placed.keeps {s t : State} (h : s.Placed t) : s.Keeps t := by
  obtain ⟨_, _, rfl, _⟩ := h
  exact ⟨rfl, rfl, id⟩

theorem State.post_keeps (s : State) (code ctx : Nat) (d : List Byte) : s.Keeps (s.post code ctx d) := (s.post_only ..).keeps
theorem State.ntCause_keeps (s : State) (c : Nat) : s.Keeps (s.ntCause c) := (s.ntCause_only ..).keeps
theorem State.hostWrite_keeps (s : State) (o : Nat) (l : List Byte) : s.Keeps (s.hostWrite o l) := (s.hostWrite_only ..).keeps
theorem State.physWrite_keeps (s : State) (a : Nat) (l : List Byte) : s.Keeps (s.physWrite a l) := (s.physWrite_only ..).keeps
theorem State.schedule_keeps (s : State) : s.Keeps s.schedule := s.schedule_placed.keeps
theorem State.settle_keeps (s : State) : s.Keeps s.settle := s.settle_placed.keeps
theorem State.retired_keeps (s : State) (c : Nat) : s.Keeps (s.retired c) := (s.retired_placed c).keeps
theorem State.posDo_keeps (s : State) (c p : Nat) (f : Position → Position) : s.Keeps (s.posDo c p f) := (s.posDo_placed ..).keeps

theorem State.trace_keeps (s : State) (p c : Nat) (d : List Byte) : s.Keeps (s.trace p c d) := (s.trace_placed ..).keeps

theorem State.journal_keeps (s : State) (code : Nat) (b : Bool) (c : Nat) (p : List Byte) : s.Keeps (s.journal code b c p) := by
  obtain ⟨_, _, _, _, h⟩ := s.journal_only code b c p
  rw [h]
  exact ⟨rfl, rfl, id⟩

theorem State.telAdd_keeps (s : State) (u i n : Nat) : s.Keeps (s.telAdd u i n) := by
  obtain ⟨_, _, h⟩ := s.telAdd_only u i n
  rw [h]
  exact ⟨rfl, rfl, id⟩

theorem State.ctxDo_keeps (s : State) (c : Nat) (f : Ctx → Ctx) : s.Keeps (s.ctxDo c f) := by
  obtain ⟨_, h⟩ := s.ctxDo_only c f
  rw [h]
  exact ⟨rfl, rfl, id⟩

theorem State.vwrite_keeps {s t : State} {c va : Nat} {l : List Byte} (h : s.vwrite c va l = .ok t) : s.Keeps t := by
  obtain ⟨m, w⟩ := State.vwrite_only h
  exact ⟨w.keeps.pending, w.keeps.ident, w.keeps.wf⟩

theorem State.poisonRange_keeps (s : State) (a n : Nat) : s.Keeps (s.poisonRange a n) := by
  obtain ⟨_, _, _, h⟩ := s.poisonRange_only a n
  rw [h]
  exact ⟨rfl, rfl, id⟩

theorem State.dirtySlot_keeps (s : State) (a : Nat) : s.Keeps (s.dirtySlot a) := by
  obtain ⟨_, h⟩ := s.dirtySlot_only a
  rw [h]
  exact ⟨rfl, rfl, id⟩

theorem State.markRange_keeps (s : State) (a n : Nat) : s.Keeps ((sectorsOf a n).foldl State.markHw s) :=
  State.Keeps.fold State.markHw (fun _ _ => ⟨rfl, rfl, id⟩) _ s

theorem State.vpoison_keeps (s : State) (c va n : Nat) : s.Keeps (s.vpoison c va n) := by
  unfold State.vpoison
  split
  · exact .refl s
  · rename_i ps _
    have k : s.Keeps (ps.foldl (fun s p => (s.dirtySlot p.1).poisonRange p.1 p.2) s) :=
      State.Keeps.fold _ (fun t (p : Nat × Nat) => (t.dirtySlot_keeps p.1).trans (State.poisonRange_keeps ..)) ps s
    extract_lets u
    split
    · exact k.trans (State.Keeps.fold _ (fun t (p : Nat × Nat) => t.markRange_keeps p.1 p.2) ps u)
    · exact k

theorem freshBytes_keeps (n : Nat) (s : State) : s.Keeps (freshBytes n s).2 := by
  obtain ⟨_, h⟩ := freshBytes_only n s
  rw [h]
  exact ⟨rfl, rfl, id⟩

theorem State.vscramble_keeps (s : State) (c va n : Nat) : s.Keeps (s.vscramble c va n) := by
  unfold State.vscramble
  extract_lets r
  split
  · exact .refl s
  · rename_i t h
    exact (freshBytes_keeps n s).trans (State.vwrite_keeps h)

theorem State.replyWrite_keeps (s : State) (h : PktHead) (op slots : Nat) (st : Status) (r : List Byte) :
    s.Keeps (s.replyWrite h op slots st r) := by
  obtain ⟨u, _, _, _, _, w, e⟩ := s.replyWrite_only h op slots st r
  rw [e]
  exact ⟨w.keeps.pending, w.keeps.ident, w.keeps.wf⟩

theorem State.accept_keeps (s : State) (h : PktHead) (op : Nat) : s.Keeps (s.accept h op) :=
  ⟨(s.accept_only h op).keeps.pending, (s.accept_only h op).keeps.ident, (s.accept_only h op).keeps.wf⟩

theorem State.halt_keeps (s : State) (cause : Nat) : s.Keeps (s.halt cause) := by
  unfold State.halt
  split
  · exact .refl s
  · exact ⟨(s.post_keeps ..).pending, (s.post_keeps ..).ident, (s.post_keeps ..).wf⟩

/-- A command at its commit point keeps what its body keeps. -/
theorem State.commit_keeps (s : State) (h : PktHead) (op slots : Nat) (body : State → State) (k : ∀ t : State, t.Keeps (body t)) :
    s.Keeps (s.commit h op slots body) := by
  unfold State.commit
  split
  · exact .refl s
  · split
    · exact s.halt_keeps _
    · split
      · exact ((s.accept_keeps ..).trans (State.replyWrite_keeps ..)).trans (State.retired_keeps ..)
      · exact ((s.accept_keeps ..).trans (k _)).trans (State.retired_keeps ..)

/-- A command that ends at its commit point keeps what its body keeps. -/
theorem State.command_keeps (s : State) (h : PktHead) (op slots : Nat) (body : State → Status × List Byte × State)
    (k : ∀ t : State, t.Keeps (body t).2.2) : ∃ t, s.command h op slots body = .next t ∧ s.Keeps t :=
  ⟨_, rfl, s.commit_keeps h op slots _ fun t => (k t).trans (State.replyWrite_keeps ..)⟩

theorem State.moveMem_keeps (s : State) (src dst n : Nat) : s.Keeps (s.moveMem src dst n) := ⟨rfl, rfl, moveMem_wf src dst n⟩

end Sys2Proof.Machine
end

