-- ==== Sys2Proof/Laws/Runs.lean ====
section
/-! SUPPORT. What the shared steps of an operation keep, and what an update of an operation leaves. -/
namespace Sys2Proof.Machine

/-! One proof after another, so that the check's memory is not shared among many threads. -/
set_option Elab.async false

theorem State.opDo_only (s : State) (c i : Nat) (f : OpRun → OpRun) : ∃ x, s.opDo c i f = { s with ctxs := x } := s.ctxDo_only ..

theorem State.opDo_keeps (s : State) (c i : Nat) (f : OpRun → OpRun) : s.Keeps (s.opDo c i f) := s.ctxDo_keeps ..

theorem State.progSet_keeps (s : State) (c i : Nat) (p : Prog) : s.Keeps (s.progSet c i p) := s.opDo_keeps ..

theorem State.opBegin_keeps (s : State) (c i : Nat) (p : Prog) : s.Keeps (s.opBegin c i p) :=
  (s.opDo_keeps ..).trans (State.trace_keeps ..)

theorem State.writeRecord_keeps (s : State) (c i : Nat) : s.Keeps (s.writeRecord c i) := by
  unfold State.writeRecord
  split
  · exact .refl s
  · split
    · rename_i h
      exact State.vwrite_keeps h
    · exact .refl s

/-- Withdrawn waits change only the objects. -/
theorem State.withdraw_only (s : State) (gone : Waiter → Bool) : ∃ o, s.withdraw gone = { s with sos := o } := ⟨_, rfl⟩

theorem State.withdraw_keeps (s : State) (gone : Waiter → Bool) : s.Keeps (s.withdraw gone) := ⟨rfl, rfl, id⟩

/-- Dropping an operation's place in the engines keeps what every command keeps. -/
theorem State.abandonOp_keeps (s : State) (c i : Nat) : s.Keeps (s.abandonOp c i) := by
  unfold State.abandonOp
  extract_lets gates x s1 s2
  have k : s.Keeps s2 := (s.withdraw_keeps _).trans (State.ctxDo_keeps ..)
  exact ⟨k.pending, k.ident, k.wf⟩

/-- Undefined outputs keep what every command keeps. -/
theorem State.undefine_keeps (s : State) (c : Nat) (l : List (Nat × Nat)) : s.Keeps (s.undefine c l) :=
  State.Keeps.fold _ (fun t (r : Nat × Nat) => t.vscramble_keeps c r.1 r.2) l s

theorem State.unrecovered_keeps (s : State) (c : Nat) : s.Keeps (s.unrecovered c) := s.ctxDo_keeps ..

/-- The tokens that an operation's transfers were filling become undefined: what every command keeps stays. -/
theorem State.tokensLost_keeps (s : State) (c i : Nat) : s.Keeps (s.tokensLost c i) := by
  unfold State.tokensLost
  split
  · exact .refl s
  · refine State.Keeps.fold _ (fun t x => ?_) _ s
    split
    · exact (freshBytes_keeps ..).trans (State.physWrite_keeps ..)
    · exact .refl t

theorem State.notIssue_keeps (s : State) (c k : Nat) : s.Keeps (s.notIssue c k) := by
  unfold State.notIssue
  split
  · exact .refl s
  · dsimp only
    refine State.Keeps.trans ?_ (State.writeRecord_keeps ..)
    refine State.Keeps.trans ?_ (State.opDo_keeps ..)
    split
    · exact ((s.tokensLost_keeps ..).trans (State.abandonOp_keeps ..)).trans (State.undefine_keeps ..)
    · exact .refl s

theorem State.runStop_keeps (s : State) (c i : Nat) : s.Keeps (s.runStop c i) := by
  unfold State.runStop
  split
  · exact .refl s
  · split
    · exact .refl s
    · exact (s.ctxDo_keeps ..).trans (State.Keeps.fold _ (fun t k => t.notIssue_keeps ..) _ _)

theorem State.runEnd_keeps (s : State) (c : Nat) : s.Keeps (s.runEnd c) := by
  unfold State.runEnd
  split
  · exact .refl s
  · split
    · exact .refl s
    · split
      · exact ((s.ctxDo_keeps ..).trans (State.replyWrite_keeps ..)).trans (State.schedule_keeps _)
      · exact .refl s

theorem State.poisonEvent_keeps (s : State) (c i : Nat) (pa : Option (Nat × Nat)) : s.Keeps (s.poisonEvent c i pa) := by
  unfold State.poisonEvent
  split
  · exact .refl s
  · exact s.post_keeps ..

/-- An operation's end keeps what every command keeps. -/
theorem State.opEnd_keeps (s : State) (c i : Nat) (st : Status) (extra : List Byte) : s.Keeps (s.opEnd c i st extra) := by
  unfold State.opEnd
  split
  · exact .refl s
  · rename_i q _
    split
    · exact .refl s
    · extract_lets bad s0 fin ext s1 s2 s3 s4 s5 s6
      have k0 : s.Keeps s0 := by
        unfold s0
        generalize bad = b
        cases b
        · exact .refl s
        · exact s.post_keeps ..
      have k1 : s0.Keeps s1 := by
        show s0.Keeps (if fin = .stepSkew ∧ _ then s0.unrecovered c else s0)
        split
        · exact s0.unrecovered_keeps c
        · exact .refl s0
      have k : s.Keeps s5 := ((((k0.trans k1).trans (s1.poisonEvent_keeps ..)).trans (s2.opDo_keeps ..)).trans
        (s3.writeRecord_keeps ..)).trans (s4.trace_keeps ..)
      refine (State.Keeps.trans ?_ (State.runEnd_keeps ..)).trans (State.schedule_keeps _)
      show s.Keeps (if fin.continues then s5 else s5.runStop c i)
      split
      · exact k
      · exact k.trans (State.runStop_keeps ..)

/-- Memory put back as it stood before a vector operation's stores keeps what every command keeps. -/
theorem State.vecUndo_keeps (s : State) (c i : Nat) : s.Keeps (s.vecUndo c i) := by
  unfold State.vecUndo
  split
  · split <;> try exact .refl s
    refine (State.Keeps.fold _ (fun t b => t.physWrite_keeps ..) _ s).trans (State.Keeps.fold _ (fun t b => ?_) _ _)
    split
    · exact .refl t
    · split <;> exact ⟨rfl, rfl, id⟩
  · exact .refl s

theorem State.opFault_keeps (s : State) (c i : Nat) (e : OpErr) : s.Keeps (s.opFault c i e) := by
  unfold State.opFault
  split
  · split
    · exact .refl s
    exact (((s.post_keeps ..).trans (State.vecUndo_keeps ..)).trans (State.abandonOp_keeps ..)).trans (State.opEnd_keeps ..)
  · exact ((s.post_keeps ..).trans (State.abandonOp_keeps ..)).trans (State.opEnd_keeps ..)

theorem State.opTry_keeps {α : Type} (s : State) (c i : Nat) (r : Except OpErr α) (f : α → State) (k : ∀ a, s.Keeps (f a)) :
    s.Keeps (s.opTry c i r f) := by
  unfold State.opTry
  split
  · exact k _
  · exact s.opFault_keeps ..

end Sys2Proof.Machine
end

