-- ==== Sys2Proof/Laws/State.lean ====
section
/-! SUPPORT. The plain updates of the state, field by field: a field that an update does not name is unchanged. What the updates
behind a case distinction can change is said in Laws/Ops.lean, Laws/Sched.lean and Laws/Runs.lean. -/
namespace Sys2Proof.Machine

/-! One proof after another, so that the check's memory is not shared among many threads. -/
set_option Elab.async false

/-! ## State.setPoison -/
@[simp] theorem State.setPoison_ident (s : State) (k : Nat) : (s.setPoison k).ident = s.ident := rfl
@[simp] theorem State.setPoison_cfgCur (s : State) (k : Nat) : (s.setPoison k).cfgCur = s.cfgCur := rfl
@[simp] theorem State.setPoison_cfgPend (s : State) (k : Nat) : (s.setPoison k).cfgPend = s.cfgPend := rfl
@[simp] theorem State.setPoison_refCount (s : State) (k : Nat) : (s.setPoison k).refCount = s.refCount := rfl
@[simp] theorem State.setPoison_halted (s : State) (k : Nat) : (s.setPoison k).halted = s.halted := rfl
@[simp] theorem State.setPoison_resetDue (s : State) (k : Nat) : (s.setPoison k).resetDue = s.resetDue := rfl
@[simp] theorem State.setPoison_calm (s : State) (k : Nat) : (s.setPoison k).calm = s.calm := rfl
@[simp] theorem State.setPoison_power (s : State) (k : Nat) : (s.setPoison k).power = s.power := rfl
@[simp] theorem State.setPoison_mirror (s : State) (k : Nat) : (s.setPoison k).mirror = s.mirror := rfl
@[simp] theorem State.setPoison_tel (s : State) (k : Nat) : (s.setPoison k).tel = s.tel := rfl
@[simp] theorem State.setPoison_telOvf (s : State) (k : Nat) : (s.setPoison k).telOvf = s.telOvf := rfl
@[simp] theorem State.setPoison_hi (s : State) (k : Nat) : (s.setPoison k).hi = s.hi := rfl
@[simp] theorem State.setPoison_nt (s : State) (k : Nat) : (s.setPoison k).nt = s.nt := rfl
@[simp] theorem State.setPoison_held (s : State) (k : Nat) : (s.setPoison k).held = s.held := rfl
@[simp] theorem State.setPoison_queues (s : State) (k : Nat) : (s.setPoison k).queues = s.queues := rfl
@[simp] theorem State.setPoison_accepted (s : State) (k : Nat) : (s.setPoison k).accepted = s.accepted := rfl
@[simp] theorem State.setPoison_evq (s : State) (k : Nat) : (s.setPoison k).evq = s.evq := rfl
@[simp] theorem State.setPoison_trq (s : State) (k : Nat) : (s.setPoison k).trq = s.trq := rfl
@[simp] theorem State.setPoison_jrq (s : State) (k : Nat) : (s.setPoison k).jrq = s.jrq := rfl
@[simp] theorem State.setPoison_tqEnable (s : State) (k : Nat) : (s.setPoison k).tqEnable = s.tqEnable := rfl
@[simp] theorem State.setPoison_ctxs (s : State) (k : Nat) : (s.setPoison k).ctxs = s.ctxs := rfl
@[simp] theorem State.setPoison_boosts (s : State) (k : Nat) : (s.setPoison k).boosts = s.boosts := rfl
@[simp] theorem State.setPoison_sos (s : State) (k : Nat) : (s.setPoison k).sos = s.sos := rfl
@[simp] theorem State.setPoison_rsOut (s : State) (k : Nat) : (s.setPoison k).rsOut = s.rsOut := rfl
@[simp] theorem State.setPoison_rsIn (s : State) (k : Nat) : (s.setPoison k).rsIn = s.rsIn := rfl
@[simp] theorem State.setPoison_rsWait (s : State) (k : Nat) : (s.setPoison k).rsWait = s.rsWait := rfl
@[simp] theorem State.setPoison_mem (s : State) (k : Nat) : (s.setPoison k).mem = s.mem := rfl
@[simp] theorem State.setPoison_rebuild (s : State) (k : Nat) : (s.setPoison k).rebuild = s.rebuild := rfl
@[simp] theorem State.setPoison_models (s : State) (k : Nat) : (s.setPoison k).models = s.models := rfl
@[simp] theorem State.setPoison_loads (s : State) (k : Nat) : (s.setPoison k).loads = s.loads := rfl
@[simp] theorem State.setPoison_lpUsed (s : State) (k : Nat) : (s.setPoison k).lpUsed = s.lpUsed := rfl
@[simp] theorem State.setPoison_saveUsed (s : State) (k : Nat) : (s.setPoison k).saveUsed = s.saveUsed := rfl
@[simp] theorem State.setPoison_tiles (s : State) (k : Nat) : (s.setPoison k).tiles = s.tiles := rfl
@[simp] theorem State.setPoison_att (s : State) (k : Nat) : (s.setPoison k).att = s.att := rfl
@[simp] theorem State.setPoison_vec (s : State) (k : Nat) : (s.setPoison k).vec = s.vec := rfl
@[simp] theorem State.setPoison_sfu (s : State) (k : Nat) : (s.setPoison k).sfu = s.sfu := rfl
@[simp] theorem State.setPoison_mpStore (s : State) (k : Nat) : (s.setPoison k).mpStore = s.mpStore := rfl
@[simp] theorem State.setPoison_monoCache (s : State) (k : Nat) : (s.setPoison k).monoCache = s.monoCache := rfl
@[simp] theorem State.setPoison_eddy (s : State) (k : Nat) : (s.setPoison k).eddy = s.eddy := rfl
@[simp] theorem State.setPoison_trade (s : State) (k : Nat) : (s.setPoison k).trade = s.trade := rfl
@[simp] theorem State.setPoison_expx (s : State) (k : Nat) : (s.setPoison k).expx = s.expx := rfl
@[simp] theorem State.setPoison_stageQ (s : State) (k : Nat) : (s.setPoison k).stageQ = s.stageQ := rfl
@[simp] theorem State.setPoison_vl (s : State) (k : Nat) : (s.setPoison k).vl = s.vl := rfl
@[simp] theorem State.setPoison_ports (s : State) (k : Nat) : (s.setPoison k).ports = s.ports := rfl
@[simp] theorem State.setPoison_fw (s : State) (k : Nat) : (s.setPoison k).fw = s.fw := rfl
@[simp] theorem State.setPoison_recw (s : State) (k : Nat) : (s.setPoison k).recw = s.recw := rfl
@[simp] theorem State.setPoison_freeCtr (s : State) (k : Nat) : (s.setPoison k).freeCtr = s.freeCtr := rfl
@[simp] theorem State.setPoison_pending (s : State) (k : Nat) : (s.setPoison k).pending = s.pending := rfl
@[simp] theorem State.setPoison_pass (s : State) (k : Nat) : (s.setPoison k).pass = s.pass := rfl
@[simp] theorem State.setPoison_tierLast (s : State) (k : Nat) : (s.setPoison k).tierLast = s.tierLast := rfl
@[simp] theorem State.setPoison_noc (s : State) (k : Nat) : (s.setPoison k).noc = s.noc := rfl
@[simp] theorem State.setPoison_rowDue (s : State) (k : Nat) : (s.setPoison k).rowDue = s.rowDue := rfl
@[simp] theorem State.setPoison_stalls (s : State) (k : Nat) : (s.setPoison k).stalls = s.stalls := rfl

/-! ## State.hiErr -/
@[simp] theorem State.hiErr_ident (s : State) (k : Nat) : (s.hiErr k).ident = s.ident := rfl
@[simp] theorem State.hiErr_cfgCur (s : State) (k : Nat) : (s.hiErr k).cfgCur = s.cfgCur := rfl
@[simp] theorem State.hiErr_cfgPend (s : State) (k : Nat) : (s.hiErr k).cfgPend = s.cfgPend := rfl
@[simp] theorem State.hiErr_refCount (s : State) (k : Nat) : (s.hiErr k).refCount = s.refCount := rfl
@[simp] theorem State.hiErr_halted (s : State) (k : Nat) : (s.hiErr k).halted = s.halted := rfl
@[simp] theorem State.hiErr_resetDue (s : State) (k : Nat) : (s.hiErr k).resetDue = s.resetDue := rfl
@[simp] theorem State.hiErr_calm (s : State) (k : Nat) : (s.hiErr k).calm = s.calm := rfl
@[simp] theorem State.hiErr_power (s : State) (k : Nat) : (s.hiErr k).power = s.power := rfl
@[simp] theorem State.hiErr_mirror (s : State) (k : Nat) : (s.hiErr k).mirror = s.mirror := rfl
@[simp] theorem State.hiErr_tel (s : State) (k : Nat) : (s.hiErr k).tel = s.tel := rfl
@[simp] theorem State.hiErr_telOvf (s : State) (k : Nat) : (s.hiErr k).telOvf = s.telOvf := rfl
@[simp] theorem State.hiErr_nt (s : State) (k : Nat) : (s.hiErr k).nt = s.nt := rfl
@[simp] theorem State.hiErr_held (s : State) (k : Nat) : (s.hiErr k).held = s.held := rfl
@[simp] theorem State.hiErr_queues (s : State) (k : Nat) : (s.hiErr k).queues = s.queues := rfl
@[simp] theorem State.hiErr_accepted (s : State) (k : Nat) : (s.hiErr k).accepted = s.accepted := rfl
@[simp] theorem State.hiErr_evq (s : State) (k : Nat) : (s.hiErr k).evq = s.evq := rfl
@[simp] theorem State.hiErr_trq (s : State) (k : Nat) : (s.hiErr k).trq = s.trq := rfl
@[simp] theorem State.hiErr_jrq (s : State) (k : Nat) : (s.hiErr k).jrq = s.jrq := rfl
@[simp] theorem State.hiErr_tqEnable (s : State) (k : Nat) : (s.hiErr k).tqEnable = s.tqEnable := rfl
@[simp] theorem State.hiErr_ctxs (s : State) (k : Nat) : (s.hiErr k).ctxs = s.ctxs := rfl
@[simp] theorem State.hiErr_boosts (s : State) (k : Nat) : (s.hiErr k).boosts = s.boosts := rfl
@[simp] theorem State.hiErr_sos (s : State) (k : Nat) : (s.hiErr k).sos = s.sos := rfl
@[simp] theorem State.hiErr_rsOut (s : State) (k : Nat) : (s.hiErr k).rsOut = s.rsOut := rfl
@[simp] theorem State.hiErr_rsIn (s : State) (k : Nat) : (s.hiErr k).rsIn = s.rsIn := rfl
@[simp] theorem State.hiErr_rsWait (s : State) (k : Nat) : (s.hiErr k).rsWait = s.rsWait := rfl
@[simp] theorem State.hiErr_mem (s : State) (k : Nat) : (s.hiErr k).mem = s.mem := rfl
@[simp] theorem State.hiErr_poison (s : State) (k : Nat) : (s.hiErr k).poison = s.poison := rfl
@[simp] theorem State.hiErr_rebuild (s : State) (k : Nat) : (s.hiErr k).rebuild = s.rebuild := rfl
@[simp] theorem State.hiErr_models (s : State) (k : Nat) : (s.hiErr k).models = s.models := rfl
@[simp] theorem State.hiErr_loads (s : State) (k : Nat) : (s.hiErr k).loads = s.loads := rfl
@[simp] theorem State.hiErr_lpUsed (s : State) (k : Nat) : (s.hiErr k).lpUsed = s.lpUsed := rfl
@[simp] theorem State.hiErr_saveUsed (s : State) (k : Nat) : (s.hiErr k).saveUsed = s.saveUsed := rfl
@[simp] theorem State.hiErr_tiles (s : State) (k : Nat) : (s.hiErr k).tiles = s.tiles := rfl
@[simp] theorem State.hiErr_att (s : State) (k : Nat) : (s.hiErr k).att = s.att := rfl
@[simp] theorem State.hiErr_vec (s : State) (k : Nat) : (s.hiErr k).vec = s.vec := rfl
@[simp] theorem State.hiErr_sfu (s : State) (k : Nat) : (s.hiErr k).sfu = s.sfu := rfl
@[simp] theorem State.hiErr_mpStore (s : State) (k : Nat) : (s.hiErr k).mpStore = s.mpStore := rfl
@[simp] theorem State.hiErr_monoCache (s : State) (k : Nat) : (s.hiErr k).monoCache = s.monoCache := rfl
@[simp] theorem State.hiErr_eddy (s : State) (k : Nat) : (s.hiErr k).eddy = s.eddy := rfl
@[simp] theorem State.hiErr_trade (s : State) (k : Nat) : (s.hiErr k).trade = s.trade := rfl
@[simp] theorem State.hiErr_expx (s : State) (k : Nat) : (s.hiErr k).expx = s.expx := rfl
@[simp] theorem State.hiErr_stageQ (s : State) (k : Nat) : (s.hiErr k).stageQ = s.stageQ := rfl
@[simp] theorem State.hiErr_vl (s : State) (k : Nat) : (s.hiErr k).vl = s.vl := rfl
@[simp] theorem State.hiErr_ports (s : State) (k : Nat) : (s.hiErr k).ports = s.ports := rfl
@[simp] theorem State.hiErr_fw (s : State) (k : Nat) : (s.hiErr k).fw = s.fw := rfl
@[simp] theorem State.hiErr_recw (s : State) (k : Nat) : (s.hiErr k).recw = s.recw := rfl
@[simp] theorem State.hiErr_freeCtr (s : State) (k : Nat) : (s.hiErr k).freeCtr = s.freeCtr := rfl
@[simp] theorem State.hiErr_pending (s : State) (k : Nat) : (s.hiErr k).pending = s.pending := rfl
@[simp] theorem State.hiErr_pass (s : State) (k : Nat) : (s.hiErr k).pass = s.pass := rfl
@[simp] theorem State.hiErr_hwPoison (s : State) (k : Nat) : (s.hiErr k).hwPoison = s.hwPoison := rfl
@[simp] theorem State.hiErr_tierLast (s : State) (k : Nat) : (s.hiErr k).tierLast = s.tierLast := rfl
@[simp] theorem State.hiErr_noc (s : State) (k : Nat) : (s.hiErr k).noc = s.noc := rfl
@[simp] theorem State.hiErr_sound (s : State) (k : Nat) : (s.hiErr k).sound = s.sound := rfl
@[simp] theorem State.hiErr_rowDue (s : State) (k : Nat) : (s.hiErr k).rowDue = s.rowDue := rfl
@[simp] theorem State.hiErr_stalls (s : State) (k : Nat) : (s.hiErr k).stalls = s.stalls := rfl

/-! ## State.unaccept -/
@[simp] theorem State.unaccept_ident (s : State) (h : PktHead) : (s.unaccept h).ident = s.ident := rfl
@[simp] theorem State.unaccept_cfgCur (s : State) (h : PktHead) : (s.unaccept h).cfgCur = s.cfgCur := rfl
@[simp] theorem State.unaccept_cfgPend (s : State) (h : PktHead) : (s.unaccept h).cfgPend = s.cfgPend := rfl
@[simp] theorem State.unaccept_refCount (s : State) (h : PktHead) : (s.unaccept h).refCount = s.refCount := rfl
@[simp] theorem State.unaccept_halted (s : State) (h : PktHead) : (s.unaccept h).halted = s.halted := rfl
@[simp] theorem State.unaccept_resetDue (s : State) (h : PktHead) : (s.unaccept h).resetDue = s.resetDue := rfl
@[simp] theorem State.unaccept_calm (s : State) (h : PktHead) : (s.unaccept h).calm = s.calm := rfl
@[simp] theorem State.unaccept_power (s : State) (h : PktHead) : (s.unaccept h).power = s.power := rfl
@[simp] theorem State.unaccept_mirror (s : State) (h : PktHead) : (s.unaccept h).mirror = s.mirror := rfl
@[simp] theorem State.unaccept_tel (s : State) (h : PktHead) : (s.unaccept h).tel = s.tel := rfl
@[simp] theorem State.unaccept_telOvf (s : State) (h : PktHead) : (s.unaccept h).telOvf = s.telOvf := rfl
@[simp] theorem State.unaccept_hi (s : State) (h : PktHead) : (s.unaccept h).hi = s.hi := rfl
@[simp] theorem State.unaccept_nt (s : State) (h : PktHead) : (s.unaccept h).nt = s.nt := rfl
@[simp] theorem State.unaccept_held (s : State) (h : PktHead) : (s.unaccept h).held = s.held := rfl
@[simp] theorem State.unaccept_queues (s : State) (h : PktHead) : (s.unaccept h).queues = s.queues := rfl
@[simp] theorem State.unaccept_evq (s : State) (h : PktHead) : (s.unaccept h).evq = s.evq := rfl
@[simp] theorem State.unaccept_trq (s : State) (h : PktHead) : (s.unaccept h).trq = s.trq := rfl
@[simp] theorem State.unaccept_jrq (s : State) (h : PktHead) : (s.unaccept h).jrq = s.jrq := rfl
@[simp] theorem State.unaccept_tqEnable (s : State) (h : PktHead) : (s.unaccept h).tqEnable = s.tqEnable := rfl
@[simp] theorem State.unaccept_ctxs (s : State) (h : PktHead) : (s.unaccept h).ctxs = s.ctxs := rfl
@[simp] theorem State.unaccept_boosts (s : State) (h : PktHead) : (s.unaccept h).boosts = s.boosts := rfl
@[simp] theorem State.unaccept_sos (s : State) (h : PktHead) : (s.unaccept h).sos = s.sos := rfl
@[simp] theorem State.unaccept_rsOut (s : State) (h : PktHead) : (s.unaccept h).rsOut = s.rsOut := rfl
@[simp] theorem State.unaccept_rsIn (s : State) (h : PktHead) : (s.unaccept h).rsIn = s.rsIn := rfl
@[simp] theorem State.unaccept_rsWait (s : State) (h : PktHead) : (s.unaccept h).rsWait = s.rsWait := rfl
@[simp] theorem State.unaccept_mem (s : State) (h : PktHead) : (s.unaccept h).mem = s.mem := rfl
@[simp] theorem State.unaccept_poison (s : State) (h : PktHead) : (s.unaccept h).poison = s.poison := rfl
@[simp] theorem State.unaccept_rebuild (s : State) (h : PktHead) : (s.unaccept h).rebuild = s.rebuild := rfl
@[simp] theorem State.unaccept_models (s : State) (h : PktHead) : (s.unaccept h).models = s.models := rfl
@[simp] theorem State.unaccept_loads (s : State) (h : PktHead) : (s.unaccept h).loads = s.loads := rfl
@[simp] theorem State.unaccept_lpUsed (s : State) (h : PktHead) : (s.unaccept h).lpUsed = s.lpUsed := rfl
@[simp] theorem State.unaccept_saveUsed (s : State) (h : PktHead) : (s.unaccept h).saveUsed = s.saveUsed := rfl
@[simp] theorem State.unaccept_tiles (s : State) (h : PktHead) : (s.unaccept h).tiles = s.tiles := rfl
@[simp] theorem State.unaccept_att (s : State) (h : PktHead) : (s.unaccept h).att = s.att := rfl
@[simp] theorem State.unaccept_vec (s : State) (h : PktHead) : (s.unaccept h).vec = s.vec := rfl
@[simp] theorem State.unaccept_sfu (s : State) (h : PktHead) : (s.unaccept h).sfu = s.sfu := rfl
@[simp] theorem State.unaccept_mpStore (s : State) (h : PktHead) : (s.unaccept h).mpStore = s.mpStore := rfl
@[simp] theorem State.unaccept_monoCache (s : State) (h : PktHead) : (s.unaccept h).monoCache = s.monoCache := rfl
@[simp] theorem State.unaccept_eddy (s : State) (h : PktHead) : (s.unaccept h).eddy = s.eddy := rfl
@[simp] theorem State.unaccept_trade (s : State) (h : PktHead) : (s.unaccept h).trade = s.trade := rfl
@[simp] theorem State.unaccept_expx (s : State) (h : PktHead) : (s.unaccept h).expx = s.expx := rfl
@[simp] theorem State.unaccept_stageQ (s : State) (h : PktHead) : (s.unaccept h).stageQ = s.stageQ := rfl
@[simp] theorem State.unaccept_vl (s : State) (h : PktHead) : (s.unaccept h).vl = s.vl := rfl
@[simp] theorem State.unaccept_ports (s : State) (h : PktHead) : (s.unaccept h).ports = s.ports := rfl
@[simp] theorem State.unaccept_fw (s : State) (h : PktHead) : (s.unaccept h).fw = s.fw := rfl
@[simp] theorem State.unaccept_recw (s : State) (h : PktHead) : (s.unaccept h).recw = s.recw := rfl
@[simp] theorem State.unaccept_freeCtr (s : State) (h : PktHead) : (s.unaccept h).freeCtr = s.freeCtr := rfl
@[simp] theorem State.unaccept_pending (s : State) (h : PktHead) : (s.unaccept h).pending = s.pending := rfl
@[simp] theorem State.unaccept_pass (s : State) (h : PktHead) : (s.unaccept h).pass = s.pass := rfl
@[simp] theorem State.unaccept_hwPoison (s : State) (h : PktHead) : (s.unaccept h).hwPoison = s.hwPoison := rfl
@[simp] theorem State.unaccept_tierLast (s : State) (h : PktHead) : (s.unaccept h).tierLast = s.tierLast := rfl
@[simp] theorem State.unaccept_noc (s : State) (h : PktHead) : (s.unaccept h).noc = s.noc := rfl
@[simp] theorem State.unaccept_sound (s : State) (h : PktHead) : (s.unaccept h).sound = s.sound := rfl
@[simp] theorem State.unaccept_rowDue (s : State) (h : PktHead) : (s.unaccept h).rowDue = s.rowDue := rfl
@[simp] theorem State.unaccept_stalls (s : State) (h : PktHead) : (s.unaccept h).stalls = s.stalls := rfl

/-! ## State.fresh -/
@[simp] theorem State.fresh_ident (s : State) : s.fresh.2.ident = s.ident := rfl
@[simp] theorem State.fresh_cfgCur (s : State) : s.fresh.2.cfgCur = s.cfgCur := rfl
@[simp] theorem State.fresh_cfgPend (s : State) : s.fresh.2.cfgPend = s.cfgPend := rfl
@[simp] theorem State.fresh_refCount (s : State) : s.fresh.2.refCount = s.refCount := rfl
@[simp] theorem State.fresh_halted (s : State) : s.fresh.2.halted = s.halted := rfl
@[simp] theorem State.fresh_resetDue (s : State) : s.fresh.2.resetDue = s.resetDue := rfl
@[simp] theorem State.fresh_calm (s : State) : s.fresh.2.calm = s.calm := rfl
@[simp] theorem State.fresh_power (s : State) : s.fresh.2.power = s.power := rfl
@[simp] theorem State.fresh_mirror (s : State) : s.fresh.2.mirror = s.mirror := rfl
@[simp] theorem State.fresh_tel (s : State) : s.fresh.2.tel = s.tel := rfl
@[simp] theorem State.fresh_telOvf (s : State) : s.fresh.2.telOvf = s.telOvf := rfl
@[simp] theorem State.fresh_hi (s : State) : s.fresh.2.hi = s.hi := rfl
@[simp] theorem State.fresh_nt (s : State) : s.fresh.2.nt = s.nt := rfl
@[simp] theorem State.fresh_held (s : State) : s.fresh.2.held = s.held := rfl
@[simp] theorem State.fresh_queues (s : State) : s.fresh.2.queues = s.queues := rfl
@[simp] theorem State.fresh_accepted (s : State) : s.fresh.2.accepted = s.accepted := rfl
@[simp] theorem State.fresh_evq (s : State) : s.fresh.2.evq = s.evq := rfl
@[simp] theorem State.fresh_trq (s : State) : s.fresh.2.trq = s.trq := rfl
@[simp] theorem State.fresh_jrq (s : State) : s.fresh.2.jrq = s.jrq := rfl
@[simp] theorem State.fresh_tqEnable (s : State) : s.fresh.2.tqEnable = s.tqEnable := rfl
@[simp] theorem State.fresh_ctxs (s : State) : s.fresh.2.ctxs = s.ctxs := rfl
@[simp] theorem State.fresh_boosts (s : State) : s.fresh.2.boosts = s.boosts := rfl
@[simp] theorem State.fresh_sos (s : State) : s.fresh.2.sos = s.sos := rfl
@[simp] theorem State.fresh_rsOut (s : State) : s.fresh.2.rsOut = s.rsOut := rfl
@[simp] theorem State.fresh_rsIn (s : State) : s.fresh.2.rsIn = s.rsIn := rfl
@[simp] theorem State.fresh_rsWait (s : State) : s.fresh.2.rsWait = s.rsWait := rfl
@[simp] theorem State.fresh_mem (s : State) : s.fresh.2.mem = s.mem := rfl
@[simp] theorem State.fresh_poison (s : State) : s.fresh.2.poison = s.poison := rfl
@[simp] theorem State.fresh_rebuild (s : State) : s.fresh.2.rebuild = s.rebuild := rfl
@[simp] theorem State.fresh_models (s : State) : s.fresh.2.models = s.models := rfl
@[simp] theorem State.fresh_loads (s : State) : s.fresh.2.loads = s.loads := rfl
@[simp] theorem State.fresh_lpUsed (s : State) : s.fresh.2.lpUsed = s.lpUsed := rfl
@[simp] theorem State.fresh_saveUsed (s : State) : s.fresh.2.saveUsed = s.saveUsed := rfl
@[simp] theorem State.fresh_tiles (s : State) : s.fresh.2.tiles = s.tiles := rfl
@[simp] theorem State.fresh_att (s : State) : s.fresh.2.att = s.att := rfl
@[simp] theorem State.fresh_vec (s : State) : s.fresh.2.vec = s.vec := rfl
@[simp] theorem State.fresh_sfu (s : State) : s.fresh.2.sfu = s.sfu := rfl
@[simp] theorem State.fresh_mpStore (s : State) : s.fresh.2.mpStore = s.mpStore := rfl
@[simp] theorem State.fresh_monoCache (s : State) : s.fresh.2.monoCache = s.monoCache := rfl
@[simp] theorem State.fresh_eddy (s : State) : s.fresh.2.eddy = s.eddy := rfl
@[simp] theorem State.fresh_trade (s : State) : s.fresh.2.trade = s.trade := rfl
@[simp] theorem State.fresh_expx (s : State) : s.fresh.2.expx = s.expx := rfl
@[simp] theorem State.fresh_stageQ (s : State) : s.fresh.2.stageQ = s.stageQ := rfl
@[simp] theorem State.fresh_vl (s : State) : s.fresh.2.vl = s.vl := rfl
@[simp] theorem State.fresh_ports (s : State) : s.fresh.2.ports = s.ports := rfl
@[simp] theorem State.fresh_fw (s : State) : s.fresh.2.fw = s.fw := rfl
@[simp] theorem State.fresh_recw (s : State) : s.fresh.2.recw = s.recw := rfl
@[simp] theorem State.fresh_pending (s : State) : s.fresh.2.pending = s.pending := rfl
@[simp] theorem State.fresh_pass (s : State) : s.fresh.2.pass = s.pass := rfl
@[simp] theorem State.fresh_hwPoison (s : State) : s.fresh.2.hwPoison = s.hwPoison := rfl
@[simp] theorem State.fresh_tierLast (s : State) : s.fresh.2.tierLast = s.tierLast := rfl
@[simp] theorem State.fresh_noc (s : State) : s.fresh.2.noc = s.noc := rfl
@[simp] theorem State.fresh_sound (s : State) : s.fresh.2.sound = s.sound := rfl
@[simp] theorem State.fresh_rowDue (s : State) : s.fresh.2.rowDue = s.rowDue := rfl
@[simp] theorem State.fresh_stalls (s : State) : s.fresh.2.stalls = s.stalls := rfl

/-! ## State.moveMem -/
@[simp] theorem State.moveMem_ident (s : State) (a b n : Nat) : (s.moveMem a b n).ident = s.ident := rfl
@[simp] theorem State.moveMem_cfgCur (s : State) (a b n : Nat) : (s.moveMem a b n).cfgCur = s.cfgCur := rfl
@[simp] theorem State.moveMem_cfgPend (s : State) (a b n : Nat) : (s.moveMem a b n).cfgPend = s.cfgPend := rfl
@[simp] theorem State.moveMem_refCount (s : State) (a b n : Nat) : (s.moveMem a b n).refCount = s.refCount := rfl
@[simp] theorem State.moveMem_halted (s : State) (a b n : Nat) : (s.moveMem a b n).halted = s.halted := rfl
@[simp] theorem State.moveMem_resetDue (s : State) (a b n : Nat) : (s.moveMem a b n).resetDue = s.resetDue := rfl
@[simp] theorem State.moveMem_calm (s : State) (a b n : Nat) : (s.moveMem a b n).calm = s.calm := rfl
@[simp] theorem State.moveMem_power (s : State) (a b n : Nat) : (s.moveMem a b n).power = s.power := rfl
@[simp] theorem State.moveMem_mirror (s : State) (a b n : Nat) : (s.moveMem a b n).mirror = s.mirror := rfl
@[simp] theorem State.moveMem_tel (s : State) (a b n : Nat) : (s.moveMem a b n).tel = s.tel := rfl
@[simp] theorem State.moveMem_telOvf (s : State) (a b n : Nat) : (s.moveMem a b n).telOvf = s.telOvf := rfl
@[simp] theorem State.moveMem_hi (s : State) (a b n : Nat) : (s.moveMem a b n).hi = s.hi := rfl
@[simp] theorem State.moveMem_nt (s : State) (a b n : Nat) : (s.moveMem a b n).nt = s.nt := rfl
@[simp] theorem State.moveMem_held (s : State) (a b n : Nat) : (s.moveMem a b n).held = s.held := rfl
@[simp] theorem State.moveMem_queues (s : State) (a b n : Nat) : (s.moveMem a b n).queues = s.queues := rfl
@[simp] theorem State.moveMem_accepted (s : State) (a b n : Nat) : (s.moveMem a b n).accepted = s.accepted := rfl
@[simp] theorem State.moveMem_evq (s : State) (a b n : Nat) : (s.moveMem a b n).evq = s.evq := rfl
@[simp] theorem State.moveMem_trq (s : State) (a b n : Nat) : (s.moveMem a b n).trq = s.trq := rfl
@[simp] theorem State.moveMem_jrq (s : State) (a b n : Nat) : (s.moveMem a b n).jrq = s.jrq := rfl
@[simp] theorem State.moveMem_tqEnable (s : State) (a b n : Nat) : (s.moveMem a b n).tqEnable = s.tqEnable := rfl
@[simp] theorem State.moveMem_ctxs (s : State) (a b n : Nat) : (s.moveMem a b n).ctxs = s.ctxs := rfl
@[simp] theorem State.moveMem_boosts (s : State) (a b n : Nat) : (s.moveMem a b n).boosts = s.boosts := rfl
@[simp] theorem State.moveMem_sos (s : State) (a b n : Nat) : (s.moveMem a b n).sos = s.sos := rfl
@[simp] theorem State.moveMem_rsOut (s : State) (a b n : Nat) : (s.moveMem a b n).rsOut = s.rsOut := rfl
@[simp] theorem State.moveMem_rsIn (s : State) (a b n : Nat) : (s.moveMem a b n).rsIn = s.rsIn := rfl
@[simp] theorem State.moveMem_rsWait (s : State) (a b n : Nat) : (s.moveMem a b n).rsWait = s.rsWait := rfl
@[simp] theorem State.moveMem_rebuild (s : State) (a b n : Nat) : (s.moveMem a b n).rebuild = s.rebuild := rfl
@[simp] theorem State.moveMem_models (s : State) (a b n : Nat) : (s.moveMem a b n).models = s.models := rfl
@[simp] theorem State.moveMem_loads (s : State) (a b n : Nat) : (s.moveMem a b n).loads = s.loads := rfl
@[simp] theorem State.moveMem_lpUsed (s : State) (a b n : Nat) : (s.moveMem a b n).lpUsed = s.lpUsed := rfl
@[simp] theorem State.moveMem_saveUsed (s : State) (a b n : Nat) : (s.moveMem a b n).saveUsed = s.saveUsed := rfl
@[simp] theorem State.moveMem_tiles (s : State) (a b n : Nat) : (s.moveMem a b n).tiles = s.tiles := rfl
@[simp] theorem State.moveMem_att (s : State) (a b n : Nat) : (s.moveMem a b n).att = s.att := rfl
@[simp] theorem State.moveMem_vec (s : State) (a b n : Nat) : (s.moveMem a b n).vec = s.vec := rfl
@[simp] theorem State.moveMem_sfu (s : State) (a b n : Nat) : (s.moveMem a b n).sfu = s.sfu := rfl
@[simp] theorem State.moveMem_mpStore (s : State) (a b n : Nat) : (s.moveMem a b n).mpStore = s.mpStore := rfl
@[simp] theorem State.moveMem_monoCache (s : State) (a b n : Nat) : (s.moveMem a b n).monoCache = s.monoCache := rfl
@[simp] theorem State.moveMem_eddy (s : State) (a b n : Nat) : (s.moveMem a b n).eddy = s.eddy := rfl
@[simp] theorem State.moveMem_trade (s : State) (a b n : Nat) : (s.moveMem a b n).trade = s.trade := rfl
@[simp] theorem State.moveMem_expx (s : State) (a b n : Nat) : (s.moveMem a b n).expx = s.expx := rfl
@[simp] theorem State.moveMem_stageQ (s : State) (a b n : Nat) : (s.moveMem a b n).stageQ = s.stageQ := rfl
@[simp] theorem State.moveMem_vl (s : State) (a b n : Nat) : (s.moveMem a b n).vl = s.vl := rfl
@[simp] theorem State.moveMem_ports (s : State) (a b n : Nat) : (s.moveMem a b n).ports = s.ports := rfl
@[simp] theorem State.moveMem_fw (s : State) (a b n : Nat) : (s.moveMem a b n).fw = s.fw := rfl
@[simp] theorem State.moveMem_recw (s : State) (a b n : Nat) : (s.moveMem a b n).recw = s.recw := rfl
@[simp] theorem State.moveMem_freeCtr (s : State) (a b n : Nat) : (s.moveMem a b n).freeCtr = s.freeCtr := rfl
@[simp] theorem State.moveMem_pending (s : State) (a b n : Nat) : (s.moveMem a b n).pending = s.pending := rfl
@[simp] theorem State.moveMem_pass (s : State) (a b n : Nat) : (s.moveMem a b n).pass = s.pass := rfl
@[simp] theorem State.moveMem_tierLast (s : State) (a b n : Nat) : (s.moveMem a b n).tierLast = s.tierLast := rfl
@[simp] theorem State.moveMem_noc (s : State) (a b n : Nat) : (s.moveMem a b n).noc = s.noc := rfl
@[simp] theorem State.moveMem_sound (s : State) (a b n : Nat) : (s.moveMem a b n).sound = s.sound := rfl
@[simp] theorem State.moveMem_rowDue (s : State) (a b n : Nat) : (s.moveMem a b n).rowDue = s.rowDue := rfl
@[simp] theorem State.moveMem_stalls (s : State) (a b n : Nat) : (s.moveMem a b n).stalls = s.stalls := rfl

/-! ## State.hostSent -/
@[simp] theorem State.hostSent_ident (s : State) (o : List (List Byte)) (v : List Host.Cell) (r : List HostTx) (d : Bool) (n : Notif) (e : EvQueue) : (s.hostSent o v r d n e).ident = s.ident := rfl
@[simp] theorem State.hostSent_cfgCur (s : State) (o : List (List Byte)) (v : List Host.Cell) (r : List HostTx) (d : Bool) (n : Notif) (e : EvQueue) : (s.hostSent o v r d n e).cfgCur = s.cfgCur := rfl
@[simp] theorem State.hostSent_cfgPend (s : State) (o : List (List Byte)) (v : List Host.Cell) (r : List HostTx) (d : Bool) (n : Notif) (e : EvQueue) : (s.hostSent o v r d n e).cfgPend = s.cfgPend := rfl
@[simp] theorem State.hostSent_refCount (s : State) (o : List (List Byte)) (v : List Host.Cell) (r : List HostTx) (d : Bool) (n : Notif) (e : EvQueue) : (s.hostSent o v r d n e).refCount = s.refCount := rfl
@[simp] theorem State.hostSent_halted (s : State) (o : List (List Byte)) (v : List Host.Cell) (r : List HostTx) (d : Bool) (n : Notif) (e : EvQueue) : (s.hostSent o v r d n e).halted = s.halted := rfl
@[simp] theorem State.hostSent_resetDue (s : State) (o : List (List Byte)) (v : List Host.Cell) (r : List HostTx) (d : Bool) (n : Notif) (e : EvQueue) : (s.hostSent o v r d n e).resetDue = s.resetDue := rfl
@[simp] theorem State.hostSent_calm (s : State) (o : List (List Byte)) (v : List Host.Cell) (r : List HostTx) (d : Bool) (n : Notif) (e : EvQueue) : (s.hostSent o v r d n e).calm = s.calm := rfl
@[simp] theorem State.hostSent_power (s : State) (o : List (List Byte)) (v : List Host.Cell) (r : List HostTx) (d : Bool) (n : Notif) (e : EvQueue) : (s.hostSent o v r d n e).power = s.power := rfl
@[simp] theorem State.hostSent_mirror (s : State) (o : List (List Byte)) (v : List Host.Cell) (r : List HostTx) (d : Bool) (n : Notif) (e : EvQueue) : (s.hostSent o v r d n e).mirror = s.mirror := rfl
@[simp] theorem State.hostSent_tel (s : State) (o : List (List Byte)) (v : List Host.Cell) (r : List HostTx) (d : Bool) (n : Notif) (e : EvQueue) : (s.hostSent o v r d n e).tel = s.tel := rfl
@[simp] theorem State.hostSent_telOvf (s : State) (o : List (List Byte)) (v : List Host.Cell) (r : List HostTx) (d : Bool) (n : Notif) (e : EvQueue) : (s.hostSent o v r d n e).telOvf = s.telOvf := rfl
@[simp] theorem State.hostSent_held (s : State) (o : List (List Byte)) (v : List Host.Cell) (r : List HostTx) (d : Bool) (n : Notif) (e : EvQueue) : (s.hostSent o v r d n e).held = s.held := rfl
@[simp] theorem State.hostSent_queues (s : State) (o : List (List Byte)) (v : List Host.Cell) (r : List HostTx) (d : Bool) (n : Notif) (e : EvQueue) : (s.hostSent o v r d n e).queues = s.queues := rfl
@[simp] theorem State.hostSent_accepted (s : State) (o : List (List Byte)) (v : List Host.Cell) (r : List HostTx) (d : Bool) (n : Notif) (e : EvQueue) : (s.hostSent o v r d n e).accepted = s.accepted := rfl
@[simp] theorem State.hostSent_trq (s : State) (o : List (List Byte)) (v : List Host.Cell) (r : List HostTx) (d : Bool) (n : Notif) (e : EvQueue) : (s.hostSent o v r d n e).trq = s.trq := rfl
@[simp] theorem State.hostSent_jrq (s : State) (o : List (List Byte)) (v : List Host.Cell) (r : List HostTx) (d : Bool) (n : Notif) (e : EvQueue) : (s.hostSent o v r d n e).jrq = s.jrq := rfl
@[simp] theorem State.hostSent_tqEnable (s : State) (o : List (List Byte)) (v : List Host.Cell) (r : List HostTx) (d : Bool) (n : Notif) (e : EvQueue) : (s.hostSent o v r d n e).tqEnable = s.tqEnable := rfl
@[simp] theorem State.hostSent_ctxs (s : State) (o : List (List Byte)) (v : List Host.Cell) (r : List HostTx) (d : Bool) (n : Notif) (e : EvQueue) : (s.hostSent o v r d n e).ctxs = s.ctxs := rfl
@[simp] theorem State.hostSent_boosts (s : State) (o : List (List Byte)) (v : List Host.Cell) (r : List HostTx) (d : Bool) (n : Notif) (e : EvQueue) : (s.hostSent o v r d n e).boosts = s.boosts := rfl
@[simp] theorem State.hostSent_sos (s : State) (o : List (List Byte)) (v : List Host.Cell) (r : List HostTx) (d : Bool) (n : Notif) (e : EvQueue) : (s.hostSent o v r d n e).sos = s.sos := rfl
@[simp] theorem State.hostSent_rsOut (s : State) (o : List (List Byte)) (v : List Host.Cell) (r : List HostTx) (d : Bool) (n : Notif) (e : EvQueue) : (s.hostSent o v r d n e).rsOut = s.rsOut := rfl
@[simp] theorem State.hostSent_rsIn (s : State) (o : List (List Byte)) (v : List Host.Cell) (r : List HostTx) (d : Bool) (n : Notif) (e : EvQueue) : (s.hostSent o v r d n e).rsIn = s.rsIn := rfl
@[simp] theorem State.hostSent_rsWait (s : State) (o : List (List Byte)) (v : List Host.Cell) (r : List HostTx) (d : Bool) (n : Notif) (e : EvQueue) : (s.hostSent o v r d n e).rsWait = s.rsWait := rfl
@[simp] theorem State.hostSent_mem (s : State) (o : List (List Byte)) (v : List Host.Cell) (r : List HostTx) (d : Bool) (n : Notif) (e : EvQueue) : (s.hostSent o v r d n e).mem = s.mem := rfl
@[simp] theorem State.hostSent_poison (s : State) (o : List (List Byte)) (v : List Host.Cell) (r : List HostTx) (d : Bool) (n : Notif) (e : EvQueue) : (s.hostSent o v r d n e).poison = s.poison := rfl
@[simp] theorem State.hostSent_rebuild (s : State) (o : List (List Byte)) (v : List Host.Cell) (r : List HostTx) (d : Bool) (n : Notif) (e : EvQueue) : (s.hostSent o v r d n e).rebuild = s.rebuild := rfl
@[simp] theorem State.hostSent_models (s : State) (o : List (List Byte)) (v : List Host.Cell) (r : List HostTx) (d : Bool) (n : Notif) (e : EvQueue) : (s.hostSent o v r d n e).models = s.models := rfl
@[simp] theorem State.hostSent_loads (s : State) (o : List (List Byte)) (v : List Host.Cell) (r : List HostTx) (d : Bool) (n : Notif) (e : EvQueue) : (s.hostSent o v r d n e).loads = s.loads := rfl
@[simp] theorem State.hostSent_lpUsed (s : State) (o : List (List Byte)) (v : List Host.Cell) (r : List HostTx) (d : Bool) (n : Notif) (e : EvQueue) : (s.hostSent o v r d n e).lpUsed = s.lpUsed := rfl
@[simp] theorem State.hostSent_saveUsed (s : State) (o : List (List Byte)) (v : List Host.Cell) (r : List HostTx) (d : Bool) (n : Notif) (e : EvQueue) : (s.hostSent o v r d n e).saveUsed = s.saveUsed := rfl
@[simp] theorem State.hostSent_tiles (s : State) (o : List (List Byte)) (v : List Host.Cell) (r : List HostTx) (d : Bool) (n : Notif) (e : EvQueue) : (s.hostSent o v r d n e).tiles = s.tiles := rfl
@[simp] theorem State.hostSent_att (s : State) (o : List (List Byte)) (v : List Host.Cell) (r : List HostTx) (d : Bool) (n : Notif) (e : EvQueue) : (s.hostSent o v r d n e).att = s.att := rfl
@[simp] theorem State.hostSent_vec (s : State) (o : List (List Byte)) (v : List Host.Cell) (r : List HostTx) (d : Bool) (n : Notif) (e : EvQueue) : (s.hostSent o v r d n e).vec = s.vec := rfl
@[simp] theorem State.hostSent_sfu (s : State) (o : List (List Byte)) (v : List Host.Cell) (r : List HostTx) (d : Bool) (n : Notif) (e : EvQueue) : (s.hostSent o v r d n e).sfu = s.sfu := rfl
@[simp] theorem State.hostSent_mpStore (s : State) (o : List (List Byte)) (v : List Host.Cell) (r : List HostTx) (d : Bool) (n : Notif) (e : EvQueue) : (s.hostSent o v r d n e).mpStore = s.mpStore := rfl
@[simp] theorem State.hostSent_monoCache (s : State) (o : List (List Byte)) (v : List Host.Cell) (r : List HostTx) (d : Bool) (n : Notif) (e : EvQueue) : (s.hostSent o v r d n e).monoCache = s.monoCache := rfl
@[simp] theorem State.hostSent_eddy (s : State) (o : List (List Byte)) (v : List Host.Cell) (r : List HostTx) (d : Bool) (n : Notif) (e : EvQueue) : (s.hostSent o v r d n e).eddy = s.eddy := rfl
@[simp] theorem State.hostSent_trade (s : State) (o : List (List Byte)) (v : List Host.Cell) (r : List HostTx) (d : Bool) (n : Notif) (e : EvQueue) : (s.hostSent o v r d n e).trade = s.trade := rfl
@[simp] theorem State.hostSent_expx (s : State) (o : List (List Byte)) (v : List Host.Cell) (r : List HostTx) (d : Bool) (n : Notif) (e : EvQueue) : (s.hostSent o v r d n e).expx = s.expx := rfl
@[simp] theorem State.hostSent_stageQ (s : State) (o : List (List Byte)) (v : List Host.Cell) (r : List HostTx) (d : Bool) (n : Notif) (e : EvQueue) : (s.hostSent o v r d n e).stageQ = s.stageQ := rfl
@[simp] theorem State.hostSent_vl (s : State) (o : List (List Byte)) (v : List Host.Cell) (r : List HostTx) (d : Bool) (n : Notif) (e : EvQueue) : (s.hostSent o v r d n e).vl = s.vl := rfl
@[simp] theorem State.hostSent_ports (s : State) (o : List (List Byte)) (v : List Host.Cell) (r : List HostTx) (d : Bool) (n : Notif) (e : EvQueue) : (s.hostSent o v r d n e).ports = s.ports := rfl
@[simp] theorem State.hostSent_fw (s : State) (o : List (List Byte)) (v : List Host.Cell) (r : List HostTx) (d : Bool) (n : Notif) (e : EvQueue) : (s.hostSent o v r d n e).fw = s.fw := rfl
@[simp] theorem State.hostSent_recw (s : State) (o : List (List Byte)) (v : List Host.Cell) (r : List HostTx) (d : Bool) (n : Notif) (e : EvQueue) : (s.hostSent o v r d n e).recw = s.recw := rfl
@[simp] theorem State.hostSent_freeCtr (s : State) (o : List (List Byte)) (v : List Host.Cell) (r : List HostTx) (d : Bool) (n : Notif) (e : EvQueue) : (s.hostSent o v r d n e).freeCtr = s.freeCtr := rfl
@[simp] theorem State.hostSent_pending (s : State) (o : List (List Byte)) (v : List Host.Cell) (r : List HostTx) (d : Bool) (n : Notif) (e : EvQueue) : (s.hostSent o v r d n e).pending = s.pending := rfl
@[simp] theorem State.hostSent_pass (s : State) (o : List (List Byte)) (v : List Host.Cell) (r : List HostTx) (d : Bool) (n : Notif) (e : EvQueue) : (s.hostSent o v r d n e).pass = s.pass := rfl
@[simp] theorem State.hostSent_hwPoison (s : State) (o : List (List Byte)) (v : List Host.Cell) (r : List HostTx) (d : Bool) (n : Notif) (e : EvQueue) : (s.hostSent o v r d n e).hwPoison = s.hwPoison := rfl
@[simp] theorem State.hostSent_tierLast (s : State) (o : List (List Byte)) (v : List Host.Cell) (r : List HostTx) (d : Bool) (n : Notif) (e : EvQueue) : (s.hostSent o v r d n e).tierLast = s.tierLast := rfl
@[simp] theorem State.hostSent_noc (s : State) (o : List (List Byte)) (v : List Host.Cell) (r : List HostTx) (d : Bool) (n : Notif) (e : EvQueue) : (s.hostSent o v r d n e).noc = s.noc := rfl
@[simp] theorem State.hostSent_sound (s : State) (o : List (List Byte)) (v : List Host.Cell) (r : List HostTx) (d : Bool) (n : Notif) (e : EvQueue) : (s.hostSent o v r d n e).sound = s.sound := rfl
@[simp] theorem State.hostSent_rowDue (s : State) (o : List (List Byte)) (v : List Host.Cell) (r : List HostTx) (d : Bool) (n : Notif) (e : EvQueue) : (s.hostSent o v r d n e).rowDue = s.rowDue := rfl
@[simp] theorem State.hostSent_stalls (s : State) (o : List (List Byte)) (v : List Host.Cell) (r : List HostTx) (d : Bool) (n : Notif) (e : EvQueue) : (s.hostSent o v r d n e).stalls = s.stalls := rfl

end Sys2Proof.Machine
end

