-- ==== Sys2Proof/Laws/Reads.lean ====
section
/-! SUPPORT. What a reading step that meets no error can change before it reads (R380, R383): what goes to the host die and comes back, and where the host
link is lost the errors that are counted; and that a read of module memory changes nothing. -/
namespace Sys2Proof.Machine

/-! One proof after another, so that the check's memory is not shared among many threads. -/
set_option Elab.async false

/-- The state behind an account of host-window reads. -/
def State.hostRead (s : State) (x : KV Ctx) (h : HostIf) (n : Notif) (e : EvQueue) (t : KV Nat) (o : KV Nat) : State :=
  { s with ctxs := x, hi := h, nt := n, evq := e, tel := t, telOvf := o }

/-- `t` is `s` but for an account of host-window reads. -/
def State.ReadOnly (s t : State) : Prop := ∃ x h n e k o, t = s.hostRead x h n e k o

theorem State.ReadOnly.refl (s : State) : s.ReadOnly s := ⟨s.ctxs, s.hi, s.nt, s.evq, s.tel, s.telOvf, rfl⟩

theorem State.ReadOnly.trans {s t u : State} (a : s.ReadOnly t) (b : t.ReadOnly u) : s.ReadOnly u := by
  obtain ⟨_, _, _, _, _, _, rfl⟩ := a
  obtain ⟨x, h, n, e, k, o, rfl⟩ := b
  exact ⟨x, h, n, e, k, o, rfl⟩

theorem State.ReadOnly.fold {α : Type} (f : State → α → State) (h : ∀ (t : State) (a : α), t.ReadOnly (f t a)) (l : List α) (s : State) :
    s.ReadOnly (l.foldl f s) := by
  induction l generalizing s with
  | nil => exact .refl s
  | cons a l ih => exact (h s a).trans (ih _)

/-- Memory, poison and every agent behind such an account are as before. -/
theorem State.ReadOnly.mem {s t : State} (h : s.ReadOnly t) :
    t.mem = s.mem ∧ t.poison = s.poison ∧ t.rebuild = s.rebuild ∧ t.rowDue = s.rowDue ∧ t.ports = s.ports ∧ t.sos = s.sos ∧ t.vec = s.vec ∧ t.tiles = s.tiles ∧
      t.eddy = s.eddy ∧ t.trade = s.trade ∧ t.expx = s.expx ∧ t.stageQ = s.stageQ ∧ t.refCount = s.refCount := by
  obtain ⟨x, h, n, e, k, o, rfl⟩ := h
  exact ⟨rfl, rfl, rfl, rfl, rfl, rfl, rfl, rfl, rfl, rfl, rfl, rfl, rfl⟩

theorem State.unrecovered_read (s : State) (c : Nat) : s.ReadOnly (s.unrecovered c) := by
  obtain ⟨x, e⟩ := s.ctxDo_only c fun x => { x with mark := { x.mark with envir := true } }
  exact ⟨x, s.hi, s.nt, s.evq, s.tel, s.telOvf, e⟩

theorem State.hostReadFail_read (s : State) (k : Nat) : s.ReadOnly (s.hostReadFail k) := by
  have d : s.ReadOnly (s.detect 0x0141 1) := by
    obtain ⟨t, o, e⟩ := s.telAdd_only 0x0141 7 1
    exact ⟨s.ctxs, s.hi, s.nt, s.evq, t, o, e⟩
  obtain ⟨_, _, _, _, n, e, f⟩ := (s.detect 0x0141 1).post_only 0x0202 noCtx (leBytes 8 (64 * k) ++ leBytes 1 3)
  exact d.trans ⟨_, _, n, e, _, _, f⟩

theorem State.hostRead1_read (s : State) (a n tries : Nat) : s.ReadOnly (s.hostRead1 a n tries) := by
  unfold State.hostRead1
  split
  · exact .refl s
  · exact ⟨s.ctxs, _, s.nt, s.evq, s.tel, s.telOvf, rfl⟩

theorem State.hostAsk_read (s : State) (l : List (Nat × Nat)) : s.ReadOnly (s.hostAsk l) :=
  .fold _ (fun t q => by
    split
    · exact .refl t
    · exact t.hostRead1_read ..) l s

/-- What taking or asking for host-window spans can change. -/
theorem State.hostSpans_read (s : State) (c : Nat) (ps : List (Nat × Nat)) : s.ReadOnly (s.hostSpans c ps) := by
  unfold State.hostSpans
  dsimp only
  split
  · exact .refl s
  · split
    · exact (s.unrecovered_read c).trans (.fold _ (fun t p => .fold _ (fun t k => t.hostReadFail_read k) _ t) _ _)
    · split
      · exact ⟨s.ctxs, _, s.nt, s.evq, s.tel, s.telOvf, rfl⟩
      · obtain ⟨x, h, n, e, k, o, f⟩ := s.hostAsk_read ((ps.filter fun p => s.region p.1 == .host).flatMap fun p => s.hostParts (p.1 - hostBase) p.2)
        rw [f]
        exact ⟨x, _, n, e, k, o, rfl⟩

/-- Spans that begin outside the host window ask nothing of the host. -/
theorem State.hostSpans_inside (s : State) (c : Nat) (ps : List (Nat × Nat)) (h : ps.all (fun p => s.region p.1 != .host) = true) : s.hostSpans c ps = s := by
  unfold State.hostSpans
  dsimp only
  have e : ps.filter (fun p => s.region p.1 == .host) = [] := by
    rw [List.filter_eq_nil_iff]
    intro p hp
    simpa using List.all_eq_true.mp h p hp
  rw [e]
  rfl

/-- A read without errors takes or asks for its host-window spans alone. -/
@[simp] theorem State.recover_nil (s : State) (c : Nat) (ps : List (Nat × Nat)) : s.recover c ps [] = s.hostSpans c ps := rfl
@[simp] theorem State.recoverRanges_nil (s : State) (c : Nat) (l : List (Nat × Nat)) : s.recoverRanges c l [] = s.hostSpans c (s.physSpans c l) := rfl
@[simp] theorem State.recoverPartial_nil (s : State) (c : Nat) (ps : List (Nat × Nat)) : s.recoverPartial c ps [] = s := rfl

theorem State.recoverRanges_inside (s : State) (c : Nat) (l : List (Nat × Nat)) (h : (s.physSpans c l).all (fun p => s.region p.1 != .host) = true) :
    s.recoverRanges c l [] = s := s.hostSpans_inside c _ h

/-- An operation that may begin and whose first reads lie in module memory begins where it stands. -/
theorem State.opRecover_inside (s : State) (c i : Nat) (f : PlanOp → Bool) {x : Ctx} {p : Plan} {r : Run} {o : PlanOp} {q : OpRun}
    (e : s.opOf c i = some (x, p, r, o, q)) (h : (s.physSpans c (opHeads p o)).all (fun p => s.region p.1 != .host) = true) : s.opRecover c i f [] = s := by
  unfold State.opRecover
  rw [e]
  dsimp only
  split
  · rfl
  · exact s.hostSpans_inside c _ h

/-- The beginning of an operation without errors reads the host window alone. -/
theorem State.opRecover_read (s : State) (c i : Nat) (f : PlanOp → Bool) : s.ReadOnly (s.opRecover c i f []) := by
  unfold State.opRecover
  split
  · exact .refl s
  · split
    · exact .refl s
    · exact s.hostSpans_read c _

end Sys2Proof.Machine
end

