-- ==== Sys2Proof/WellFormed.lean ====
section
/-! DEFINITION. Which commands can be written at all: every operand fits the width the spec gives its field (15 R359, R361 and the
field tables of the chapters). What a command's fields MEAN, and which in-width values a chapter refuses, is the machine's. -/
namespace Sys2Proof

/-- A value fits a field of `w` bits. -/
def fits (n w : Nat) : Bool := decide (n < 2 ^ w)

/-- Every member of a list fits `w` bits. -/
def fitsAll (l : List Nat) (w : Nat) : Bool := l.all (fun n => fits n w)

/-- At most eight tries of a message at each receiver (R414). -/
def MsgTries.wellFormed (m : MsgTries) : Bool := decide (m.die ≤ 8 ∧ m.hub ≤ 8 ∧ m.cp ≤ 8)

/-- The packet header (R354): 10-bit queue, 32-bit sequence number, PK_REPLY of one byte. -/
def PktHead.wellFormed (h : PktHead) : Bool := fits h.queue 10 && fits h.seq 32 && fits h.reply 8 && h.msg.wellFormed

/-- R333. -/
def CtxFields.wellFormed (f : CtxFields) : Bool :=
  fits f.id 10 && fits f.cls 2 && fits f.part 2 && fits f.domain 16 && fits f.cqBase 64 && fits f.cqSlots 17 &&
    fits f.rqBase 64 && fits f.rqSlots 17 && fits f.boostUs 16

/-- R178. -/
def MapFields.wellFormed (f : MapFields) : Bool := fits f.ctx 10 && fits f.va 48 && fits f.pa 48 && fits f.pages 20

/-- A sector's number and syndrome (07_memory_tiers R184): sectors of the 48-bit space, a 16-bit syndrome. -/
def SectorErr.wellFormed (e : SectorErr) : Bool := fits e.sector 42 && fits e.syndrome 16

/-- Every error that a step meets. -/
def errsOk (l : List SectorErr) : Bool := l.all SectorErr.wellFormed

/-- R359, KV_RING_CREATE. -/
def KvRingFields.wellFormed (f : KvRingFields) : Bool :=
  fits f.ctx 10 && fits f.header 48 && fits f.w 21 && fits f.d 9 && fits f.heads 9 && fits f.owner 10 && fits f.base 48 &&
    fits f.next 32 && errsOk f.errs

/-- R310. -/
def SoFields.wellFormed (f : SoFields) : Bool :=
  fits f.id 16 && fits f.type 3 && fits f.domain 16 && fits f.init 64 && fits f.param 64

/-- R149: four ports each way, one member ID for each member. -/
def EddyFields.wellFormed (f : EddyFields) : Bool :=
  fits f.tag 32 && fits f.ctx 10 && fits f.size 9 && fits f.rank 8 && f.members.length == f.size && fitsAll f.members 16 &&
    fits f.ports 3 && f.portOut.length == 4 && fitsAll f.portOut 4 && f.portIn.length == 4 && fitsAll f.portIn 4 &&
    fits f.layout 2 && fits f.slice 22 && fits f.pos0 32 && fits f.slots 3 && fits f.landBase 64 && fits f.slotBytes 40 &&
    fits f.formTimeout 16 && fits f.stallLimit 16

/-- R225. -/
def ExpxFields.wellFormed (f : ExpxFields) : Bool :=
  fits f.tag 32 && fits f.ctx 10 && fits f.size 9 && fits f.rank 8 && f.members.length == f.size && fitsAll f.members 16 &&
    fits f.ports 3 && f.portOut.length == 4 && fitsAll f.portOut 4 && f.portIn.length == 4 && fitsAll f.portIn 4 &&
    fits f.pos0 32 && fits f.formTimeout 16 && fits f.stallLimit 16

/-- R232. -/
def TradeFields.wellFormed (f : TradeFields) : Bool :=
  fits f.tag 32 && fits f.ctx 10 && fits f.size 9 && fits f.rank 8 && f.members.length == f.size && fitsAll f.members 16 &&
    fits f.ports 3 && f.portOut.length == 4 && fitsAll f.portOut 4 && f.portIn.length == 4 && fitsAll f.portIn 4 &&
    fits f.node 4 && fits f.gports 3 && f.gportOut.length == 4 && fitsAll f.gportOut 4 && f.gportIn.length == 4 &&
    fitsAll f.gportIn 4 && f.mesh.length == 8 && fitsAll f.mesh 4 && fits f.landBase 64 && fits f.landTrains 17 &&
    fits f.formTimeout 16 && fits f.stallLimit 16

/-- R287. -/
def StageFields.wellFormed (f : StageFields) : Bool :=
  fits f.tag 32 && fits f.ctx 10 && fits f.peer 16 && fits f.peerCtx 10 && fits f.ports 3 && f.port.length == 4 &&
    fitsAll f.port 4 && fits f.slots 8 && fits f.itemBytes 32 && fits f.base 64 && fits f.formTimeout 16 && fits f.stallLimit 16

/-- R395, R403: an attempt that passes brings the receive buffers of the six channels from the identity exchange. -/
def TrainOutcome.wellFormed (o : TrainOutcome) : Bool :=
  fits o.peerId 16 && fits o.peerPort 4 && (!o.pass || o.buffers == [64, 64, 640, 640, 320, 320])

/-- R397: the fields of a flit and its payload of FL_LEN x 8 bytes (a FL_LEN of 31 can be sent, and breaks the protocol: R400). -/
def Flit.wellFormed (f : Flit) : Bool :=
  fits f.seq 12 && fits f.kind 4 && fits f.ack 12 && fits f.vc 3 && fits f.len 8 && fits f.crVc 3 && fits f.crCount 10 &&
    fits f.bind 32 && decide (f.payload.length ≤ 240) && (match f.raw with | none => true | some l => l.length == 256)

/-- R95: at most four streams. -/
def VLoc.wellFormed (l : VLoc) : Bool := fits l.ctx 10 && fits l.stream 2

/-- R95. -/
def VWord.wellFormed (w : VWord) : Bool :=
  fits w.stream 2 && fits w.d 5 && fits w.a 5 && fits w.b 5 && fits w.c 5 && fits w.p 3 && fits w.fmt 3 && fits w.imm 25

/-- R113. -/
def StepWord.wellFormed (w : StepWord) : Bool := fits w.d 3 && fits w.a 3 && fits w.b 3 && fits w.c 3 && fits w.imm 16

/-- R150. -/
def FormMsg.wellFormed (m : FormMsg) : Bool :=
  fits m.ctx 10 && fits m.port 4 && fits m.tag 32 && fits m.size 9 && fits m.rank 8

/-- R234. -/
def OpenMsg.wellFormed (m : OpenMsg) : Bool :=
  fits m.ctx 10 && fits m.port 4 && fits m.tag 32 && fits m.number 64 && fits m.step 64

/-- R226: ranks below 64. -/
def ExpxMsg.wellFormed (m : ExpxMsg) : Bool := fits m.ctx 10 && fits m.tag 32 && fits m.op 20 && fits m.src 6 && fits m.dst 6 && errsOk m.errs

/-- The well-formed commands. -/
def WellFormed (i : Instr) : Bool :=
  match i with
  | .ctxCreate h f => h.wellFormed && f.wellFormed
  | .ctxDestroy h id => h.wellFormed && fits id 10
  | .ctxQuery h id => h.wellFormed && fits id 10
  | .ctxSet h id cls _ boostUs mask => h.wellFormed && fits id 10 && fits cls 2 && fits boostUs 16 && fits mask 3
  | .ctxSuspend h id => h.wellFormed && fits id 10
  | .ctxResume h id => h.wellFormed && fits id 10
  | .kcgSet h id _ => h.wellFormed && fits id 10
  | .memMap h f => h.wellFormed && f.wellFormed
  | .memUnmap h ctx va pages _ => h.wellFormed && fits ctx 10 && fits va 48 && fits pages 20
  | .memTranslate h ctx va => h.wellFormed && fits ctx 10 && fits va 48
  | .memCopy h ctx src dst bytes errs => h.wellFormed && fits ctx 10 && fits src 48 && fits dst 48 && fits bytes 40 && errsOk errs
  | .memFill h ctx dst bytes _ => h.wellFormed && fits ctx 10 && fits dst 48 && fits bytes 40
  | .tierQuery h ctx token => h.wellFormed && fits ctx 10 && fits token 16
  | .kvRingCreate h f => h.wellFormed && f.wellFormed
  | .cfgSet h key value => h.wellFormed && fits key 8 && fits value 32
  | .cfgGet h key => h.wellFormed && fits key 8
  | .planAdmit h addr bytes errs => h.wellFormed && fits addr 48 && fits bytes 32 && errsOk errs
  | .monoCheckComplete ctx => fits ctx 10
  | .planRelease h => h.wellFormed
  | .planRun h step status => h.wellFormed && fits step 64 && fits status 48
  | .planQuery h => h.wellFormed
  | .soCreate h f => h.wellFormed && f.wellFormed
  | .soDestroy h id => h.wellFormed && fits id 16
  | .soRead h id => h.wellFormed && fits id 16
  | .soSignal h id op n => h.wellFormed && fits id 16 && fits op 4 && fits n 64
  | .soReset h id value => h.wellFormed && fits id 16 && fits value 64
  | .tradeRingCreate h f => h.wellFormed && f.wellFormed
  | .tradeRingDestroy h tag ctx => h.wellFormed && fits tag 32 && fits ctx 10
  | .tradeRingQuery h tag ctx => h.wellFormed && fits tag 32 && fits ctx 10
  | .tradeStateRead h ctx first count => h.wellFormed && fits ctx 10 && fits first 6 && fits count 3
  | .tradeStateWrite h ctx first count _ => h.wellFormed && fits ctx 10 && fits first 6 && fits count 6
  | .eddyGroupCreate h f => h.wellFormed && f.wellFormed
  | .eddyGroupDestroy h tag ctx => h.wellFormed && fits tag 32 && fits ctx 10
  | .eddyGroupQuery h tag ctx => h.wellFormed && fits tag 32 && fits ctx 10
  | .expxGroupCreate h f => h.wellFormed && f.wellFormed
  | .expxGroupDestroy h tag ctx => h.wellFormed && fits tag 32 && fits ctx 10
  | .expxGroupQuery h tag ctx => h.wellFormed && fits tag 32 && fits ctx 10
  | .stageQueueCreate h f => h.wellFormed && f.wellFormed
  | .stageQueueDestroy h tag ctx => h.wellFormed && fits tag 32 && fits ctx 10
  | .stageQueueQuery h tag ctx => h.wellFormed && fits tag 32 && fits ctx 10
  | .mcRegister h model bytes home => h.wellFormed && fits model 16 && fits bytes 40 && fits home 48
  | .mcUnregister h model => h.wellFormed && fits model 16
  | .mcLoad h model => h.wellFormed && fits model 16
  | .mcPin h model => h.wellFormed && fits model 16
  | .mcUnpin h model => h.wellFormed && fits model 16
  | .mcEvict h model => h.wellFormed && fits model 16
  | .mcQuery h model first => h.wellFormed && fits model 16 && fits first 9
  | .mcWriteback h model => h.wellFormed && fits model 16
  | .modelWritebackComplete model w => fits model 16 && errsOk w.errs
  | .telRead h unit first count => h.wellFormed && fits unit 16 && fits first 16 && fits count 6
  | .lullRead h ctx first count => h.wellFormed && fits ctx 10 && fits first 8 && fits count 3
  | .fwStageWrite h offset _ => h.wellFormed && fits offset 28
  | .fwStageCommit h => h.wellFormed
  | .fwActivate h mode tag step => h.wellFormed && fits mode 1 && fits tag 32 && fits step 64
  | .fwQuery h => h.wellFormed
  | .attestQuote h _ dest => h.wellFormed && fits dest 48
  | .identRead h dest => h.wellFormed && fits dest 48
  | .resetOrdered h => h.wellFormed
  | .pwrCapSet h cap => h.wellFormed && fits cap 11
  | .pwrQuery h => h.wellFormed
  | .doorbellWrite ctx => fits ctx 10
  | .packetAccept ctx errs => fits ctx 10 && errsOk errs
  | .rqHeadWrite ctx _ => fits ctx 10
  | .hiRetrainWrite _ => true
  | .hiWinWrite _ _ => true
  | .mqEnableWrite _ => true
  | .ntEnableWrite _ => true
  | .ntAckWrite _ => true
  | .lostCounterRead _ tag => fits tag 12
  | .vlModuleIdWrite _ => true
  | .vlEnableWrite _ => true
  | .vpRetrainWrite port _ => fits port 4
  | .registerWrite offset _ => fits offset 32
  | .recEraseStaging => true
  | .recWrite => true
  | .recCommit => true
  | .recInstall => true
  | .recBootActive => true
  | .recRestart => true
  | .hostWriteTransaction addr _ errs => fits addr 48 && errsOk errs
  | .hostReadRequest addr len tag errs => fits addr 48 && fits len 5 && fits tag 12 && errsOk errs
  | .hostReadCompletion tag status _ => fits tag 12 && fits status 4
  | .sidebandAccess _ addr _ _ => fits addr 48
  | .ucieTrainAttempt => true
  | .ucieFlitReplay _ => true
  | .ucieLinkFault => true
  | .ucieTrainAttemptEnd _ => true
  | .vauriTrainAttempt port => fits port 4
  | .vauriTrainAttemptEnd port o => fits port 4 && o.wellFormed
  | .vauriUnitSend port vc => fits port 4 && fits vc 3
  | .vauriIdleSend port => fits port 4
  | .flitDataReceive port f => fits port 4 && f.wellFormed
  | .flitSignalReceive port f => fits port 4 && f.wellFormed
  | .flitLandAckReceive port f _ => fits port 4 && f.wellFormed
  | .flitIdleReceive port f => fits port 4 && f.wellFormed
  | .vauriReplayTimeout port => fits port 4
  | .vauriLockLost port lane => fits port 4 && fits lane 4
  | .vauriBerCheck port => fits port 4
  | .linkCreditReserve port vc => fits port 4 && fits vc 3
  | .soRsignal ctx op => fits ctx 10 && fits op 20
  | .rsignalDepart ctx op => fits ctx 10 && fits op 20
  | .syncSignal ctx op => fits ctx 10 && fits op 20
  | .syncWait ctx op => fits ctx 10 && fits op 20
  | .syncTrywait ctx op => fits ctx 10 && fits op.op 20 && errsOk op.errs
  | .syncRaise ctx op => fits ctx 10 && fits op 20
  | .syncWaitge ctx op => fits ctx 10 && fits op 20
  | .syncArrive ctx op => fits ctx 10 && fits op 20
  | .syncArrivewait ctx op => fits ctx 10 && fits op 20
  | .syncAcquire ctx op => fits ctx 10 && fits op 20
  | .syncTryacquire ctx op => fits ctx 10 && fits op.op 20 && errsOk op.errs
  | .syncRelease ctx op => fits ctx 10 && fits op 20
  | .syncFadd ctx op => fits ctx 10 && fits op.op 20 && errsOk op.errs
  | .syncTake ctx op => fits ctx 10 && fits op 20
  | .syncReturn ctx op => fits ctx 10 && fits op 20
  | .syncRead ctx op => fits ctx 10 && fits op.op 20 && errsOk op.errs
  | .waiterWake so ctx => fits so 16 && fits ctx 10
  | .soWaitTimeout so ctx => fits so 16 && fits ctx 10
  | .soParityError so => fits so 16
  | .matmul ctx op errs => fits ctx 10 && fits op 20 && errsOk errs
  | .claimReply ctx pos op => fits ctx 10 && fits pos 8 && fits op 20
  | .tileChunkLoad ctx pos errs => fits ctx 10 && fits pos 8 && errsOk errs
  | .tileGroupComplete ctx pos _ => fits ctx 10 && fits pos 8
  | .commitReply ctx pos g => fits ctx 10 && fits pos 8 && errsOk g.errs
  | .vector ctx op => fits ctx 10 && fits op 20
  | .vadd l w => l.wellFormed && w.wellFormed
  | .vsub l w => l.wellFormed && w.wellFormed
  | .vmul l w => l.wellFormed && w.wellFormed
  | .vfma l w => l.wellFormed && w.wellFormed
  | .vmin l w => l.wellFormed && w.wellFormed
  | .vmax l w => l.wellFormed && w.wellFormed
  | .vabs l w => l.wellFormed && w.wellFormed
  | .vneg l w => l.wellFormed && w.wellFormed
  | .vcmp l w => l.wellFormed && w.wellFormed
  | .vsel l w => l.wellFormed && w.wellFormed
  | .vpand l w => l.wellFormed && w.wellFormed
  | .vpor l w => l.wellFormed && w.wellFormed
  | .vcvt l w => l.wellFormed && w.wellFormed
  | .vtwosum l w => l.wellFormed && w.wellFormed
  | .vtwoprod l w => l.wellFormed && w.wellFormed
  | .vld l w errs => l.wellFormed && w.wellFormed && errsOk errs
  | .vst l w errs => l.wellFormed && w.wellFormed && errsOk errs
  | .vlda l w => l.wellFormed && w.wellFormed
  | .vred l w => l.wellFormed && w.wellFormed
  | .vsort l w => l.wellFormed && w.wellFormed
  | .vmerge l w => l.wellFormed && w.wellFormed
  | .vtopk l w => l.wellFormed && w.wellFormed
  | .vsfu l w => l.wellFormed && w.wellFormed
  | .vkcg l w => l.wellFormed && w.wellFormed
  | .vvar l w => l.wellFormed && w.wellFormed
  | .sfuGrant core _ => fits core 8
  | .sfuResult core => fits core 8
  | .msSplite core w => fits core 8 && w.wellFormed
  | .msSpliti core w => fits core 8 && w.wellFormed
  | .msSeg core w => fits core 8 && w.wellFormed
  | .msHorner core w => fits core 8 && w.wellFormed
  | .msFadd core w => fits core 8 && w.wellFormed
  | .msFmul core w => fits core 8 && w.wellFormed
  | .msFfma core w => fits core 8 && w.wellFormed
  | .msScale core w => fits core 8 && w.wellFormed
  | .msCmp core w => fits core 8 && w.wellFormed
  | .msSel core w => fits core 8 && w.wellFormed
  | .msSkip core w => fits core 8 && w.wellFormed
  | .msClamp core w => fits core 8 && w.wellFormed
  | .msSeamclamp core w => fits core 8 && w.wellFormed
  | .msCall core w => fits core 8 && w.wellFormed
  | .msOut core w => fits core 8 && w.wellFormed
  | .attentionForward ctx op errs => fits ctx 10 && fits op 20 && errsOk errs
  | .attentionBackward ctx op errs => fits ctx 10 && fits op 20 && errsOk errs
  | .attentionVerify ctx op errs => fits ctx 10 && fits op 20 && errsOk errs
  | .attentionAppend ctx op errs => fits ctx 10 && fits op 20 && errsOk errs
  | .attentionCommit ctx op errs => fits ctx 10 && fits op 20 && errsOk errs
  | .attendBlock ctx pos _ errs => fits ctx 10 && fits pos 8 && errsOk errs
  | .backwardStep ctx pos _ errs => fits ctx 10 && fits pos 8 && errsOk errs
  | .backwardCombine ctx o => fits ctx 10 && fits o.op 20 && errsOk o.errs
  | .formMessage m => m.wellFormed
  | .sealMessage _ ctx tag => fits ctx 10 && fits tag 32
  | .sealedMessage _ ctx tag => fits ctx 10 && fits tag 32
  | .formTimeout _ ctx tag => fits ctx 10 && fits tag 32
  | .eddyBlockLand ctx port _ l => fits ctx 10 && fits port 4 && errsOk l.errs
  | .eddyBlockForward ctx errs => fits ctx 10 && errsOk errs
  | .eddyCreditGrant ctx => fits ctx 10
  | .eddyCreditReceive ctx tag => fits ctx 10 && fits tag 32
  | .eddyResendRequest ctx _ _ _ d => fits ctx 10 && fits d.dest 16 && fits d.circ 32 && errsOk d.errs
  | .eddyStallTimeout ctx => fits ctx 10
  | .openMessage m => m.wellFormed
  | .amaxExchangeMessage ctx _ _ => fits ctx 10
  | .trainLand ctx port _ errs => fits ctx 10 && fits port 4 && errsOk errs
  | .trainSend ctx errs => fits ctx 10 && errsOk errs
  | .tradeLandingCredit ctx count => fits ctx 10 && fits count 17
  | .trainRerequest ctx port bucket train => fits ctx 10 && fits port 4 && fits bucket 24 && fits train 16
  | .bucketVerdictMessage ctx bucket _ _ peak => fits ctx 10 && fits bucket 24 && fits peak 8
  | .verdictRecordMessage ctx _ => fits ctx 10
  | .finalVerdictRecord ctx _ => fits ctx 10
  | .gatherTrainLand ctx port _ _ => fits ctx 10 && fits port 4
  | .tradeStallTimeout ctx => fits ctx 10
  | .tradeReduce ctx op errs => fits ctx 10 && fits op 20 && errsOk errs
  | .tradeGather ctx op errs => fits ctx 10 && fits op 20 && errsOk errs
  | .optUpdate ctx op errs => fits ctx 10 && fits op 20 && errsOk errs
  | .updateUnit ctx op pos _ errs => fits ctx 10 && fits op 20 && fits pos 8 && errsOk errs
  | .refreshUnit ctx op pos _ errs => fits ctx 10 && fits op 20 && fits pos 8 && errsOk errs
  | .expertRoute ctx op errs => fits ctx 10 && fits op 20 && errsOk errs
  | .routeChunkCount ctx op chunk _ errs => fits ctx 10 && fits op 20 && fits chunk 10 && errsOk errs
  | .expertScatter ctx op errs => fits ctx 10 && fits op 20 && errsOk errs
  | .expertCombine ctx op errs => fits ctx 10 && fits op 20 && errsOk errs
  | .expxCountLand m step counts _ => m.wellFormed && fits step 64 && fitsAll counts 32
  | .expxRowGrant m => m.wellFormed
  | .expxRowLand m expert ordinal ret _ _ _ => m.wellFormed && fits expert 11 && fits ordinal 32 && fits ret 32
  | .expxReturnLand m ret _ _ _ => m.wellFormed && fits ret 32
  | .expxRowResendRequest m expert ordinal ret => m.wellFormed && fits expert 11 && fits ordinal 32 && fits ret 32
  | .omtPack ctx op errs => fits ctx 10 && fits op 20 && errsOk errs
  | .omtUnpack ctx op errs => fits ctx 10 && fits op 20 && errsOk errs
  | .transfer ctx o => fits ctx 10 && fits o.op 20 && errsOk o.errs
  | .transferStart ctx _ => fits ctx 10
  | .transferSegmentComplete ctx _ errs => fits ctx 10 && errsOk errs
  | .stqPut ctx op errs => fits ctx 10 && fits op 20 && errsOk errs
  | .stqGet ctx op => fits ctx 10 && fits op.op 20 && errsOk op.errs
  | .stqRelease ctx op => fits ctx 10 && fits op 20
  | .stageItemLand ctx tag step index segment _ _ _ => fits ctx 10 && fits tag 32 && fits step 64 && fits index 64 && fits segment 16
  | .stageCreditReturn ctx tag => fits ctx 10 && fits tag 32
  | .stageStallTimeout ctx tag => fits ctx 10 && fits tag 32
  | .stepMark ctx op errs => fits ctx 10 && fits op 20 && errsOk errs
  | .lullSnap ctx op => fits ctx 10 && fits op.op 20 && errsOk op.errs
  | .traceMark ctx op => fits ctx 10 && fits op 20
  | .tensorRebuild ctx tensor _ => fits ctx 10 && fits tensor 20
  | .quantumExpire ctx => fits ctx 10
  | .saveOrder ctx pos tries => fits ctx 10 && fits pos 8 && tries.wellFormed
  | .saveDrainComplete ctx pos => fits ctx 10 && fits pos 8
  | .saveComplete ctx pos => fits ctx 10 && fits pos 8
  | .restoreOrder ctx pos => fits ctx 10 && fits pos.pos 8 && pos.tries.wellFormed
  | .restoreComplete ctx pos errs => fits ctx 10 && fits pos 8 && errsOk errs
  | .boostBudgetExpire so => fits so 16
  | .telemetryMirrorRefresh => true
  | .i2cMirrorRead addr offset _ _ => fits addr 7 && fits offset 16
  | .i2cRecoveryAccess addr offset _ _ _ => fits addr 7 && fits offset 16
  | .governorTick _ _ => true
  | .thermalSample _ => true
  | .thermalStepUp _ unit => fits unit 16
  | .inputVoltageEvent mv => fits mv 32
  | .inputShutdown _ mv => fits mv 32
  | .auxPowerUp straps => fits straps 3
  | .busbarPowerUp => true
  | .resetRelease _ => true
  | .resetNLow => true
  | .calmPoint => true
  | .fwBackgroundCopyComplete => true
  | .flashStoreComplete _ => true

end Sys2Proof
end

