-- ==== Sys2Proof/Tests/Slice0.lean ====
section
/-! SUPPORT. Tests: ill-formed commands, and for each statement with hypotheses concrete states and operands that meet them all, clause by
clause. The states are small variations of one running module with one context. -/
namespace Sys2Proof.Tests
open Sys2Proof Sys2Proof.Machine

/-! The evaluations below wait for the kernel, each on a thread of its own: one after another they stay within the check's memory. -/
set_option Elab.async false

/-! ## Small states -/

/-- A packet of context 1 with eight reply slots. -/
def hd : PktHead := { queue := 1, seq := 1, reply := 8, fence := false, notify := false, tag := 7 }

/-- One position, resident on core 0. -/
def res0 : Position :=
  { (default : Position) with place := .resident 0 0 0, home := 0, area := 352 * gib, lulls := List.replicate 12 0, rems := List.replicate 12 0 }

/-- One writable 1 GiB page at virtual 1 GiB, physical 9 GiB. -/
def page : Mapping := { va := gib, pa := 9 * gib, big := true, write := true, hot := false, loc := false }

/-- The virtual address of byte `k` of that page. -/
def va (k : Nat) : Nat := gib + k

/-- Context 1: whole partitions, domain 1, the page, one resident position. -/
def cx : Ctx :=
  { Ctx.new { id := 1, cls := 1, part := 0, domain := 1, cqBase := 0, cqSlots := 0, rqBase := 0, rqSlots := 0, pad := 0, boostUs := 0 } 0 with
    maps := [page], positions := [res0] }

/-- A running module, link up, 16 GiB of host window, context 1 with its queues. -/
def w0 : State :=
  { State.reset with
    hi := { HostIf.reset with bootStage := 4, linkUp := true, winSize := 16 }
    queues := [(1, QueueRec.start (cqWindow + 0x1_0000) 64 (8 * gib) 64)]
    ctxs := [(1, cx)] }

/-- Context 1 changed. -/
def ctx1 (s : State) (x : Ctx) : State := { s with ctxs := [(1, x)] }

/-- The operation behind the one of interest. -/
def mark : PlanOp := .traceMark 1 0

/-- A plan of operations over tensors. -/
def plan (ops : List PlanOp) (ts : KV TDesc) : Plan :=
  { cls := 1, ops := ops, tensors := ts, mps := [], models := [], tokens := [], cores := 1, dies := 1, exact := false, dieRank := [0], digest := 5 }

/-- A run of operations at step 3, its status area in the page. -/
def run (l : List OpRun) : Run :=
  { stop := none, head := hd, since := 0, step := 3, area := va 0x1000, seed := 0, pad := 0, ops := l }

/-- Context 1 in a run. -/
def busy (ops : List PlanOp) (ts : KV TDesc) (l : List OpRun) : Ctx := { cx with plan := some (plan ops ts), run := some (run l) }

/-- A state whose context 1 is about to begin an operation, with another one behind it. -/
def due (s : State) (o : PlanOp) (ts : KV TDesc) : State := { s with ctxs := [(1, busy [o, mark] ts [OpRun.new, OpRun.new])] }

/-- A state whose context 1 is about to begin its second operation, the first one still to end. -/
def dueLate (s : State) (o : PlanOp) (ts : KV TDesc) : State := { s with ctxs := [(1, busy [mark, o] ts [OpRun.new, OpRun.new])] }

/-- A state whose context 1 has begun an operation with some progress. -/
def begun (s : State) (o : PlanOp) (ts : KV TDesc) (g : Prog) : State :=
  { s with ctxs := [(1, busy [o, mark] ts [{ OpRun.new with st := .begun, prog := g }, OpRun.new])] }

/-- A context whose one page holds its status area can take its operations' records. -/
theorem record_open {s : State} {x : Ctx} {l : List OpRun} {i : Nat} (h : kvGet 1 s.ctxs = some x) (m : x.maps = [page]) (hi : i = 0 ∨ i = 1) :
    RecordOpen s 1 i (run l) := by
  have v : ∀ k ∈ [0, 1], vspans [page] true (va 0x1000 + 128 * k) 128 = .ok [(9 * gib + 0x1000 + 128 * k, 128)] := by decide +kernel
  intro f e
  rw [State.reach, h] at e
  have w : vspans x.maps true ((run l).area + 128 * i) 128 = .ok [(9 * gib + 0x1000 + 128 * i, 128)] := by
    rw [m]
    exact v i (by simpa using hi)
  have n : windowStop x (9 * gib + 0x1000 + 128 * i) 128 = none := if_pos (.inl (by unfold gib coreBase; omega))
  simp only [Ctx.reach, w, windowMap, windowSpan, n] at e
  cases e

/-- A due operation is due where it may issue. -/
theorem due_due (s : State) (o : PlanOp) (ts : KV TDesc) (h : (due s o ts).mayIssue 1 0 = true) :
    OpDue (due s o ts) 1 0 (plan [o, mark] ts) (run [OpRun.new, OpRun.new]) o :=
  ⟨_, _, rfl, h, rfl, rfl, rfl, ⟨1, OpRun.new, by decide, rfl, by decide⟩, record_open rfl rfl (.inl rfl)⟩

theorem dueLate_due (s : State) (o : PlanOp) (ts : KV TDesc) (h : (dueLate s o ts).mayIssue 1 1 = true) :
    OpDue (dueLate s o ts) 1 1 (plan [mark, o] ts) (run [OpRun.new, OpRun.new]) o :=
  ⟨_, _, rfl, h, rfl, rfl, rfl, ⟨0, OpRun.new, by decide, rfl, by decide⟩, record_open rfl rfl (.inr rfl)⟩

/-- Do these spans lie outside the host window? -/
def inside (s : State) (l : List (Nat × Nat)) : Bool := l.all fun p => s.region p.1 != .host

/-- A due operation whose first reads lie in module memory starts where it stands. -/
theorem due_starts (s : State) (o : PlanOp) (ts : KV TDesc) (h : (due s o ts).mayIssue 1 0 = true)
    (k : inside (due s o ts) ((due s o ts).physSpans 1 (opHeads (plan [o, mark] ts) o)) = true) :
    OpStarts (due s o ts) (due s o ts) 1 0 (plan [o, mark] ts) (run [OpRun.new, OpRun.new]) o :=
  ⟨((due s o ts).opRecover_inside 1 0 _ rfl k).symm, due_due s o ts h⟩

theorem dueLate_starts (s : State) (o : PlanOp) (ts : KV TDesc) (h : (dueLate s o ts).mayIssue 1 1 = true)
    (k : inside (dueLate s o ts) ((dueLate s o ts).physSpans 1 (opHeads (plan [mark, o] ts) o)) = true) :
    OpStarts (dueLate s o ts) (dueLate s o ts) 1 1 (plan [mark, o] ts) (run [OpRun.new, OpRun.new]) o :=
  ⟨((dueLate s o ts).opRecover_inside 1 1 _ rfl k).symm, dueLate_due s o ts h⟩

/-- A step that reads module memory, none of it in recovery, goes on where it stands. -/
theorem takes_inside (s : State) (c : Nat) (l : List (Nat × Nat)) (h : inside s (s.physSpans c l) = true) (d : s.rebuildDue (s.physSpans c l) = false) :
    s.Takes c l s := ⟨(s.recoverRanges_inside c l h).symm, d⟩

theorem late_earlier : EarlierOp (run [OpRun.new, OpRun.new]) 1 := ⟨0, OpRun.new, by decide, rfl, by decide⟩

theorem ready8 : Ready w0 hd 8 := ⟨by decide +kernel, by decide⟩
theorem ready2 : Ready w0 hd 2 := ⟨by decide +kernel, by decide⟩
theorem ready1 : Ready w0 hd 1 := ⟨by decide +kernel, by decide⟩

/-- Does a result hold and pass a check? -/
def holds {ε α : Type} (e : Except ε α) (f : α → Bool) : Bool :=
  match e with
  | .ok a => f a
  | .error _ => false

theorem ok_and {ε α : Type} {e : Except ε α} {f : α → Bool} (h : holds e f = true) : ∃ a, e = .ok a ∧ f a = true := by
  cases e with
  | ok a => exact ⟨a, rfl, h⟩
  | error _ => cases h

/-- A result that holds. -/
theorem ok_some {ε α : Type} {e : Except ε α} (h : holds e (fun _ => true) = true) : ∃ a, e = .ok a :=
  (ok_and h).imp fun _ h => h.1

/-- Does an option hold something that passes a check? -/
def has {α : Type} (o : Option α) (f : α → Bool) : Bool :=
  match o with
  | some a => f a
  | none => false

theorem some_and {α : Type} {o : Option α} {f : α → Bool} (h : has o f = true) : ∃ a, o = some a ∧ f a = true := by
  cases o with
  | some a => exact ⟨a, rfl, h⟩
  | none => cases h

/-- A number below a bound is one of a list that a check runs over. -/
theorem below {n : Nat} {f : Nat → Bool} (h : (List.range n).all f = true) : ∀ i, i < n → f i = true := fun i hi =>
  List.all_eq_true.mp h i (List.mem_range.mpr hi)

/-- The state behind a command. -/
def after (c : Instr) (s : State) : State :=
  match exec c s with
  | .next t => t
  | .fault _ => s
  | .refused _ => s

/-! ## The block, its packets and replies -/

theorem witness_IdleStepTicksClockAndLull : w0.pending = [] ∧ (w0.ctxs.map Prod.fst).Nodup ∧
    (∃ q, w0.pos? 1 0 = some q ∧ q.lulls.length = 12 ∧ nth q.lulls 0 + 1 < 2 ^ 64 - 1) ∧
    CtxShows (ctx1 w0 { cx with plan := some (plan [] []) }) 1 fun x => x.plan.isSome = true :=
  ⟨rfl, by decide, ⟨res0, rfl, by decide, by decide⟩, _, rfl, rfl⟩

theorem witness_EveryStepKeepsMemoryCanonical : ∃ s t : State, s.Canonical ∧ step s = .next t ∧ s.mem ≠ [] :=
  ⟨{ w0 with mem := [(5, 1)] }, _, rfl, rfl, by decide⟩

theorem witness_OnlyConnectorOrPowerEndsHalt : ∃ s t : State, s.halted = true ∧ s.hi.bootStage = 4 ∧ exec (.telemetryMirrorRefresh) s = .next t :=
  ⟨{ w0 with halted := true }, _, rfl, rfl, rfl⟩

theorem witness_EveryStepKeepsPagesAligned : ∃ t, w0.PagesAligned ∧ step { w0 with pending := [.ctxQuery hd 1] } = .next t := by
  refine ⟨_, ?_, rfl⟩
  intro e he
  obtain rfl : e = (1, cx) := by simpa [w0] using he
  exact ⟨by decide, fun p h => (by cases h), fun a h => (by cases h)⟩

theorem witness_ReplyLeavesTheRest : w0.Canonical ∧ (∃ q, kvGet hd.queue w0.queues = some q ∧ 0 < q.rqSlots) ∧ kvGet 1 w0.ctxs = some cx :=
  ⟨rfl, ⟨_, rfl, by decide⟩, rfl⟩

theorem witness_ReplyItemStandsInItsRing : ∃ q, kvGet hd.queue w0.queues = some q ∧ w0.halted = false ∧ 1 ≤ 8 ∧ 8 + 1 ≤ q.rqSlots ∧
    q.idle + 8 < q.rqSlots ∧ w0.Canonical ∧ w0.poison = [] ∧ q.rqBase % 64 = 0 ∧
    (∀ a, q.rqBase ≤ a → a < q.rqBase + 64 * q.rqSlots → w0.region a ≠ .host) ∧ [1#8].length ≤ 64 * 8 - 32 := by
  refine ⟨_, rfl, rfl, by decide, by decide, by decide, rfl, rfl, by decide, ?_, by decide⟩
  intro a h1 h2
  have h1 : 8 * gib ≤ a := h1
  have h2 : a < 8 * gib + 64 * 64 := h2
  have e : (w0.interFrames - w0.hotSlots) * gib = 288 * gib := by decide +kernel
  unfold State.region
  rw [e, if_neg (by omega), if_pos (by unfold gib at *; omega)]
  decide

theorem witness_HostCommandsStoreNothingElse : onlyReplies (.memTranslate hd 1 (va 0)) = some hd ∧ w0.Canonical ∧
    (∀ q, kvGet hd.queue w0.queues = some q → 0 < q.rqSlots) ∧ hd.cp = .pass ∧ Heard hd.msg ∧
    onlyReplies (.memTranslate { hd with cp := .memory } 1 (va 0)) = some { hd with cp := .memory } ∧ w0.mayBegin { hd with cp := .memory } = true ∧
    (CpCheck.cause .memory).isSome = true :=
  ⟨rfl, rfl, fun q h => by cases h; decide, rfl, by unfold Heard; decide, rfl, by decide +kernel, rfl⟩

/-- The full ring: one slot free, a packet of eight waits. -/
theorem witness_ReplyRoomIsReserved : (∃ (s : State) (q : QueueRec), kvGet hd.queue s.queues = some q ∧ s.freeSlots hd.queue q < pktRoom hd + 1) ∧
    w0.mayBegin { hd with reply := 0 } = true ∧ ({ hd with reply := 0 } : PktHead).cp = .pass ∧ pktRoom { hd with reply := 0 } < 2 :=
  ⟨⟨{ w0 with queues := [(1, { QueueRec.start (cqWindow + 0x1_0000) 64 (8 * gib) 64 with idle := 62 })] }, _, rfl, by decide +kernel⟩,
    by decide +kernel, rfl, by decide⟩

/-! ## Contexts -/

theorem witness_ContextCreateMakesContext : ∃ f : CtxFields, Ready w0 hd 1 ∧ kvGet f.id w0.ctxs = none ∧ kvGet f.id w0.queues = none ∧ 1 ≤ f.id ∧
    f.id < 1024 ∧ f.domain ≠ 0 ∧ f.part < 3 ∧ w0.cqOk f.cqBase f.cqSlots = true ∧ w0.rqOk f.rqBase f.rqSlots = true ∧ w0.Canonical ∧
    w0.region f.rqBase ≠ .host :=
  ⟨{ id := 1023, cls := 3, part := 2, domain := 1, cqBase := cqWindow + 0x2_0000, cqSlots := 64, rqBase := 10 * gib, rqSlots := 64, pad := 0,
     boostUs := 0 }, ready1, by decide +kernel⟩

theorem witness_ContextSettingsTakeEffect : Ready w0 hd 1 ∧ kvGet 1 w0.ctxs = some cx ∧ cx.suspended = false ∧
    Ready (ctx1 w0 { cx with suspended := true }) hd 1 :=
  ⟨ready1, rfl, rfl, by decide +kernel, by decide⟩

theorem witness_ContextsAreAskedDestroyedOrUnknown : Ready w0 hd 2 ∧ kvGet 1 w0.ctxs = some cx ∧
    (∃ q, kvGet 1 w0.queues = some q ∧ q.cqSlots < 2 ^ 17 ∧ q.cqBase < 2 ^ 64) ∧ cx.cls < 4 ∧ cx.domain < 2 ^ 16 ∧ cx.part < 3 ∧
    w0.named 1 = false ∧ kvGet 2 w0.ctxs = none :=
  ⟨ready2, rfl, ⟨_, rfl, by decide, by decide⟩, by decide +kernel⟩

/-- A position at some place. -/
def at_ (p : Place) : State := ctx1 w0 { cx with positions := [{ res0 with place := p }, { res0 with place := p, area := 353 * gib }] }

theorem witness_SaveRunsThroughItsSteps : (∃ q, (at_ (.saving 0 0 0)).pos? 1 0 = some q ∧ q.place = .saving 0 0 0) ∧
    ((at_ (.saving 0 0 0)).halted = false ∧ Heard { die := 7, hub := 7, cp := 7 }) ∧
    (∃ q x, (at_ (.saving 0 0 1)).pos? 1 1 = some q ∧ q.place = .saving 0 0 1 ∧ kvGet 1 (at_ (.saving 0 0 1)).ctxs = some x ∧
      (at_ (.saving 0 0 1)).Canonical ∧ (at_ (.saving 0 0 1)).drained 0 = true ∧ (at_ (.saving 0 0 1)).wakesDone 1 1 = true ∧
      (at_ (.saving 0 0 1)).nocDir 0 ≠ .inbound) ∧
    ∃ q, (at_ (.saving 0 0 2)).pos? 1 0 = some q ∧ q.place = .saving 0 0 2 :=
  ⟨⟨_, rfl, rfl⟩, ⟨rfl, by unfold Heard; decide⟩, ⟨_, _, rfl, rfl, rfl, rfl, by decide +kernel⟩, _, rfl, rfl⟩

/-- The position whose image the save of `witness_SaveRunsThroughItsSteps` left, ordered back. -/
def restored : State :=
  { ((at_ (.restoring 0 0 true)).posDo 1 0 fun q => { q with image := true, area := 352 * gib }).physWrite (352 * gib + imgArch 0 + 0x3FC0) (leBytes 2 1) with
    ident := { w0.ident with cls := 0 } }

theorem witness_RestoreMakesPositionResident : (∃ q x, (at_ (.restoring 0 0 false)).pos? 1 0 = some q ∧ q.place = .restoring 0 0 false ∧
      kvGet 1 (at_ (.restoring 0 0 false)).ctxs = some x ∧ (at_ (.restoring 0 0 false)).halted = false ∧ (at_ (.restoring 0 0 false)).drained 0 = true ∧
      (at_ (.restoring 0 0 false)).nocDir 0 ≠ .outbound) ∧
    ∃ q, restored.pos? 1 0 = some q ∧ q.place = .restoring 0 0 true ∧ q.saveDue = false ∧ restored.halted = false ∧ restored.firstPoison q.area (imageBytes 0) = none ∧
      restored.headerOk 1 0 0 q = true :=
  ⟨⟨_, _, rfl, rfl, rfl, by decide +kernel⟩, _, rfl, rfl, rfl, by decide +kernel⟩

/-- Context 1 waits for its quantum while context 2 holds every core of die 0, the one its plan names. -/
def crowded : State :=
  let p : Plan := { plan [] [] with exact := true }
  let x1 : Ctx := { cx with cls := 0, plan := some p, run := some (run []), positions := [{ res0 with place := .saved, quantum := some 0 }] }
  let x2 : Ctx := { cx with cls := 0, plan := some p, run := some (run []), positions := (List.range 48).map fun k => { res0 with place := .resident k 0 0 } }
  { w0 with ctxs := [(1, x1), (2, x2)], refCount := 10000000 }

theorem witness_QuantumTakesVictimOfOwnClass : ∃ (x : Ctx) (q : Position) (v : Occ) (core i since : Nat), crowded.running = true ∧
    (crowded.ctxs.map Prod.fst).Nodup ∧ kvGet 1 crowded.ctxs = some x ∧ crowded.ctxState 1 = .runnable ∧ x.positions = [q] ∧ q.place = .saved ∧
    q.quantum = some since ∧ crowded.quantumUs ≠ 0 ∧ since + 1000 * crowded.quantumUs ≤ crowded.refCount ∧ q.boost = none ∧ freePart crowded.occs x = none ∧ (∀ o : Occ, crowded.victimOk x.cls 1 o = false) ∧
    v ∈ crowded.occs ∧ crowded.quantumOk 1 x.cls v = true ∧
    takePart crowded.occs x (fun o => crowded.quantumOk 1 x.cls o) (fun o => 1 :: quantumKey o) = some (core, i, [v]) := by
  refine ⟨_, _, (⟨47, 0, 0, 2, 47, { res0 with place := .resident 47 0 0 }⟩ : Occ), 47, 0, 0, rfl, by decide, rfl, by decide +kernel, rfl, rfl, rfl,
    by decide +kernel, by decide +kernel, rfl, by decide +kernel, ?_, by decide +kernel⟩
  intro o
  unfold State.victimOk
  by_cases h : o.ctx = 2
  · simp [h, crowded, kvGet, State.ctxState, show cx.suspended = false from rfl]
  · by_cases h1 : o.ctx = 1
    · simp [h1]
    · have : kvGet o.ctx crowded.ctxs = none := by
        simp [crowded, kvGet, Ne.symm h, Ne.symm h1]
      simp [this]

/-! ## Memory -/

theorem witness_MapChecksInOrderThenMaps : ∃ misaligned range straddle busy fits : MapFields,
    Ready w0 hd 1 ∧ kvGet 1 w0.ctxs = some cx ∧ misaligned.va % 2 ^ 30 ≠ 0 ∧
    (range.va % 2 ^ 30 = 0 ∧ range.pa % 2 ^ 30 = 0 ∧ 2 ^ 48 < range.va + range.pages * 2 ^ 30) ∧
    (straddle.va % 2 ^ 30 = 0 ∧ straddle.pa % 2 ^ 30 = 0 ∧ w0.pageOk straddle.pa (2 ^ 30) = true) ∧
    (w0.pageOk busy.pa (2 ^ 30) = true ∧ w0.straddles busy.pa (2 ^ 30) = false ∧ meet (page.va, page.size) (busy.va, busy.pages * 2 ^ 30) = true) ∧
    fits.pages ≠ 0 ∧ fits.va % 2 ^ 30 = 0 ∧ fits.pa % 2 ^ 30 = 0 ∧ ¬ 2 ^ 48 < fits.va + fits.pages * 2 ^ 30 ∧ w0.pageOk fits.pa (2 ^ 30) = true ∧
    w0.straddles fits.pa (2 ^ 30) = false ∧ meet (page.va, page.size) (fits.va, fits.pages * 2 ^ 30) = false :=
  let f (va pa : Nat) : MapFields := { ctx := 1, va := va, pa := pa, pages := 1, size1G := true, write := true }
  ⟨f 1 0, f (2 ^ 48) 0, f 0 (9 * gib), f gib (10 * gib), f (2 ^ 48 - gib) (10 * gib), ready1, rfl, by decide +kernel⟩

/-- A page that is mapped, one that is not. -/
theorem witness_UnmapTakesPagesAwayAndTranslateTells : Ready w0 hd 1 ∧ kvGet 1 w0.ctxs = some cx ∧ gib = 2 ^ 30 ∧ va 0 % gib = 0 ∧ cx.plan = none ∧
    (∀ m ∈ cx.maps, m.hot = false) ∧ (∀ i, i < 1 → ∃ m ∈ cx.maps, m.va = va 0 + i * gib ∧ m.big = true) ∧
    findMap cx.maps (gib - 1) = none ∧ findMap cx.maps (va (gib - 1)) = some page ∧ page.pa % 4096 = 0 ∧ page.pa < 2 ^ 48 :=
  ⟨ready1, rfl, by decide, by decide, rfl, by decide, fun i h => ⟨page, by simp [cx], by rw [Nat.lt_one_iff.mp h]; rfl, rfl⟩,
   by decide +kernel⟩

/-- A byte of the page that context 1 maps translates, and lies in module memory. -/
theorem page_translates (b : Bool) (k : Nat) (h : k < gib) : translate cx.maps (va k) b = .ok (9 * gib + k) := by
  have e : findMap cx.maps (va k) = some page := by
    unfold findMap
    show List.find? _ [page] = some page
    simp only [List.find?]
    rw [show decide (page.va ≤ va k ∧ va k < page.va + page.size) = true from ?_]
    have : page.va = gib := rfl
    have : page.size = gib := rfl
    unfold va
    exact decide_eq_true ⟨by omega, by omega⟩
  unfold Machine.translate
  rw [e]
  show (if b && !page.write then _ else _) = _
  have : (b && !page.write) = false := by cases b <;> rfl
  rw [this]
  show Except.ok (page.pa + (va k - page.va)) = _
  have : va k - page.va = k := by unfold va; show gib + k - gib = k; omega
  rw [this]
  rfl

theorem page_inside : ∀ m ∈ cx.maps, ∀ a, m.pa ≤ a → a < m.pa + m.size → a < coreBase ∧ w0.region a ≠ .host := by
  intro m hm a h1 h2
  obtain rfl : m = page := by simpa [cx] using hm
  have h1 : 9 * gib ≤ a := h1
  have h2 : a < 9 * gib + gib := h2
  have e : (w0.interFrames - w0.hotSlots) * gib = 288 * gib := by decide +kernel
  refine ⟨by unfold gib at h2; unfold coreBase; omega, ?_⟩
  unfold State.region
  rw [e, if_neg (by omega), if_pos (by unfold gib at *; omega)]
  decide

theorem aligned : cx.Aligned := ⟨by decide, fun p h => (by cases h), fun a h => (by cases h)⟩

/-- Every byte of a range in the page translates, and no two of them to one place. -/
theorem page_ok (b : Bool) (k n : Nat) (h : k + n ≤ gib) : ∀ i, i < n → ∃ pa, translate cx.maps (va k + i) b = .ok pa := fun i hi =>
  ⟨9 * gib + (k + i), by rw [show va k + i = va (k + i) from by unfold va; omega]; exact page_translates b (k + i) (by omega)⟩

theorem page_inj {a b : Nat} (ha : gib ≤ a ∧ a < gib + gib) (hb : gib ≤ b ∧ b < gib + gib) (e : translate cx.maps a true = translate cx.maps b true) : a = b := by
  rw [show a = va (a - gib) from by unfold va; omega, show b = va (b - gib) from by unfold va; omega, page_translates true _ (by omega),
    page_translates true _ (by omega)] at e
  have := Except.ok.inj e
  omega

/-- The byte behind the page is unmapped. -/
theorem past_page : ∃ i, i < 64 ∧ ∃ e, translate cx.maps (va gib + i) true = .error e := by
  have e : findMap cx.maps (va gib + 0) = none := by decide +kernel
  exact ⟨0, by omega, ⟨va gib + 0, 0, 0⟩, by unfold Machine.translate; rw [e]⟩

theorem witness_FillAndCopyAct : Ready w0 hd 1 ∧ kvGet 1 w0.ctxs = some cx ∧ w0.Canonical ∧ w0.poison = [] ∧ w0.rebuild = [] ∧ w0.rowDue = [] ∧ w0.hi.want = [] ∧
    cx.Aligned ∧
    (∀ m ∈ cx.maps, ∀ a, m.pa ≤ a → a < m.pa + m.size → a < coreBase ∧ w0.region a ≠ .host) ∧ va 64 % 64 = 0 ∧
    (∀ i, i < 64 → ∃ pa, translate cx.maps (va 64 + i) true = .ok pa) ∧ (∃ i, i < 64 ∧ ∃ e, translate cx.maps (va gib + i) true = .error e) ∧
    (∀ i, i < 64 → (∃ pa, translate cx.maps (va 0 + i) false = .ok pa) ∧ ∃ pa, translate cx.maps (va 64 + i) true = .ok pa) ∧
    ∀ i j, i < 64 → j < 64 → translate cx.maps (va 64 + i) true = translate cx.maps (va 64 + j) true → i = j := by
  refine ⟨ready1, rfl, rfl, rfl, rfl, rfl, rfl, aligned, page_inside, by decide +kernel, page_ok true 64 64 (by decide), past_page,
    fun i h => ⟨page_ok false 0 64 (by decide) i h, page_ok true 64 64 (by decide) i h⟩, fun i j hi hj e => ?_⟩
  have := page_inj (a := va 64 + i) (b := va 64 + j) (by unfold va gib; omega) (by unfold va gib; omega) e
  omega

/-- A KV ring of 256 heads in the page. -/
def smallRing : KvRingFields := { ctx := 1, header := va 0, w := 64, d := 1, heads := 256, owner := 1, base := va 4096, next := 0 }

/-- The context with one token record. -/
def tokened : Ctx := { cx with tokens := [{ size := 4096, home := lpBase, state := 2, poison := 1, placed := [] }] }

theorem smallRing_apart (a b : Nat) (ha : smallRing.header ≤ a ∧ a < smallRing.header + 64 ∨ smallRing.base ≤ a ∧ a < smallRing.base + 327680)
    (hb : smallRing.header ≤ b ∧ b < smallRing.header + 64 ∨ smallRing.base ≤ b ∧ b < smallRing.base + 327680)
    (e : translate cx.maps a true = translate cx.maps b true) : a = b := by
  have inside (a : Nat) (h : smallRing.header ≤ a ∧ a < smallRing.header + 64 ∨ smallRing.base ≤ a ∧ a < smallRing.base + 327680) : gib ≤ a ∧ a < gib + gib := by
    have e : smallRing.header = gib + 0 ∧ smallRing.base = gib + 4096 := ⟨rfl, rfl⟩
    rw [e.1, e.2] at h
    unfold gib at *
    omega
  exact page_inj (inside a ha) (inside b hb) e

theorem smallRing_laid : smallRing.ctx = 1 ∧ smallRing.w % 64 = 0 ∧ 64 ≤ smallRing.w ∧ smallRing.w ≤ 2 ^ 20 ∧ 1 ≤ smallRing.d ∧ smallRing.d ≤ 256 ∧
    1 ≤ smallRing.heads ∧ smallRing.heads ≤ 256 ∧ smallRing.base % 4096 = 0 ∧
    327680 = smallRing.heads * (headBytes smallRing.w smallRing.d + headBytes 64 smallRing.d) ∧
    (smallRing.header + 64 ≤ smallRing.base ∨ smallRing.base + 327680 ≤ smallRing.header) := by decide +kernel

theorem ready_tokened : Ready (ctx1 w0 tokened) hd 1 := by decide +kernel

theorem witness_RingCreateAndTierQueryAct : Ready w0 hd 1 ∧ kvGet 1 w0.ctxs = some cx ∧ w0.Canonical ∧ w0.poison = [] ∧ cx.Aligned ∧
    (∀ m ∈ cx.maps, ∀ a, m.pa ≤ a → a < m.pa + m.size → a < coreBase ∧ w0.region a ≠ .host) ∧
    (∃ (f : KvRingFields) (all : Nat), f.ctx = 1 ∧ f.errs = [] ∧ f.w % 64 = 0 ∧ 64 ≤ f.w ∧ f.w ≤ 2 ^ 20 ∧ 1 ≤ f.d ∧ f.d ≤ 256 ∧ 1 ≤ f.heads ∧ f.heads ≤ 256 ∧
      f.base % 4096 = 0 ∧ all = f.heads * (headBytes f.w f.d + headBytes 64 f.d) ∧
      (∀ i, i < 64 → ∃ pa, translate cx.maps (f.header + i) true = .ok pa) ∧ (∀ i, i < all → ∃ pa, translate cx.maps (f.base + i) true = .ok pa) ∧
      (∀ a b, (f.header ≤ a ∧ a < f.header + 64 ∨ f.base ≤ a ∧ a < f.base + all) → (f.header ≤ b ∧ b < f.header + 64 ∨ f.base ≤ b ∧ b < f.base + all) →
        translate cx.maps a true = translate cx.maps b true → a = b) ∧
      (f.header + 64 ≤ f.base ∨ f.base + all ≤ f.header)) ∧
    ∃ (x : Ctx) (t : Token), Ready (ctx1 w0 x) hd 1 ∧ kvGet 1 (ctx1 w0 x).ctxs = some x ∧ x.tokens[0]? = some t := by
  obtain ⟨h1, h2, h3, h4, h5, h6, h7, h8, h9, h10, h11⟩ := smallRing_laid
  exact ⟨ready1, rfl, rfl, rfl, aligned, page_inside,
    ⟨smallRing, 327680, h1, rfl, h2, h3, h4, h5, h6, h7, h8, h9, h10, page_ok true 0 64 (by decide), page_ok true 4096 327680 (by decide), smallRing_apart, h11⟩,
    tokened, _, ready_tokened, rfl, rfl⟩

/-! ## Models, packets, plans -/

/-- A module with a model registered. -/
def modelled (m : Model) : State := { w0 with models := [(3, m)] }

/-- A model of two slots. -/
def mdl : Model := { (default : Model) with bytes := gib + 1, home := lpBase, state := 2, slots := [351, 350], loader := 9 }

theorem witness_ModelCommandsMoveTheModel : Ready w0 hd 1 ∧ kvGet 3 w0.models = none ∧ 2 * gib ≤ w0.hotSlots * gib ∧ lpBase % 64 = 0 ∧
    w0.region lpBase = .lp ∧ w0.region (lpBase + 2 * gib - 1) = w0.region lpBase ∧ Ready (modelled mdl) hd 8 ∧ kvGet 3 (modelled mdl).models = some mdl ∧
    mdl.state = 2 ∧ mdl.pins + (mdl.waiting.filter fun w => w.2.2 == 0x0604).length < 255 ∧ mdl.refs = [] ∧ mdl.pins = 0 ∧ mdl.dirty = [] ∧ mdl.state < 256 ∧
    kvGet 3 (modelled { mdl with pins := 255 }).models = some { mdl with pins := 255 } :=
  ⟨ready1, by decide +kernel⟩

theorem witness_ModelLoadsAndWritebacksRun :
    (∃ m, kvGet 3 (modelled m).models = some m ∧ Ready (modelled m) hd 1 ∧ m.state = 0 ∧ m.waiting = [] ∧ slotsNeeded m.bytes ≤ (modelled m).slotsFree.length) ∧
    (∃ m, kvGet 3 (modelled m).models = some m ∧ (modelled m).running = true ∧ m.state = 1 ∧ m.slots ≠ [] ∧ kvGet m.loader (modelled m).ctxs = none ∧
      (modelled m).tierPick = some (m.loader, true) ∧ m.bytes ≤ m.loaded + 65536 ∧ (∀ e ∈ (modelled m).models, e.2.state = 1 → e = (3, m)) ∧
      ((modelled m).recover noCtx [(m.home + m.loaded, min segBytes (m.bytes - m.loaded))] []).rebuildDue
        [(m.home + m.loaded, min segBytes (m.bytes - m.loaded))] = false) ∧
    (∃ m, kvGet 3 (modelled m).models = some m ∧ Ready (modelled m) hd 1 ∧ (∀ r ∈ m.refs, r.2 = false) ∧ m.state = 2 ∧ m.dirty ≠ []) ∧
    ∃ m, kvGet 3 (modelled m).models = some m ∧ (modelled m).running = true ∧ m.state = 3 ∧ m.evicting = false ∧ (modelled m).loads = [] ∧
      (modelled m).linkLost = false ∧ (modelled m).region m.home ≠ .host :=
  ⟨⟨{ mdl with state := 0, slots := [] }, by decide +kernel⟩,
   ⟨{ mdl with state := 1, loaded := gib }, rfl, by decide +kernel, rfl, by decide, rfl, by decide +kernel, by decide, fun e h _ => by simpa [modelled] using h,
    by decide +kernel⟩,
   ⟨{ mdl with dirty := [1] }, by decide +kernel⟩, ⟨{ mdl with state := 3, dirty := [1] }, by decide +kernel⟩⟩

/-- The first 56 bytes of a PWR_CAP_SET packet with a cap of 1,800 W. -/
def packet : List Byte := padTo 56 (leBytes 2 0x0901 ++ leBytes 1 1 ++ leBytes 1 1 ++ leBytes 2 0 ++ leBytes 2 8 ++ leBytes 8 7 ++ leBytes 8 1800)

/-- A module whose queue 1 holds a packet with some CRC. -/
def posted (crc : Nat) : State :=
  { w0.physWrite (cqWindow + 0x1_0000) (packet ++ leBytes 4 1 ++ leBytes 4 crc) with
    queues := [(1, { QueueRec.start (cqWindow + 0x1_0000) 64 (8 * gib) 64 with bell := true })] }

/-- The queue that holds it, its doorbell rung. -/
def belled : QueueRec := { QueueRec.start (cqWindow + 0x1_0000) 64 (8 * gib) 64 with bell := true }

theorem witness_PacketIsCheckedAndRun :
    (let s := posted (crc32c packet)
     let l := s.packetBytes belled 1
     kvGet 1 s.queues = some belled ∧ s.running = true ∧ belled.bell = true ∧ field l 2 1 = 1 ∧ field l 56 4 = belled.cqSeq ∧
       field l 60 4 = crc32c (l.take 56) ∧ field l 0 2 = 0x0901 ∧ field l 4 2 < 4 ∧ field l 6 2 = 8 ∧ 1200 ≤ field l 16 8 ∧ field l 16 8 ≤ 1800 ∧
       s.mayBegin (headOf 1 belled.cqSeq l) = true ∧ s.passedOver 1 = false ∧
       ({ s with queues := [(1, belled), (2, belled)], pass := 2 } : State).passedOver 1 = true) ∧
    (let s := posted 0
     let m := s.packetBytes belled 1
     kvGet 1 s.queues = some belled ∧ s.running = true ∧ field m 2 1 = 1 ∧ field m 56 4 = belled.cqSeq ∧ field m 60 4 ≠ crc32c (m.take 56) ∧ s.Canonical ∧
       s.poison = [] ∧ s.region (belled.cqAddr 0) = .cq ∧ belled.cqAddr 0 % 64 = 0 ∧ s.evq.write < 2 ^ 64 - 1) := by
  decide +kernel

/-- A plan image of one TRACE_MARK operation: header, then the operation's header, code and data words. -/
def image : List Byte :=
  padTo 256 (leBytes 4 0x5A4E4C50 ++ leBytes 4 1 ++ leBytes 4 280 ++ leBytes 4 1 ++
    (List.replicate 4 (leBytes 4 256 ++ zeros 4)).flatten ++ leBytes 4 256 ++ leBytes 1 1 ++ leBytes 1 0)
    ++ leBytes 2 0x000F ++ leBytes 2 3 ++ zeros 4 ++ leBytes 8 1 ++ leBytes 8 0

/-- A module whose context 1 has the image in its page, and no position yet. -/
def imaged : State := { w0.physWrite (9 * gib) image with ctxs := [(1, { cx with positions := [] })] }

theorem witness_LegalImagesAreAdmitted : (∃ (a t : State) (x : Ctx) (p : Plan), Ready imaged hd 2 ∧ imaged.planBusy 1 = false ∧
      imaged.copyRebuild hd 1 (va 0) 280 [] = none ∧ vspans x.maps false (va 0) 280 = .ok [(9 * gib, 280)] ∧
      a = (imaged.accept hd 0x0301).recover 1 [(9 * gib, 280)] [] ∧ kvGet 1 (imaged.accept hd 0x0301).ctxs = some x ∧ x.plan = none ∧ x.admitting = none ∧ 256 ≤ 280 ∧ 280 ≤ 2 ^ 28 ∧
      a.vread 1 (va 0) 280 = .ok (image, none) ∧ loadChecks a 1 x image = none ∧ a.reserve 1 x (planOf image) = .ok (t, p) ∧ ∀ m ∈ p.mps, m.mono = 0) ∧
    ∃ (s : State) (x : Ctx) (y : Admitting), kvGet 1 s.ctxs = some x ∧ x.admitting = some y ∧ s.running = true ∧ x.suspended = false ∧
      ∀ m ∈ y.plan.mps, m.mono ≠ 0 → stepsBack m = false := by
  obtain ⟨⟨t, p⟩, e, h⟩ := ok_and (show holds (((imaged.accept hd 0x0301).recover 1 [(9 * gib, 280)] []).reserve 1 { cx with positions := [] } (planOf image)) (fun r => r.2.mps.isEmpty)
    = true by decide +kernel)
  refine ⟨⟨_, t, { cx with positions := [] }, p, by decide +kernel, by decide +kernel, Option.isNone_iff_eq_none.mp (by decide +kernel), by decide +kernel, rfl,
    by decide +kernel, rfl, rfl,
    by decide +kernel, by decide +kernel, by decide +kernel, by decide +kernel, e, ?_⟩, ctx1 w0 { cx with admitting := some ⟨hd, 0, plan [] [], []⟩ }, _, _, rfl, rfl, by decide +kernel, rfl, by simp [plan]⟩
  have : p.mps = [] := by simpa using h
  simp [this]

theorem witness_PlanRunsAndIsReleased : Ready w0 hd 1 ∧ w0.planBusy 1 = false ∧ kvGet 1 w0.ctxs = some cx ∧ cx.plan = none ∧
    (let s := ctx1 w0 { cx with plan := some (plan [mark] []) }
     Ready s hd 1 ∧ s.planBusy 1 = false ∧ kvGet 1 s.ctxs = some { cx with plan := some (plan [mark] []) } ∧ va 64 % 64 = 0 ∧
       (∃ l, s.reach 1 true (va 64) (128 * (plan [mark] []).ops.length) = .ok l) ∧ cx.noIssue = false ∧ (plan [mark] []).ops.length < 2 ^ 32) :=
  ⟨ready1, by decide +kernel, rfl, rfl, by decide +kernel, by decide +kernel, rfl, by decide, ok_some (by decide +kernel), rfl, by decide⟩

/-! ## Synchronisation objects -/

/-- An object of a type with a value. -/
def obj (type value param : Nat) : Obj :=
  { type := type, domain := 1, remote := false, param := param, value := value, arrivals := 0, holder := none, ovf := false, broken := false, waits := [],
    granted := [], boosted := false }

/-- A module with object 5. -/
def withObj (o : Obj) : State := { w0 with sos := [(5, o)] }

/-- A local SYNC operation on object 5. -/
def sync (op n : Nat) : PlanOp := .sync { op := op, so := 5, n := n, tmo := 0, module := 0xFFFF, port := 0, result := 0 }

/-- A state whose context 1 is about to begin an operation behind a transfer in progress. -/
def behindTransfer (s : State) (o : PlanOp) (ts : KV TDesc) : State :=
  { s with ctxs := [(1, busy [.transfer (va 0) 1, o] ts [{ OpRun.new with st := .begun, prog := .wait 1 }, OpRun.new])] }

/-- For each SYNC code an object on which it is due and does something, and one of a type that does not take it. -/
theorem witness_SyncOperationsChangeTheirObject :
    (∀ x ∈ [(0, 0, 1), (1, 0, 1), (2, 0, 1), (3, 1, 5), (4, 1, 3), (5, 2, 0), (6, 2, 0), (7, 3, 0), (8, 3, 0), (9, 3, 0), (10, 4, 65535), (11, 5, 3),
        (12, 5, 1), (13, 2, 0)],
      ∃ o : Obj, (due (withObj o) (sync x.1 x.2.2) []).mayIssue 1 0 = true ∧ o.broken = false ∧ o.waits = [] ∧
        ∃ o', soNext x.1 o x.2.2 1 o') ∧
    ∃ (p : Plan) (r : Run) (f : SyncF), f.op = 3 ∧ f.so = 5 ∧ f.module = 0xFFFF ∧ f.result = 0 ∧ soTakes 0 3 = false ∧ EarlierOp r 1 ∧
      OpDue (behindTransfer (withObj (obj 0 3 0)) (sync 3 1) []) 1 1 p r (.sync f) := by
  refine ⟨?_, _, _, _, rfl, rfl, rfl, rfl, by decide, ⟨0, _, by decide, rfl, by decide⟩, _, _, rfl, by decide +kernel, rfl, rfl, rfl,
    ⟨0, _, by decide, rfl, by decide⟩, record_open rfl rfl (.inr rfl)⟩
  have h (op type n : Nat) (o : Obj) (m : (due (withObj o) (sync op n) []).mayIssue 1 0 = true) (b : o.broken = false) (w : o.waits = [])
      (e : ∃ o', soNext op o n 1 o') : ∃ o : Obj, (due (withObj o) (sync op n) []).mayIssue 1 0 = true ∧ o.broken = false ∧ o.waits = [] ∧
        ∃ o', soNext op o n 1 o' := ⟨o, m, b, w, e⟩
  intro x hx
  simp only [List.mem_cons, List.not_mem_nil, or_false] at hx
  rcases hx with rfl | rfl | rfl | rfl | rfl | rfl | rfl | rfl | rfl | rfl | rfl | rfl | rfl | rfl
  · exact h 0 0 1 (obj 0 (2 ^ 32 - 2) 0) (by decide +kernel) rfl rfl ⟨_, rfl, by decide, by decide, rfl⟩
  · exact h 1 0 1 (obj 0 1 0) (by decide +kernel) rfl rfl ⟨_, rfl, by decide, by decide, rfl⟩
  · exact h 2 0 1 (obj 0 0 0) (by decide +kernel) rfl rfl ⟨_, rfl, by decide, rfl⟩
  · exact h 3 1 5 (obj 1 3 0) (by decide +kernel) rfl rfl ⟨_, rfl, rfl⟩
  · exact h 4 1 3 (obj 1 3 0) (by decide +kernel) rfl rfl ⟨_, rfl, by decide, rfl⟩
  · exact h 5 2 0 (obj 2 3 2) (by decide +kernel) rfl rfl ⟨_, rfl, .inl ⟨by decide, rfl⟩⟩
  · exact h 6 2 0 (obj 2 3 1) (by decide +kernel) rfl rfl ⟨_, rfl, by decide, by decide, rfl⟩
  · exact h 7 3 0 (obj 3 0 0) (by decide +kernel) rfl rfl ⟨_, rfl, rfl, rfl⟩
  · exact h 8 3 0 (obj 3 0 0) (by decide +kernel) rfl rfl ⟨_, rfl, .inl ⟨rfl, rfl⟩⟩
  · exact h 9 3 0 { obj 3 0 0 with holder := some (1, 0) } (by decide +kernel) rfl rfl ⟨_, rfl, ⟨0, rfl⟩, rfl⟩
  · exact h 10 4 65535 (obj 4 3 0) (by decide +kernel) rfl rfl ⟨_, rfl, by decide, by decide, by decide, rfl⟩
  · exact h 11 5 3 (obj 5 3 9) (by decide +kernel) rfl rfl ⟨_, rfl, by decide, by decide, rfl⟩
  · exact h 12 5 1 (obj 5 8 9) (by decide +kernel) rfl rfl ⟨_, rfl, by decide, by decide, rfl⟩
  · exact h 13 2 0 (obj 2 3 2) (by decide +kernel) rfl rfl ⟨_, rfl⟩

/-- Object 5 with a wait of the first operation of context 1. -/
def waited : Obj := { obj 0 3 0 with waits := [{ who := .op 1 0, kind := .count 4, left := 9, since := 0 }] }

theorem witness_UnmetOperationsWaitAndEnd :
    (due (withObj (obj 0 3 0)) (sync 1 4) []).mayIssue 1 0 = true ∧ (due (withObj (obj 1 3 0)) (sync 4 4) []).mayIssue 1 0 = true ∧
    (due (withObj (obj 5 3 9)) (sync 11 4) []).mayIssue 1 0 = true ∧ (due (withObj (obj 2 3 2)) (sync 6 0) []).mayIssue 1 0 = true ∧
    (let s : State := { due (withObj { obj 3 0 0 with holder := some (2, 0) }) (sync 7 0) [] with
        ctxs := (due w0 (sync 7 0) []).ctxs ++ [(2, cx)] }
     s.mayIssue 1 0 = true ∧ ∃ y, kvGet 2 s.ctxs = some y ∧ s.waiterClass (.op 1 0) ≤ y.cls) ∧
    (∃ x p r o q, (begun (withObj { obj 0 3 0 with granted := [.op 1 0] }) (sync 1 4) [] .none).opOf 1 0 = some (x, p, r, o, q) ∧ q.st = .begun ∧
      q.poisoned = false ∧ q.poisonAt = none ∧ q.dup = false ∧ MoreOps r 0 ∧
      RecordOpen (begun (withObj { obj 0 3 0 with granted := [.op 1 0] }) (sync 1 4) [] .none) 1 0 r) ∧
    (∃ (s : State) (x : Ctx) (p : Plan) (r : Run) (o : PlanOp) (q : OpRun), s.opOf 1 1 = some (x, p, r, o, q) ∧ q.st = .begun ∧ EarlierOp r 1 ∧ RecordOpen s 1 1 r ∧ x.pos0 = true ∧
      kvGet 5 s.sos = some { waited with waits := [{ who := .op 1 1, kind := .count 4, left := 9, since := 0 }] }) ∧
    (let b : Boost := { so := 5, holder := 1, pos := 0, waiter := 2, cls := 3, budget := 1, since := 0 }
     let s : State := { withObj (obj 3 0 0) with boosts := [b] }
     s.boosts.find? (fun b => b.so == 5) = some b ∧ s.refCount < b.since + 1000 * b.budget ∧
       b.since + 1000 * b.budget ≤ ({ s with refCount := 1000 } : State).refCount ∧ s.pos? b.holder b.pos = some res0) :=
  ⟨by decide +kernel, by decide +kernel, by decide +kernel, by decide +kernel, ⟨by decide +kernel, _, rfl, by decide +kernel⟩,
    ⟨_, _, _, _, _, rfl, rfl, rfl, rfl, rfl, ⟨1, _, by decide, rfl, by decide⟩, record_open rfl rfl (.inl rfl)⟩,
    ⟨{ withObj { waited with waits := [{ who := .op 1 1, kind := .count 4, left := 9, since := 0 }] } with
        ctxs := [(1, busy [mark, sync 1 4] [] [OpRun.new, { OpRun.new with st := .begun }])] },
      _, _, _, _, _, rfl, rfl, ⟨0, _, by decide, rfl, by decide⟩, record_open rfl rfl (.inr rfl), by decide +kernel, rfl⟩, by decide +kernel⟩

theorem witness_ObjectCommandsOfTheHost : Ready w0 hd 1 ∧ kvGet 5 w0.sos = none ∧ soValueOk 0 0 (2 ^ 32 - 1) = true ∧ Ready (withObj (obj 0 3 0)) hd 1 ∧
    (∀ op ∈ [0, 2], ∃ o', soNext op (obj 0 3 0) 1 0 o') ∧ (∃ o', soNext 3 (obj 1 3 0) 9 0 o') ∧ (∃ o', soNext 5 (obj 2 3 2) 0 0 o') ∧
    (∃ o', soNext 10 (obj 4 3 0) 1 0 o') ∧ (∃ o', soNext 12 (obj 5 3 4) 1 0 o') ∧ (withObj (obj 0 3 0)).planNames 5 = false :=
  ⟨ready1, rfl, by decide, by decide +kernel,
    fun op h => by
      simp only [List.mem_cons, List.not_mem_nil, or_false] at h
      rcases h with rfl | rfl
      · exact ⟨_, rfl, by decide, by decide, rfl⟩
      · exact ⟨_, rfl, by decide, rfl⟩,
    ⟨_, rfl, rfl⟩, ⟨_, rfl, .inl ⟨by decide, rfl⟩⟩, ⟨_, rfl, by decide, by decide, by decide, rfl⟩, ⟨_, rfl, by decide, by decide, rfl⟩, by decide +kernel⟩

/-! ## Configuration, firmware, recovery, power -/

theorem witness_ConfigurationIsSetAndRead : Ready w0 hd 1 ∧ w0.cfgCur.length = 5 ∧ w0.cfgPend.length = 5 ∧
    w0.cfgOk (w0.cfgPend.set 0 24) = true ∧ w0.cfgOk (w0.cfgPend.set 0 26) = false ∧ w0.power.stable = true ∧ w0.fw.store = none ∧ w0.fw.waiting = [] :=
  ⟨ready1, by decide +kernel⟩

/-- A firmware release. -/
def release : Manifest := { cls := 1, stateFmt := 1, release := 2, bytes := 8192, revoke := 2, comps := [(1, 3, 2, 0)], digest := 9 }

/-- The running module with some firmware state. -/
def fwState (f : Firmware) : State := { w0 with fw := f }

/-- A ring with some tag, of which the schedule is told. -/
def ringTagged (s : State) : State := { s with trade := [(gkey 1 4, { (default : Trade) with number := 1 })] }

/-- A command store of some kind. -/
def store (k : StoreKind) (c : SecCmd) : FlashStore := { kind := k, owner := .host hd 0 0x0801, base := stgBase, erase := none, data := [1#8, 2#8], cmd := some c }

/-- A store of the module's own. -/
def ownStore (k : StoreKind) (o : StoreOwner) (x : Option (Nat × Nat)) : FlashStore :=
  { kind := k, owner := o, base := cfgStore, erase := none, data := [], cmd := none, fuse := x }

/-- What a signature check and a digest answer is not the model's (log 13): the clauses about an image that verifies, and about a shadow that agrees with
its digests, have as witness any firmware and any release of which they say so. -/
theorem witness_FirmwareStoresRun (f : Firmware) (m : Manifest) (verified : f.verify stgBase = .ok m) (l : List (Nat × List Byte)) (sh : Manifest)
    (agrees : shadowOk l sh = true) :
    (Ready w0 hd 1 ∧ w0.fw.store = none ∧ w0.fw.waiting = [] ∧ w0.power.stable = true ∧ Memory.wf w0.fw.flash = true ∧
      w0.fw.stageRefuse (imageArea - 64) 64 = none ∧ w0.fw.stageRefuse imageArea 64 = some .fwStaging ∧ w0.fw.scheduled = false ∧
      w0.fw.verify stgBase = .error .fwFormat ∧ w0.fw.staged = none) ∧
    (let g : Firmware := { f with store := none, waiting := [], pendingAct := none, sched := none, schedDecided := false }
     Ready (fwState g) hd 1 ∧ g.scheduled = false ∧ g.verify stgBase = .ok m) ∧
    (let g : Firmware := { w0.fw with staged := some release, running := some release }
     Ready (ringTagged (fwState g)) hd 1 ∧ g.scheduled = false ∧ g.log.length + 7 ≤ 64 ∧ (∃ r ∈ (ringTagged (fwState g)).trade, r.1 % 2 ^ 32 = 4) ∧
       shadowOk g.bodies { release with comps := [] } = true ∧ shadowOk g.bodies { release with comps := [(9, 3, 2, 0)] } = false) ∧
    (let s := fwState { w0.fw with store := some (store .staging (.stageWrite 0 [1, 2])), intent := some ⟨.staging, stgBase⟩ }
     s.fw.waiting = [] ∧ s.resetDue = false ∧ s.fw.copying = false ∧ s.fw.fuses = [] ∧ Memory.wf s.fw.flash = true ∧ (stgBase + 2 ≤ cfgStore ∨ intentLog ≤ stgBase)) ∧
    ((store .config (.cfgSet 1 8 10)).kind = .config ∧ 1 - 1 < w0.cfgPend.length ∧ ({ store .config (.cfgSet 1 8 10) with data := [] } : FlashStore).data = []) ∧
    (let s := fwState { w0.fw with running := some release, copying := true, store := some (ownStore .copyActive .background none) }
     s.fw.waiting = [] ∧ s.resetDue = false ∧ s.fw.fusesDue { release with comps := [], revoke := 0 } = [] ∧
       s.fw.fusesDue { release with comps := [(1, 3, 2, 0)], revoke := 0 } = [(1, 2)] ∧ s.power.stable = true ∧ s.hi.bootStage = 4) ∧
    (∀ x ∈ [(0, 2), (1, 2)], let s := fwState { w0.fw with store := some (ownStore .fuse .background (some x)) }
     s.fw.waiting = [] ∧ s.resetDue = false ∧ (x.1 = 0 ∨ 1 ≤ x.1 ∧ x.1 - 1 < s.fw.fzSvn.length)) ∧
    (let s := fwState { w0.fw with sched := some (4, 9), staged := some release, schedDecided := true }
     s.calm = none ∧ s.calmDue 4 = true ∧ s.fw.store = none ∧ s.halted = false) ∧
    (let s : State := { ctx1 (fwState { w0.fw with sched := some (4, 9), staged := some sh, schedDecided := true, shadow := l })
        { cx with positions := [{ res0 with place := .saved }] } with calm := some 9 }
     s.calm.isSome = true ∧ s.fw.loaded = false ∧ s.allSaved = true ∧ shadowOk s.fw.shadow sh = true ∧ shadowOk [] { release with comps := [(9, 3, 2, 0)] } = false ∧
       ({ w0 with ports := [{ Port.reset true with state := 2, retrain := true }] } : State).retraining = true ∧ w0.retraining = false) :=
  ⟨⟨ready1, by decide +kernel⟩, ⟨ready1, rfl, verified⟩, ⟨ready1, rfl, by decide, ⟨_, List.mem_singleton_self _, by decide⟩, by decide +kernel⟩,
    by decide +kernel, by decide +kernel, by decide +kernel, by decide +kernel, by decide +kernel, rfl, rfl, rfl, agrees, by decide +kernel⟩

theorem witness_FirmwareAndIdentityAreTold : Ready w0 hd 2 ∧ w0.fw.store = none ∧ w0.fw.waiting = [] ∧ w0.hi.linkUp = true ∧
    w0.inHost hostBase (128 + 64 * w0.fw.log.length + 49856) = true ∧ w0.inHost (hostBase + 16 * gib - 59840) 59840 = true ∧
    w0.inHost (hostBase + 16 * gib - 59839) 59840 = false :=
  ⟨ready2, by decide +kernel⟩

/-- A module in recovery mode with a window and an open intent. -/
def recovering (n : Nat) (k : Option Intent) : State :=
  { State.reset with hi := { HostIf.reset with bootStage := 2 }, recw := { State.reset.recw with length := n }, fw := { State.reset.fw with intent := k } }

/-- A flash with a staging marker. -/
def marked : List Host.Cell :=
  let b := padTo 60 (leBytes 4 0x4B52_4D43 ++ leBytes 32 9)
  cellsWrite [] stgMark (b ++ leBytes 4 (crc32c b))

/-- What a signature check and a digest answer is not the model's (log 13): the clauses about an image that verifies have as witness any firmware of which
they say so. -/
theorem witness_RecoveryResetsAndStartAct (f b : Firmware) (m a : Manifest) (staged : f.verify stgBase = .ok m) (active : b.bootable = .ok a)
    (calm : b.intent = none ∧ b.pendingAct = none ∧ b.waiting = [] ∧ b.store = some (ownStore .config .start none)) (wf : Memory.wf b.flash = true) :
    (let s := recovering 32768 none
     s.recReady = true ∧ s.power.stable = true ∧ s.fw.store = none ∧ s.fw.scheduled = false ∧ s.recw.length % 64 = 0 ∧
      s.fw.stageRefuse s.recw.offset s.recw.length = none ∧ s.power.auxOk = true) ∧
    (let s : State := { recovering 0 none with fw := { f with store := none, pendingAct := none, sched := none } }
     s.recReady = true ∧ s.fw.store = none ∧ s.fw.scheduled = false ∧ s.fw.verify stgBase = .ok m) ∧
    (({ State.reset.fw with flash := marked } : Firmware).marker stgMark).isSome = true ∧
    (recovering 0 (some ⟨.staging, stgBase⟩)).fw.intent = some ⟨.staging, stgBase⟩ ∧
    (recovering 0 (some ⟨.config, cfgStore⟩)).fw.intent = some ⟨.config, cfgStore⟩ ∧
    (Ready w0 hd 1 ∧ w0.fw.store = none ∧ w0.held = [] ∧ w0.linkLost = false ∧ w0.power.auxOk = true) ∧
    (State.reset.power.pwrGood = true ∧ State.reset.hi.bootStage = 0 ∧ State.reset.fw.intent = none ∧ State.reset.power.stable = true) ∧
    (let s := State.reset.inputVoltage 50000
     s.power.pwrGood = true ∧ s.hi.bootStage = 0 ∧ s.fw.intent = none ∧ s.power.stable = false) ∧
    (let s : State := { State.reset with fw := { State.reset.fw with flash := marked, pendingAct := some 9 } }
     s.fw.pendingAct.isSome = true ∧ (s.fw.marker stgMark).isSome = true ∧ s.power.stable = true) ∧
    (b.intent = none ∧ b.pendingAct = none ∧ b.bootable = .ok a) ∧
    (let s : State := { State.reset with hi := { HostIf.reset with bootStage := 1, train := some ⟨3, true, 1, 3, false, false⟩ }, fw := b }
     s.hi.bootStage = 1 ∧ s.hi.train.isSome = true ∧ s.fw.store = some (ownStore .config .start none) ∧ s.fw.waiting = [] ∧ s.resetDue = false ∧
       Memory.wf s.fw.flash = true ∧ s.fw.bootable = .ok a ∧ (ownStore .config .start none).data = []) ∧
    (let s : State := { State.reset with hi := { HostIf.reset with bootStage := 3, train := some ⟨3, false, 1, 3, false, true⟩ } }
     s.hi.bootStage = 3 ∧ s.resetDue = false ∧ (⟨3, false, 1, 3, false, true⟩ : UcieTrain).started = true ∧ (⟨3, false, 1, 3, false, true⟩ : UcieTrain).again = false) :=
  ⟨by decide +kernel, ⟨rfl, rfl, rfl, staged⟩, by decide +kernel, rfl, rfl, ⟨ready1, by decide +kernel⟩, by decide +kernel, by decide +kernel, by decide +kernel,
    ⟨calm.1, calm.2.1, active⟩, ⟨rfl, rfl, calm.2.2.2, calm.2.2.1, rfl, wf, active, rfl⟩, by decide +kernel⟩

theorem witness_PowerAndThermalEventsAct : Ready w0 hd 1 ∧ w0.powered = true ∧ w0.powerLimit * 1000 < 1800001 ∧
    97 * (w0.powerLimit * 1000) ≤ 100 * 1746000 ∧ 100 * 1745999 < 97 * (w0.powerLimit * 1000) ∧
    (let s : State := { w0 with power := { w0.power with low := 99, step := 124 } }
     99 ≤ s.power.low ∧ s.power.step < 125 ∧ s.power.thermSteps = [] ∧ s.powered = true) ∧
    (throttleOf .junction = some 105000 ∧ (∀ e ∈ limitsOf .junction, e.1 = 2 → 114999 < e.2) ∧ (2, 115000) ∈ limitsOf .junction) ∧
    (let s : State := { w0 with power := { w0.power with temps := [((.junction, 0), 100000)], thermSteps := [(0, 124)] } }
     100000 + 5000 ≤ (105000 : Int) ∧ s.power.temps = [((.junction, 0), 100000)] ∧ s.powered = true) ∧
    ({ w0 with power := { w0.power with auxOk := false } } : State).power.auxOk = false ∧
    ({ w0 with power := { w0.power with busOk := false } } : State).power.busOk = false ∧ w0.power.temps = [] :=
  ⟨ready1, by decide +kernel⟩

theorem witness_TelemetryAnswers : Ready w0 hd 1 ∧ w0.unitKind 191 = some .core ∧ w0.unitKind 192 = none ∧ Ready w0 hd (ceilDiv (32 + 104 * 4) 64) ∧
    (let x : Ctx := { cx with positions := List.replicate 4 res0 }
     kvGet 1 (ctx1 w0 x).ctxs = some x ∧ 0 + 4 ≤ x.positions.length ∧ Ready (ctx1 w0 x) hd (ceilDiv (32 + 104 * 4) 64)) ∧ w0.power.auxOk = true :=
  ⟨ready1, rfl, rfl, by decide +kernel, ⟨rfl, by decide, by decide +kernel⟩, rfl⟩

/-! ## Registers and the host link -/

/-- Port 0 with some state, the module identifier valid. -/
def port0 (p : Port) : State := { w0 with ports := p :: List.replicate 15 (Port.reset true), vl := { moduleId := 3, valid := true, enable := 0, err := 0 } }

theorem witness_RegistersAreReadAndWritten : (∃ q, kvGet 1 w0.queues = some q ∧ 0 < q.rqSlots) ∧
    (w0.hi.bootStage ≠ 0 ∧ kvGet 1023 w0.queues = none ∧
      (let q : QueueRec := { QueueRec.start (cqWindow + 0x1_0000) 64 (8 * gib) 64 with idle := 63 }
       63 < q.rqSlots ∧ (63 + q.rqSlots - q.rqHead) % q.rqSlots ≤ (q.idle + q.rqSlots - q.rqHead) % q.rqSlots) ∧
      ({ w0 with ctxs := [] } : State).winBusy = false ∧ w0.winBusy = true ∧ w0.hi.mqEnabled = false ∧ w0.mqOk = false ∧
      ({ w0 with hi := { w0.hi with mqRqBase := hostBase, mqRqSlots := 64 } } : State).mqOk = true ∧
      (let s : State := { w0 with hi := { w0.hi with ntEnable := true }, nt := { armed := [], counts := [(1, 2)] } }
       s.hi.ntEnable = true ∧ kvGetD 0 s.nt.counts 0 = 0 ∧ kvGetD 1 s.nt.counts 0 = 2 ∧ s.hi.linkUp = true) ∧
      w0.decoded (0x1_1000 / 8 * 8) = false ∧ w0.sbReach 0x1_0000 = true ∧ rcReg 0x1_0000 = none ∧ w0.sbReach 0x1_1000 = false ∧
      ∀ p ∈ w0.ports, p.state ≠ 2 ∧ p.state ≠ 3) ∧
    (let s := port0 (Port.reset true)
     s.vl.valid = true ∧ s.ports[0]? = some (Port.reset true) ∧ (Port.reset true).state = 0 ∧ s.vl.enable.getLsbD 0 = false ∧ bitOf (1#64).toNat 0 = true ∧
       s.vl.enable &&& ~~~(BitVec.ofNat 16 (1#64).toNat) = 0#16) ∧
    ∃ q, (port0 { Port.reset true with state := 3 }).ports[0]? = some q ∧ q.state = 3 :=
  ⟨⟨_, rfl, by decide⟩, by decide +kernel, by decide +kernel, _, rfl, rfl⟩

theorem witness_HostTransactionsReachTheirPlaces : w0.hi.linkUp = true ∧ w0.Canonical ∧ w0.poison = [] ∧ (zeros 224).length % 8 = 0 ∧ zeros 224 ≠ [] ∧
    inCfg (lpBase - 8) = false ∧ inCfg lpBase = false ∧ w0.reachRange lpBase 224 = true ∧ w0.reachRange (lpBase - 8) (8 * 28) = false ∧
    w0.rebuildDue [(lpBase, 224)] = false ∧ ({ w0 with rebuild := [(1, lpBase / 64 + 3)] } : State).rebuildDue [(lpBase, 224)] = true ∧
    kvGet 7 ({ w0 with hi := { w0.hi with reads := [(7, (0, 8, 0))] } } : State).hi.reads = some (0, 8, 0) ∧ (zeros 8).length = 8 :=
  ⟨rfl, rfl, rfl, by decide +kernel⟩

/-- A module whose UCIe link trains. -/
def training (t : UcieTrain) : State := { w0 with hi := { w0.hi with train := some t, linkUp := false } }

theorem witness_UcieTrainingMovesTheLink : w0.hi.bootStage ≠ 0 ∧ w0.hi.linkUp = true ∧ w0.hi.crcRetry + 1 < 2 ^ 64 ∧
    (∃ tr, (training ⟨3, false, 0, 3, false, false⟩).hi.train = some tr ∧ tr.started = false) ∧
    (∃ tr, (training ⟨2, false, 1, 3, true, true⟩).hi.train = some tr ∧ tr.started = true ∧ (training tr).resetDue = false ∧ tr.fault = false ∧ 1 < tr.rate ∧
      tr.again = true) ∧
    ∃ tr, (training ⟨3, true, 3, 3, true, true⟩).hi.train = some tr ∧ tr.started = true ∧ tr.fault = true ∧ 3 ≤ tr.attempt :=
  ⟨by decide, rfl, by decide, ⟨_, rfl, rfl⟩, ⟨_, rfl, rfl, rfl, rfl, by decide, rfl⟩, _, rfl, rfl, rfl, by decide⟩

/-! ## Vauri links -/

/-- A port that is UP to module 4, with 100 flits of buffer a channel. -/
def up : Port :=
  { Port.reset true with state := 3, peerId := 4, peerValid := true, peerClass := 1, credits := List.replicate 6 100, peerBuf := List.replicate 6 100,
                         counters := List.replicate 8 0 }

/-- A running module with every port UP. -/
def linked : State := { w0 with ports := List.replicate 16 up, vl := { moduleId := 3, valid := true, enable := 0xFFFF, err := 0 } }

/-- That module with another port 0. -/
def withPort (p : Port) : State := { linked with ports := p :: List.replicate 15 up }

/-- A data flit of one flit. -/
def flit1 (kind vc : Nat) (payload : List Byte) : Flit :=
  { crcOk := true, seq := 0, kind := kind, ack := 0, nak := false, vc := vc, first := true, last := true, len := 30, crVc := 0, crCount := 0, bind := 0,
    payload := payload }

theorem takes (kind vc : Nat) (l : List Byte) (h : kind ≤ 3) (v : vc ≤ 5) : up.TakesWhole (flit1 kind vc l) :=
  ⟨⟨rfl, rfl, h, Nat.le_refl 30, .inr v, Nat.le_refl 100, rfl⟩, rfl, rfl, rfl, fun u h => by cases h⟩

theorem witness_VauriPortsTrainAndGuard :
    (let p : Port := { Port.reset true with state := 2 }; (withPort p).ports[0]? = some p ∧ p.state = 2 ∧ p.started = false) ∧
    (let p : Port := { Port.reset true with state := 2, started := true, attempt := 2 }
     (withPort p).ports[0]? = some p ∧ p.state = 2 ∧ p.started = true ∧ p.retrain = false ∧ p.attempt < 3) ∧
    (let p : Port := { Port.reset true with state := 2, started := true, attempt := 3 }
     let s := withPort p
     s.ports[0]? = some p ∧ 3 ≤ p.attempt ∧ s.rsOut = [] ∧ s.rsWait = [] ∧ s.eddy = [] ∧ s.trade = [] ∧ s.expx = [] ∧ s.stageQ = [] ∧ p.txq = [] ∧ p.replay = []) ∧
    linked.ports[0]? = some up ∧ up.state = 3 ∧
    (let p : Port := { up with crcTimes := List.replicate 11 0 }
     (withPort p).ports[0]? = some p ∧ p.berLimit ≠ 0 ∧ p.berLimit < (p.crcTimes.filter fun t => decide ((withPort p).refCount < t + 1000000000)).length ∧
       p.berPosted = none ∧ (withPort p).evq.write < 2 ^ 64 - 1) ∧
    (let u := plainUnit 2 1 4 (zeros 960) false
     let p : Port := { up with txq := [u] }
     (withPort p).ports[0]? = some p ∧ p.state = 3 ∧ p.txq = [u] ∧ u.vc = 2 ∧ u.sent = 0 ∧ (withPort p).circRuns u.ctx = true ∧ p.reserved = [] ∧
       u.flits ≤ nth p.peerBuf 2 ∧ u.flits ≤ nth p.credits 2) := by
  decide +kernel

/-- A COUNTER signal of 2 to object 5, from module 4. -/
def signal2 : List Byte := leBytes 2 4 ++ leBytes 2 3 ++ leBytes 4 9 ++ leBytes 2 5 ++ leBytes 1 0 ++ zeros 5 ++ leBytes 8 2

/-- A remote signal of the first operation. -/
def rsig : RSignal := { ctx := 1, op := 0, target := 4, num := 0, so := 5, sop := 0, n := 1, port := 0 }

/-- SO_RSIGNAL to module 4 over port 0. -/
def rsignal : SyncF := { op := 0, so := 5, n := 1, tmo := 0, module := 4, port := 0, result := 0 }

theorem witness_VauriPortsCarryFlitsAndSignals :
    (linked.ports[0]? = some up ∧ up.state = 3) ∧
    (let p : Port := { up with txq := [plainUnit 0 1 0 (zeros 480) false] }
     ∃ u, (withPort p).txNext p 0 = some u ∧
       (2 : Nat) = min (u.flits - u.sent) (min (nth p.credits 0 - ((p.reserved.filter fun r => r.2.1 == 0 && r.1 != u.ctx).map fun r => r.2.2).sum) (1024 - p.replay.length)) ∧
       p.txSeq < 4096) ∧
    (let p : Port := { up with replay := [{ flit := flit1 0 0 [], replays := 6, unit := default }] }; p.replay ≠ [] ∧ ∀ f ∈ p.replay, f.replays < 7) ∧
    ({ flit1 1 2 [] with crcOk := false } : Flit).kind = 1 ∧ (∀ k v l, flitSeen (flit1 k v l) = flit1 k v l) ∧ up.TakesWhole (flit1 1 5 []) ∧
    (up.TakesWhole (flit1 2 0 signal2) ∧ field signal2 2 2 = linked.vl.moduleId ∧ field signal2 8 2 = 5 ∧ field signal2 10 1 = 0 ∧ field signal2 16 8 = 2 ∧
      linked.rsIn = [] ∧ (2 ^ 32 - 3) + 2 ≤ 2 ^ 32 - 1 ∧
      kvGet 5 ({ linked with sos := [(5, { obj 0 (2 ^ 32 - 3) 0 with remote := true })] } : State).sos = some { obj 0 (2 ^ 32 - 3) 0 with remote := true }) ∧
    (up.TakesWhole (flit1 3 0 []) ∧ kvGet up.peerId ({ linked with rsOut := [(4, (10, [rsig]))] } : State).rsOut = some (10, [rsig])) ∧
    (up.Accepts (flit1 0 7 []) ∧ (flit1 0 7 []).crVc < up.credits.length) ∧
    ((due linked (.sync rsignal) []).mayIssue 1 0 = true ∧ rsignal.module ≠ 0xFFFF ∧ up.peerId = rsignal.module ∧ up.peerValid = true ∧
      ({ up with state := 2, retrain := true } : Port).state = 2) ∧
    (let s : State := { begun linked (.sync rsignal) [] .none with rsWait := [rsig] }
     (∃ x p r o q, s.opOf 1 0 = some (x, p, r, o, q) ∧ q.st = .begun ∧ q.poisoned = false ∧ q.poisonAt = none ∧ q.dup = false ∧ MoreOps r 0 ∧ RecordOpen s 1 0 r) ∧
       s.rsWait = [rsig] ∧ rsig.port ∈ s.portsTo rsig.target ∧ s.allLanded 1 rsig.target = true ∧ kvGetD rsig.target s.rsOut (0, []) = (0, [])) :=
  ⟨by decide +kernel, by decide +kernel, by decide +kernel, rfl, fun _ _ _ => rfl, takes _ _ _ (by decide) (by decide), ⟨takes _ _ _ (by decide) (by decide), by decide +kernel⟩,
    ⟨takes _ _ _ (by decide) (by decide), rfl⟩,
    ⟨⟨rfl, rfl, by decide, by decide, .inl rfl, by show nth up.credits 0 + 0 ≤ nth up.peerBuf 0; decide, rfl⟩, by decide⟩,
    by decide +kernel, ⟨⟨_, _, _, _, _, rfl, rfl, rfl, rfl, rfl, ⟨1, _, by decide, rfl, by decide⟩, record_open rfl rfl (.inl rfl)⟩, by decide +kernel⟩⟩

/-! ## Groups -/

/-- A group of two: module 4, then this module. -/
def eddyF : EddyFields :=
  { tag := 4, ctx := 1, size := 2, rank := 1, members := [4, 3], ports := 1, portOut := [1], portIn := [2], layout := 0, slice := 64, pos0 := 0, slots := 2,
    landBase := gib, slotBytes := 65536, formTimeout := 10, stallLimit := 5 }

def tradeF : TradeFields :=
  { tag := 4, ctx := 1, size := 2, rank := 1, members := [4, 3], ports := 1, portOut := [1], portIn := [2], node := 2, gports := 0, gportOut := [], gportIn := [],
    mesh := [3, 0], landBase := gib, landTrains := 64, formTimeout := 10, stallLimit := 5 }

def expxF : ExpxFields :=
  { tag := 4, ctx := 1, size := 2, rank := 1, members := [4, 3], ports := 1, portOut := [1], portIn := [2], pos0 := 0, formTimeout := 10, stallLimit := 5 }

def stageF : StageFields :=
  { tag := 4, ctx := 1, consumer := false, peer := 4, peerCtx := 2, ports := 1, port := [1], slots := 2, itemBytes := 64, base := 0, formTimeout := 10,
    stallLimit := 5 }

/-- A formed group's formation. -/
def formed : Form := { state := 1, inOk := [], sealIn := true, sealSent := true, pkt := none }

def eddyG : Eddy := { f := eddyF, form := formed, circ := 1, op := none, blocks := [], ownSent := 0, credit := 0, granted := 0, freed := 0 }

def tradeG : Trade := { (default : Trade) with f := tradeF, form := formed, states := List.replicate 64 GroupState.zero }

def expxG : Expx := { (default : Expx) with f := expxF, form := formed }

def stageG : StageQ := { (default : StageQ) with f := stageF, form := formed, credit := 2 }

/-- A linked module with one group, ring or queue of each kind. -/
def grouped : State :=
  { linked with eddy := [(gkey 1 4, eddyG)], trade := [(gkey 1 4, tradeG)], expx := [(gkey 1 4, expxG)], stageQ := [(gkey 1 4, stageG)] }

/-- The two ends of a local stage queue, in contexts 1 and 2. -/
def localEnd (consumer : Bool) : StageFields :=
  { stageF with ctx := if consumer then 2 else 1, consumer := consumer, peer := 3, peerCtx := if consumer then 1 else 2, ports := 0, port := [] }

/-- A linked module with two contexts and, perhaps, the producing end in formation. -/
def halfQueue (b : Bool) : State :=
  { linked with ctxs := [(1, cx), (2, { cx with positions := [] })],
                stageQ := if b then [(gkey 1 4, { (default : StageQ) with f := localEnd false, form := Form.new hd 0 })] else [] }

theorem witness_GroupCreatesMakeGroups : Ready linked hd 1 ∧ (kvGet 1 linked.ctxs).isSome = true ∧
    (EddyFields_ok eddyF = true ∧ (linked.eddyOf 1).isNone = true ∧ linked.eddy.length < 16 ∧
      (∀ n ∈ eddyF.portOut.take 1 ++ eddyF.portIn.take 1, linked.portFree n = true) ∧ linked.portsBad [2, 1] = none ∧
      (eddyView eddyF).ins.map Prod.fst ++ (eddyView eddyF).outs = [2, 1]) ∧
    (TradeFields_ok tradeF = true ∧ (linked.tradeOf 1).isNone = true ∧ linked.trade.length < 4 ∧
      (∀ n ∈ (tradePortUse tradeF).map Prod.fst, linked.portFree n = true) ∧ ((tradePortUse tradeF).map Prod.fst).Nodup ∧
      linked.portsBad ((tradeView tradeF).ins.map Prod.fst ++ (tradeView tradeF).outs) = none) ∧
    (ExpxFields_ok expxF = true ∧ (kvGet (gkey 1 4) linked.expx).isNone = true ∧ linked.framesFit (4096 * expxF.size) = true ∧ linked.portsBad ((expxView expxF).ins.map Prod.fst ++ (expxView expxF).outs) = none) ∧
    (StageFields_ok stageF linked.vl.moduleId = true ∧ linked.stageLocal stageF = false ∧ linked.stageQ = [] ∧ linked.stageCount < 256 ∧
      (∀ n ∈ stageF.port.take 1, linked.portFree n = true) ∧ linked.portsBad ((stageView 3 stageF).ins.map Prod.fst ++ (stageView 3 stageF).outs) = none) ∧
    (Ready (halfQueue false) hd 1 ∧ StageFields_ok (localEnd false) 3 = true ∧ (halfQueue false).stageLocal (localEnd false) = true ∧
      (halfQueue false).stageCount < 256 ∧ (kvGet (gkey 2 4) (halfQueue false).stageQ).isNone = true ∧ (kvGet 1 (halfQueue false).ctxs).isSome = true) ∧
    (Ready (halfQueue true) hd 1 ∧ StageFields_ok (localEnd true) 3 = true ∧ (halfQueue true).stageLocal (localEnd true) = true ∧
      (halfQueue true).stagePaired (localEnd true) = true ∧ (kvGet (gkey 2 4) (halfQueue true).stageQ).isNone = true ∧ (kvGet 2 (halfQueue true).ctxs).isSome = true ∧
      ((halfQueue true).stageQ.filter fun e => e.1 / 2 ^ 32 == 2).length < 64 ∧
      has (kvGet (gkey 1 4) (halfQueue true).stageQ) (fun o => o.form.state == 0 && ((halfQueue true).stageLocal o.f && (o.f.peerCtx == 2 &&
        (!o.f.consumer && (o.f.slots == 2 && o.f.itemBytes == 64))))) = true) := by
  decide +kernel

theorem witness_GroupsAreAskedReadAndDropped :
    (Ready grouped hd 1 ∧ kvGet (gkey 1 4) grouped.eddy = some eddyG ∧ kvGet (gkey 1 4) grouped.trade = some tradeG ∧
      kvGet (gkey 1 4) grouped.expx = some expxG ∧ kvGet (gkey 1 4) grouped.stageQ = some stageG ∧ grouped.stageOp 1 4 = none) ∧
    (eddyG.op = none ∧ eddyG.form.pkt = none ∧ tradeG.op = none ∧ tradeG.form.pkt = none ∧ expxG.op = none ∧ expxG.form.pkt = none ∧ stageG.form.pkt = none) ∧
    (Ready grouped hd (1 + 4) ∧ (grouped.tradeOf 1).isSome = true ∧ 60 + 4 ≤ 64 ∧ (zeros 256).length = 64 * 4 ∧ (chunks 64 4 (zeros 256)).all stateRecordOk = true ∧
      grouped.tradeBusy 1 = false) := by
  decide +kernel

/-- A group that still forms. -/
def forming : State := { linked with eddy := [(gkey 1 4, { eddyG with form := { formed with state := 0, sealIn := false, sealSent := false, inOk := [2] } })] }

theorem witness_FormationRunsToItsEnd : ∃ (v : FormView) (f g : Form) (m n k : FormMsg) (s u : State), forming.formGet .eddy 1 4 = some (v, f) ∧ v.ctx = 1 ∧
    v.tag = 4 ∧ f.state = 0 ∧ v.rank ≠ 0 ∧ f.sealSent = false ∧ (∀ i ∈ v.ins, i.1 ∈ f.inOk) ∧
    v.ins.find? (fun x => x.1 == m.port) = some (2, 0, 4) ∧ m.size = v.size ∧ m.digest = v.digest ∧ m.rank = 0 ∧ forming.portPeer 2 = some 4 ∧
    n.size = v.size ∧ n.digest ≠ v.digest ∧ s.formGet .eddy 1 4 = some (v, g) ∧ g.state = 0 ∧ g.sealSent = true ∧
    u.formGet .eddy 1 4 = some (v, f) ∧ k.digest = v.digest ∧ u.portPeer 2 ≠ some 4 := by
  have d : (eddyView eddyF).digest + 1#128 ≠ (eddyView eddyF).digest := by
    intro h
    simp at h
  exact ⟨eddyView eddyF, _, { formed with state := 0, sealIn := true }, { proto := .eddy, ctx := 1, port := 2, tag := 4, size := 2, rank := 0, digest := (eddyView eddyF).digest },
    { proto := .eddy, ctx := 1, port := 2, tag := 4, size := 2, rank := 0, digest := (eddyView eddyF).digest + 1#128 },
    { proto := .eddy, ctx := 1, port := 2, tag := 4, size := 2, rank := 0, digest := (eddyView eddyF).digest },
    { linked with eddy := [(gkey 1 4, { eddyG with form := { formed with state := 0, sealIn := true } })] },
    { forming with ports := List.replicate 16 { up with peerId := 5 } },
    rfl, rfl, rfl, rfl, by decide, rfl, by decide +kernel, by decide +kernel, rfl, rfl, rfl, by decide +kernel, rfl, d, rfl, rfl, rfl, rfl, rfl, by decide +kernel⟩

/-- A read that holds and met no poison. -/
theorem ok_clean {α : Type} {e : Rd α} (h : holds e (fun r => r.2 == none) = true) : ∃ a, e = .ok (a, none) := by
  obtain ⟨⟨a, q⟩, rfl, hq⟩ := ok_and h
  cases q with
  | none => exact ⟨a, rfl⟩
  | some _ => cases hq

/-! ## Matrix engine -/

/-- Memory with some bytes of the page, by offset in ascending order. -/
def filled (l : List (Nat × List Byte)) : List (Nat × Byte) :=
  (l.flatMap fun x => (enumFrom 0 x.2).map fun b => ((9 * gib + x.1 + b.1, b.2) : Nat × Byte)).filter fun c => c.2 != 0#8

/-- A read that holds, met no poison and passes a check. -/
def reads {α : Type} (e : Rd α) (f : α → Bool) : Bool := holds e fun r => r.2 == none && f r.1

theorem read_and {α : Type} {e : Rd α} {f : α → Bool} (h : reads e f = true) : ∃ a, e = .ok (a, none) ∧ f a = true := by
  obtain ⟨⟨a, q⟩, rfl, hq⟩ := ok_and h
  rw [Bool.and_eq_true] at hq
  cases q with
  | none => exact ⟨a, rfl, hq.2⟩
  | some _ => cases hq.1

/-- A dense FP32 tensor of `m` rows and `n` columns at byte `k` of the page. -/
def ten (k m n : Nat) : TDesc :=
  { (default : TDesc) with addr := va k, fmt := 1, rank := 2, token := 0xFFFF, dims := [m, n], strides := [4 * n] }

/-- A product of one element, one claim range in object 5. -/
def matF : MatF :=
  { (default : MatF) with m := 1, n := 1, k := 1, tileM := 1, tileN := 1, aFmt := 1, bFmt := 1, outFmt := 1, kSplit := 1, claimWidth := 1, rangeCount := 1,
                          rangeSo := [5], rangeEnd := [1], aDesc := 10, bDesc := 11, outDesc := 12 }

def matTs : KV TDesc := [(10, ten 0x2000 1 1), (11, ten 0x3000 1 1), (12, ten 0x4000 1 1)]

/-- A module with the claim object at some index. -/
def claims (n : Nat) : State := withObj (obj 4 n 0)

/-- A position's unit 0 with its progress. -/
def tile (w : TileWork) (m : MatProg) : State := { begun (claims 1) (.matmul matF) matTs (.mat m) with tiles := [(ckey 1 0, w)] }

/-- Unit 0, nothing loaded. -/
def fresh : TileWork :=
  { op := 0, claimed := [], unit := some 0, chunk := 0, staged := [], group := 0, acc := [], attempt := 0, num := NumStat.zero, poisoned := false }

/-- Unit 0 with 1 and 1 staged. -/
def staged : TileWork := { fresh with chunk := 1, staged := [([[0x3F800000]], [[0x3F800000]])], acc := List.replicate 1024 Entry.zero }

/-- The claim of an operation that has begun, at some index, while position 1 still holds a unit. -/
def claiming (n : Nat) : State :=
  { begun (claims n) (.matmul matF) matTs (.mat MatProg.start) with tiles := [(ckey 1 1, fresh)] }

/-- A history of one finite entry, at byte 0x40000 of the page, and tensors of which the output keeps it. -/
def histTs : KV TDesc := [(10, ten 0x2000 1 1), (11, ten 0x3000 1 1), (12, { ten 0x4000 1 1 with fmt := 2, shist := va 0x40000 })]
def withHist (n : Nat) : State := { claims 0 with mem := filled [(0x40000 + 64, [BitVec.ofNat 8 n])] }

/-- The last claim of an operation that has begun, every unit claimed. -/
def lastClaim : State := begun (claims 1) (.matmul matF) matTs (.mat MatProg.start)

theorem witness_MatmulUnitsRunToCommit :
    (OpStarts (due (claims 0) (.matmul matF) matTs) (due (claims 0) (.matmul matF) matTs) 1 0 (plan [.matmul matF, mark] matTs) (run [OpRun.new, OpRun.new]) (.matmul matF) ∧
      (plan [.matmul matF, mark] matTs).matHist matF = none ∧ matF.ranges = 1 ∧ kvGet (nth matF.rangeSo 0) (claims 0).sos = some (obj 4 0 0)) ∧
    (∀ n : Nat, n < 2 → OpStarts (due (withHist n) (.matmul matF) histTs) (due (withHist n) (.matmul matF) histTs) 1 0 (plan [.matmul matF, mark] histTs) (run [OpRun.new, OpRun.new]) (.matmul matF) ∧
      ∃ d l, (plan [.matmul matF, mark] histTs).matHist matF = some d ∧ (due (withHist n) (.matmul matF) histTs).rdBytes 1 d.shist 128 = .ok (l, none) ∧
        (n = 0 → shHistory d.fmt l = none) ∧
        (n = 1 → ∃ sc v, shHistory d.fmt l = some sc ∧ (due (withHist n) (.matmul matF) histTs).wrBytes 1 (d.shist + 68) (leBytes 4 sc.toNat) = .ok v)) ∧
    (∀ n : Nat, n < 2 → ∃ x p r, (claiming n).matOp 1 0 = some (x, p, r, matF, MatProg.start) ∧ p = plan [.matmul matF, mark] matTs) ∧
    (∀ n : Nat, n < 2 → ((claiming n).coreOf 1 0 = some 0 ∧ (claiming n).spansWait 1 (opReads (plan [.matmul matF, mark] matTs) (.matmul matF)) = false ∧
      kvGet (ckey 1 0) (claiming n).tiles = none ∧ kvGet (ckey 1 0) (claiming n).att = none ∧
      nextRange (0 / 48 % matF.ranges) matF.ranges 0 MatProg.start.exhausted = some 0 ∧
      kvGet (nth matF.rangeSo 0) (claiming n).sos = some (obj 4 n 0) ∧ n + matF.width ≤ 2 ^ 64 - 1 ∧ matF.width ≤ 65535 ∧ nth matF.rangeEnd 0 = 1 ∧
      matF.grpCount = 0 ∧ (claiming n).unitsLeft 1 0 = true)) ∧
    (∃ w v, (claiming 0).nextUnit 1 (plan [.matmul matF, mark] matTs) matF (TileWork.fresh 0) (claimIndices 0 matF.width (nth matF.rangeEnd 0)) = .ok w ∧
      w.unit = some v) ∧
    (∃ x p r po q, lastClaim.matOp 1 0 = some (x, p, r, matF, MatProg.start) ∧ lastClaim.opOf 1 0 = some (x, p, r, po, q) ∧ q.poisoned = false ∧
      q.poisonAt = none ∧ q.dup = false ∧ MoreOps r 0 ∧ RecordOpen lastClaim 1 0 r ∧ p.matHist matF = none ∧ lastClaim.unitsLeft 1 0 = false ∧
      kvGet (ckey 1 0) lastClaim.tiles = none ∧ kvGet (nth matF.rangeSo 0) lastClaim.sos = some (obj 4 1 0) ∧
      ({ MatProg.start with exhausted := MatProg.start.exhausted ++ [(0, 0)] } : MatProg).allExhausted x.positions.length matF.ranges = true) ∧
    (∀ w : TileWork, w.unit = some 0 → w.op = 0 → ∃ x p r, (tile w MatProg.start).workOf 1 0 = some (w, x, p, r, matF, 0) ∧ p.tensors = matTs ∧ r.pad = 0) ∧
    (∃ (g : Geo) (a b : List (List Nat)) (e : List Entry × NumStat), let s := tile fresh MatProg.start
      s.tileGeo 1 (plan [.matmul matF, mark] matTs) matF (0 / matF.splits) = .ok (some g, none) ∧ s.coreOf 1 0 = some 0 ∧ s.mayLoad 0 = true ∧
      s.Takes 1 (chunkReads (plan [.matmul matF, mark] matTs) matF fresh 0 g) s ∧ fresh.poisoned = false ∧ fresh.staged.length < 2 ∧ 32 * (matF.span 0).1 + 256 * fresh.chunk = 0 ∧ min (0 + 256) (min matF.k (32 * (matF.span 0).2)) = 1 ∧
      s.rdChunk 1 (ten 0x2000 1 1) true matF g.row0 g.rows matF.tm 0 [0] = .ok (a, none) ∧
      s.rdChunk 1 ((ten 0x3000 1 1).shift (g.grp * matF.grpBBytes)) false matF g.col0 g.cols matF.tn 0 [0] = .ok (b, none) ∧
      s.loadC 1 (plan [.matmul matF, mark] matTs) matF g 0 = .ok (e, none)) ∧
    (staged.attempt = 0 ∧ staged.staged = [([[0x3F800000]], [[0x3F800000]])] ∧ ({ staged with attempt := 2 } : TileWork).attempt = 2) ∧
    (∃ (g : Geo) (s' : State) (w' : TileWork) (v : Nat) (y : Ctx) (p : Plan) (r : Run), let w : TileWork := { staged with staged := [], group := 1, claimed := [0] }
      let s := tile w MatProg.start
      s.mayStore 0 = true ∧ s.rebuildDue (s.physSpans 1 (s.tileWrites 1 (plan [.matmul matF, mark] matTs) matF 0)) = false ∧
      s.matOp 1 0 = some (y, p, r, matF, MatProg.start) ∧ (matF.span (0 % matF.splits)).2 ≤ w.group ∧ MatProg.start.commit.contains 0 = false ∧
      s.granted 1 0 (plan [.matmul matF, mark] matTs) matF g 0 w = .ok s' ∧ w.poisoned = false ∧ w.attempt < 2 ∧
      s'.nextUnit 1 (plan [.matmul matF, mark] matTs) matF w w.claimed = .ok w' ∧ w'.unit = some v) ∧
    (({ MatProg.start with commit := [0] } : MatProg).commit.contains 0 = true ∧ matF.grpCount = 0) ∧
    (w0.Canonical ∧ (w0.pos? 1 0).bind Position.resident? = some (0, 0) ∧ kvGet 1 w0.ctxs = some cx ∧ 65534 + [Entry.zero, Entry.zero].length ≤ partEnt cx.part ∧
      65534 % 2 = 0 ∧ 0 < 2 ^ min cx.part 2) := by
  let g : Geo := ⟨0, 0, 0, 1, 0, 1, 0⟩
  have due2 : ∀ n, n < 2 → (due (withHist n) (.matmul matF) histTs).mayIssue 1 0 = true := by decide +kernel
  have hist : ∀ n, n < 2 → reads ((due (withHist n) (.matmul matF) histTs).rdBytes 1 (va 0x40000) 128) (fun l =>
      (decide (n = 0) && (shHistory 2 l).isNone) || (decide (n = 1) && has (shHistory 2 l) fun sc =>
        holds ((due (withHist n) (.matmul matF) histTs).wrBytes 1 (va 0x40000 + 68) (leBytes 4 sc.toNat)) fun _ => true)) = true := by decide +kernel
  have in2 : ∀ n, n < 2 → inside (due (withHist n) (.matmul matF) histTs) ((due (withHist n) (.matmul matF) histTs).physSpans 1
      (opHeads (plan [.matmul matF, mark] histTs) (.matmul matF))) = true := by decide +kernel
  refine ⟨⟨due_starts _ _ _ (by decide +kernel) (by decide +kernel), by decide +kernel⟩, fun n h => ⟨due_starts _ _ _ (due2 n h) (in2 n h), ?_⟩, ?_, ?_, ⟨_, 0, rfl, rfl⟩,
    ⟨_, _, _, _, _, rfl, rfl, rfl, rfl, rfl, ⟨1, _, by decide, rfl, by decide⟩, record_open rfl rfl (.inl rfl), rfl, by decide +kernel, rfl, rfl, by decide +kernel⟩,
    ?_, ?_, by decide +kernel, ?_, ⟨by decide, rfl⟩, rfl, rfl, rfl, by decide +kernel⟩
  · obtain ⟨l, a, k⟩ := read_and (e := (due (withHist n) (.matmul matF) histTs).rdBytes 1 (va 0x40000) 128) (f := fun l =>
      (decide (n = 0) && (shHistory 2 l).isNone) || (decide (n = 1) && has (shHistory 2 l) fun sc =>
        holds ((due (withHist n) (.matmul matF) histTs).wrBytes 1 (va 0x40000 + 68) (leBytes 4 sc.toNat)) fun _ => true)) (hist n h)
    refine ⟨_, l, rfl, a, fun z => ?_, fun z => ?_⟩
    · subst z
      simpa using k
    · subst z
      obtain ⟨sc, b, k⟩ := some_and (by simpa using k)
      obtain ⟨v, k⟩ := ok_some k
      exact ⟨sc, v, b, k⟩
  · intro n _
    exact ⟨_, _, _, rfl, rfl⟩
  · decide +kernel
  · intro w h o
    obtain ⟨op, cl, u, ch, st, gr, ac, at_, nu, po⟩ := w
    subst h o
    exact ⟨_, _, _, rfl, rfl, rfl⟩
  · obtain ⟨a, ha⟩ := ok_clean (e := (tile fresh MatProg.start).rdChunk 1 (ten 0x2000 1 1) true matF g.row0 g.rows matF.tm 0 [0]) (by decide +kernel)
    obtain ⟨b, hb⟩ := ok_clean (e := (tile fresh MatProg.start).rdChunk 1 ((ten 0x3000 1 1).shift (g.grp * matF.grpBBytes)) false matF g.col0 g.cols matF.tn 0 [0])
      (by decide +kernel)
    exact ⟨g, a, b, _, rfl, rfl, rfl, takes_inside _ _ _ (by decide +kernel) (by decide +kernel), rfl, by decide, rfl, rfl, ha, hb, rfl⟩
  · obtain ⟨s', h⟩ := ok_some (e := (tile { staged with staged := [], group := 1, claimed := [0] } MatProg.start).granted 1 0 (plan [.matmul matF, mark] matTs) matF g 0
      { staged with staged := [], group := 1, claimed := [0] }) (by decide +kernel)
    obtain ⟨w', hw, hu⟩ := ok_and (f := fun w => w.unit == some 0) (e := s'.nextUnit 1 (plan [.matmul matF, mark] matTs) matF
      { staged with staged := [], group := 1, claimed := [0] } [0]) rfl
    exact ⟨g, s', w', 0, _, _, _, rfl, by decide +kernel, rfl, by decide, rfl, h, rfl, by decide, hw, eq_of_beq hu⟩

/-! ## Vector engine and special functions -/

/-- An instruction word on every lane, its results in registers 30 and 31. -/
def vw : VWord := { stream := 0, d := 30, a := 1, b := 2, c := 3, p := 0, pall := true, range := false, fmt := 1, tensor := false, imm := 0 }

/-- Two words of one stream, run twice. -/
def vecF (op : Nat) (w : VWord) : VecF :=
  { (default : VecF) with streams := 1, words := [BitVec.ofNat 64 (vwPack w op), BitVec.ofNat 64 (vwPack vw 1)], iter := 2 }

/-- The stream at its first word in some iteration. -/
def vecP (k : Nat) : VecProg := { VecProg.start 1 (w0.vecRegs 1) with streams := [{ word := 0, iter := k, waitSfu := false, sfuDone := [] }] }

/-- A tensor of three elements. -/
def vecT : KV TDesc := [(10, ten 0x2000 1 3)]

/-- A vector operation in progress at an instruction. -/
def vecAt (op : Nat) (w : VWord) (k : Nat) : State := begun w0 (.vector (vecF op w)) vecT (.vec (vecP k))

/-- An environment of the first word of an instruction, and of the results that fit behind its register D. -/
def atWord (op : Nat) (w : VWord) (k : Nat) (e : VEnv) : Bool :=
  e.w == w && e.f == vecF op w && e.st == 0 && e.wi == 0 && nextWord e.f.words e.st (e.wi + 1) == some 1 && e.last == decide (k = 1) && e.v == vecP k &&
    e.part == 0 && (e.active ((vecAt op w k).vecRegs e.c)).length == 64 && e.c == 1 && e.p.tenIdx 0 == some (ten 0x2000 1 3)

/-- The elements of the tensor that a word's lanes reach. -/
def vecSpans (s : State) (e : VEnv) : List (Nat × Nat) :=
  ((e.active (s.vecRegs e.c)).filter fun x => decide (e.elem x < (ten 0x2000 1 3).elems)).map fun x => (ten 0x2000 1 3).elemRange (e.elem x)

/-- Is nothing in the way of a load or store of them? -/
def opens (s : State) (e : VEnv) : Bool :=
  s.mayLoad e.core && (s.mayStore e.core && (inside s (s.physSpans e.c (vecSpans s e)) && !s.rebuildDue (s.physSpans e.c (vecSpans s e))))

/-- Results of one or two registers fit behind register 30. -/
theorem fits2 {op k : Nat} {e : VEnv} (h : atWord op vw k e = true) (s : State) (g : VecRegs → Nat × Nat × Nat → List Entry)
    (n : ∀ v x, (g v x).length ≤ 2) : e.Fits s g := by
  have w : e.w = vw := by
    simp only [atWord, Bool.and_eq_true] at h
    simpa using h.1.1.1.1.1.1.1.1.1.1
  intro x _
  have := n (s.vecRegs e.c) x
  rw [w]
  show 30 + _ ≤ 32
  omega

theorem witness_VectorLanesCompute :
    ((due w0 (.vector (vecF 1 vw)) []).mayIssue 1 0 = true ∧ (due w0 (.vector (vecF 1 vw)) []).vecOp 1 = none ∧
      (plan [.vector (vecF 1 vw), mark] []).histStores (vecF 1 vw) = []) ∧
    ∀ op ∈ [0x01, 0x02, 0x03, 0x04, 0x05, 0x06, 0x07, 0x08, 0x11, 0x18, 0x20, 0x21, 0x48], ∃ e, (vecAt op vw 0).vecEnv ⟨1, 0, .pass⟩ op vw = some e ∧
      atWord op vw 0 e = true ∧ ∀ g, (∀ v x, (g v x).length ≤ 2) → e.Fits (vecAt op vw 0) g := by
  have h : [0x01, 0x02, 0x03, 0x04, 0x05, 0x06, 0x07, 0x08, 0x11, 0x18, 0x20, 0x21, 0x48].all (fun op =>
      has ((vecAt op vw 0).vecEnv ⟨1, 0, .pass⟩ op vw) (atWord op vw 0)) = true := by decide +kernel
  refine ⟨by decide +kernel, fun op m => ?_⟩
  obtain ⟨e, a, b⟩ := some_and (List.all_eq_true.mp h op m)
  exact ⟨e, a, b, fits2 b _⟩

/-- The same word with predicate 5 as its destination, and one that loads or stores the tensor. -/
def vwPred : VWord := { vw with d := 5 }
def vwTen : VWord := { vw with tensor := true }

theorem witness_VectorPredicatesLoadsAndStores :
    (∀ op ∈ [0x01, 0x05, 0x10, 0x18, 0x29, 0x30, 0x38, 0x40], ∃ e, (vecAt op vw 0).vecEnv ⟨1, 0, .fail⟩ op vw = some e ∧ e.f.inplace ≠ 1 ∧
      e.v.attempt < 2) ∧
    (∃ e, (vecAt 0x29 vwTen 0).vecEnv ⟨1, 0, .fail⟩ 0x29 vwTen = some e ∧ e.f.inplace ≠ 1 ∧ e.v.attempt < 2 ∧ (vecAt 0x29 vwTen 0).mayStore e.core = true ∧
      (vecAt 0x29 vwTen 0).rebuild = [] ∧ (vecAt 0x29 vwTen 0).rowDue = [] ∧ (vecAt 0x29 vwTen 0).hi.want = []) ∧
    (∀ op ∈ [0x10, 0x12, 0x13], ∃ e, (vecAt op vwPred 0).vecEnv ⟨1, 0, .pass⟩ op vwPred = some e ∧ atWord op vwPred 0 e = true) ∧
    (∃ e, (vecAt 0x28 vw 0).vecEnv ⟨1, 0, .pass⟩ 0x28 vw = some e ∧ atWord 0x28 vw 0 e = true ∧ e.spFault (e.active ((vecAt 0x28 vw 0).vecRegs e.c)) = none ∧
      ∀ g, (∀ v x, (g v x).length ≤ 2) → e.Fits (vecAt 0x28 vw 0) g) ∧
    (∃ e, (vecAt 0x28 vwTen 0).vecEnv ⟨1, 0, .pass⟩ 0x28 vwTen = some e ∧ atWord 0x28 vwTen 0 e = true ∧ (vecAt 0x28 vwTen 0).mayLoad e.core = true ∧
      (vecAt 0x28 vwTen 0).Takes e.c (vecSpans (vecAt 0x28 vwTen 0) e) (vecAt 0x28 vwTen 0) ∧
      ∃ rd : Nat → List Byte, ∀ k, k < 3 → (vecAt 0x28 vwTen 0).rdBytes 1 ((ten 0x2000 1 3).atFlat k) 4 = .ok (rd k, none)) ∧
    (∃ e, (vecAt 0x2A vw 1).vecEnv ⟨1, 0, .pass⟩ 0x2A vw = some e ∧ atWord 0x2A vw 1 e = true ∧
      ∀ x ∈ e.active ((vecAt 0x2A vw 1).vecRegs e.c), bits vw.imm 0 16 + 16 * (bits vw.imm 16 9 * e.t.iter + x.1) + x.2.1 < partEnt e.part) ∧
    (∃ e, (vecAt 0x29 vw 0).vecEnv ⟨1, 0, .pass⟩ 0x29 vw = some e ∧ atWord 0x29 vw 0 e = true ∧ e.spFault (e.active ((vecAt 0x29 vw 0).vecRegs e.c)) = none ∧
      (vecAt 0x29 vw 0).Canonical ∧ (vecAt 0x29 vw 0).poison = [] ∧ hostBase + (vecAt 0x29 vw 0).hi.winSize * gib ≤ coreBase) ∧
    (∃ e s', (vecAt 0x29 vwTen 0).vecEnv ⟨1, 0, .pass⟩ 0x29 vwTen = some e ∧ atWord 0x29 vwTen 0 e = true ∧
      (vecAt 0x29 vwTen 0).mayStore e.core = true ∧
      (vecAt 0x29 vwTen 0).rebuildDue ((vecAt 0x29 vwTen 0).physSpans e.c (vecSpans (vecAt 0x29 vwTen 0) e)) = false ∧
      (vecAt 0x29 vwTen 0).vstTensor e (vwTen.imm % 2 ^ 20) (ten 0x2000 1 3) = .ok s') := by
  have h : [0x10, 0x12, 0x13].all (fun op => has ((vecAt op vwPred 0).vecEnv ⟨1, 0, .pass⟩ op vwPred) (atWord op vwPred 0)) = true := by decide +kernel
  have q : [0x01, 0x05, 0x10, 0x18, 0x29, 0x30, 0x38, 0x40].all (fun op => has ((vecAt op vw 0).vecEnv ⟨1, 0, .fail⟩ op vw) fun e =>
      decide (e.f.inplace ≠ 1 ∧ e.v.attempt < 2)) = true := by decide +kernel
  refine ⟨fun op m => (some_and (List.all_eq_true.mp q op m)).imp fun e h => ⟨h.1, of_decide_eq_true h.2⟩,
    ?_, fun op m => some_and (List.all_eq_true.mp h op m), ?_, ?_, ?_, ?_, ?_⟩
  · obtain ⟨e, a, b⟩ := some_and (o := (vecAt 0x29 vwTen 0).vecEnv ⟨1, 0, .fail⟩ 0x29 vwTen) (f := fun e =>
      decide (e.f.inplace ≠ 1 ∧ e.v.attempt < 2 ∧ (vecAt 0x29 vwTen 0).mayStore e.core = true)) (by decide +kernel)
    have b := of_decide_eq_true b
    exact ⟨e, a, b.1, b.2.1, b.2.2, rfl, rfl, rfl⟩
  · obtain ⟨e, a, b⟩ := some_and (o := (vecAt 0x28 vw 0).vecEnv ⟨1, 0, .pass⟩ 0x28 vw)
      (f := fun e => atWord 0x28 vw 0 e && (e.spFault (e.active ((vecAt 0x28 vw 0).vecRegs e.c))).isNone) (by decide +kernel)
    rw [Bool.and_eq_true, Option.isNone_iff_eq_none] at b
    exact ⟨e, a, b.1, b.2, fits2 b.1 _⟩
  · obtain ⟨e, a, b⟩ := some_and (o := (vecAt 0x28 vwTen 0).vecEnv ⟨1, 0, .pass⟩ 0x28 vwTen) 
      (f := fun e => atWord 0x28 vwTen 0 e && opens (vecAt 0x28 vwTen 0) e) (by decide +kernel)
    simp only [opens, Bool.and_eq_true, Bool.not_eq_true'] at b
    exact ⟨e, a, b.1, b.2.1, takes_inside _ _ _ b.2.2.2.1 b.2.2.2.2, fun _ => zeros 4, by decide +kernel⟩
  · obtain ⟨e, a, b⟩ := some_and (o := (vecAt 0x2A vw 1).vecEnv ⟨1, 0, .pass⟩ 0x2A vw) (f := fun e => atWord 0x2A vw 1 e &&
      (e.active ((vecAt 0x2A vw 1).vecRegs e.c)).all fun x => decide (bits vw.imm 0 16 + 16 * (bits vw.imm 16 9 * e.t.iter + x.1) + x.2.1 < partEnt e.part))
      (by decide +kernel)
    rw [Bool.and_eq_true] at b
    exact ⟨e, a, b.1, fun x hx => of_decide_eq_true (List.all_eq_true.mp b.2 x hx)⟩
  · obtain ⟨e, a, b⟩ := some_and (o := (vecAt 0x29 vw 0).vecEnv ⟨1, 0, .pass⟩ 0x29 vw) (f := fun e => atWord 0x29 vw 0 e &&
      ((e.spFault (e.active ((vecAt 0x29 vw 0).vecRegs e.c))).isNone)) (by decide +kernel)
    simp only [Bool.and_eq_true, Option.isNone_iff_eq_none] at b
    exact ⟨e, a, b.1, b.2, by decide +kernel, rfl, by decide⟩
  · obtain ⟨e, a, b⟩ := some_and (o := (vecAt 0x29 vwTen 0).vecEnv ⟨1, 0, .pass⟩ 0x29 vwTen) (f := fun e => atWord 0x29 vwTen 0 e &&
      (opens (vecAt 0x29 vwTen 0) e && holds ((vecAt 0x29 vwTen 0).vstTensor e (vwTen.imm % 2 ^ 20) (ten 0x2000 1 3)) fun _ => true)) (by decide +kernel)
    simp only [opens, Bool.and_eq_true, Bool.not_eq_true'] at b
    obtain ⟨s', h⟩ := ok_some b.2.2
    exact ⟨e, s', a, b.1, b.2.1.2.1, b.2.1.2.2.2, h⟩

theorem witness_VectorReductionsAndSorts :
    (∀ op ∈ [0x30, 0x50], ∃ e, (vecAt op vw 1).vecEnv ⟨1, 0, .pass⟩ op vw = some e ∧ atWord op vw 1 e = true) ∧
    (∀ op ∈ [0x30, 0x50, 0x3A], ∃ e, (vecAt op vw 0).vecEnv ⟨1, 0, .pass⟩ op vw = some e ∧ atWord op vw 0 e = true) ∧
    (∀ op ∈ [0x3A, 0x38], ∃ e, (vecAt op vw 1).vecEnv ⟨1, 0, .pass⟩ op vw = some e ∧ atWord op vw 1 e = true) ∧
    ∃ e, (vecAt 0x39 { vw with d := 28 } 0).vecEnv ⟨1, 0, .pass⟩ 0x39 { vw with d := 28 } = some e ∧ atWord 0x39 { vw with d := 28 } 0 e = true ∧
      sortedRun false false ((e.active ((vecAt 0x39 { vw with d := 28 } 0).vecRegs e.c)).map fun x =>
        (((vecAt 0x39 { vw with d := 28 } 0).vecRegs e.c).get 1 x.2.2, ((vecAt 0x39 { vw with d := 28 } 0).vecRegs e.c).get 2 x.2.2)) = true := by
  have h : [0x30, 0x50, 0x3A, 0x38].all (fun op => has ((vecAt op vw 1).vecEnv ⟨1, 0, .pass⟩ op vw) (atWord op vw 1)) = true := by decide +kernel
  have k : [0x30, 0x50, 0x3A].all (fun op => has ((vecAt op vw 0).vecEnv ⟨1, 0, .pass⟩ op vw) (atWord op vw 0)) = true := by decide +kernel
  have w {op n : Nat} {s : State} {w : VWord} {l : List Nat} (h : l.all (fun op => has ((vecAt op w n).vecEnv ⟨1, 0, .pass⟩ op w) (atWord op w n)) = true)
      (m : op ∈ l) : ∃ e, (vecAt op w n).vecEnv ⟨1, 0, .pass⟩ op w = some e ∧ atWord op w n e = true := some_and (List.all_eq_true.mp h op m)
  refine ⟨fun op m => some_and (List.all_eq_true.mp h op ?_), fun op m => some_and (List.all_eq_true.mp k op m), fun op m => some_and (List.all_eq_true.mp h op ?_), ?_⟩
  · simp only [List.mem_cons] at m ⊢
    tauto
  · simp only [List.mem_cons] at m ⊢
    tauto
  · obtain ⟨e, a, b⟩ := some_and (o := (vecAt 0x39 { vw with d := 28 } 0).vecEnv ⟨1, 0, .pass⟩ 0x39 { vw with d := 28 }) (f := fun e => atWord 0x39 { vw with d := 28 } 0 e &&
      sortedRun false false ((e.active ((vecAt 0x39 { vw with d := 28 } 0).vecRegs e.c)).map fun x =>
        (((vecAt 0x39 { vw with d := 28 } 0).vecRegs e.c).get 1 x.2.2, ((vecAt 0x39 { vw with d := 28 } 0).vecRegs e.c).get 2 x.2.2))) (by decide +kernel)
    rw [Bool.and_eq_true] at b
    exact ⟨e, a, b.1, b.2⟩

/-- A request of lane group 1 for a slot, on two lanes. -/
def sfuReq (slot : Nat) : SfuReq :=
  { ctx := 1, op := 0, pos := 0, att := false, stream := 0, group := 1, slot := slot, d := 31, lanes := [16, 31],
    args := [(default, default, default), (default, default, default)] }

/-- A core whose function unit has some requests before it and in flight. -/
def sfuOn (reqs : List SfuReq) (l : List SfuRun) : State := { w0 with sfu := [(0, { ptr := 2, reqs := reqs, granted := l })] }

/-- A micro-program of one step. -/
def oneStep (x : BitVec 32) : MicroProg :=
  { slot := 33, steps := [x], results := 1, segs := 1, segsel := 0, mono := 0, monoLo := 0, monoHi := 0, consts := [], table := [], digest := 0,
    digestOk := true }

/-- A request for that program, one lane at its start and one past its end, and one of a built-in function. -/
def stepping : SfuRun := ⟨sfuReq 33, [MpLane.start false 0, { MpLane.start false 0 with pc := 64 }]⟩
def builtIn : SfuRun := ⟨sfuReq 10, []⟩

/-- A core whose function unit has granted both. -/
def granted (x : BitVec 32) : State := { sfuOn [] [builtIn, stepping, builtIn] with mpStore := [(1 * 64 + 33, oneStep x)] }

def stepW : StepWord := { d := 1, a := 2, b := 3, c := 4, imm := 5 }

theorem witness_SpecialFunctionUnitServes :
    (∃ e, (vecAt 0x40 vw 0).vecEnv ⟨1, 0, .pass⟩ 0x40 vw = some e ∧ atWord 0x40 vw 0 e = true ∧
      (e.sfuGroups ((vecAt 0x40 vw 0).vecRegs e.c)).filter (fun g => !e.t.sfuDone.contains g) ≠ []) ∧
    (let s : State := sfuOn [sfuReq 0] [builtIn]
     s.running = true ∧ (s.sfuAt 0).pick = some (sfuReq 0)) ∧
    (let s : State := sfuOn [] [builtIn]
     s.halted = false ∧ (s.sfuAt 0).granted.find? s.sfuRan = some builtIn ∧ builtIn.req.att = false ∧ (sfuReq 10).slot ≤ 10 ∧ (sfuReq 10).d < 32 ∧
       (sfuReq 10).lanes.Nodup ∧ (sfuReq 10).lanes.length = (sfuReq 10).args.length) ∧
    (let q : SfuReq := { sfuReq 0 with att := true, d := 7, lanes := [0], args := [(default, default, default)] }
     let s : State := { sfuOn [] [⟨q, []⟩] with att := [(ckey 1 0, { AttWork.start 0 7 1 32 with sfu := some [0, 1] })] }
     (s.sfuAt 0).granted.find? s.sfuRan = some ⟨q, []⟩ ∧ (kvGet (ckey 1 0) s.att).map AttWork.unit = some q.d) ∧
    ∀ op : Nat, op < 15 → ((granted (BitVec.ofNat 32 (swPack stepW op))).halted = false ∧
      ((granted (BitVec.ofNat 32 (swPack stepW op))).sfuAt 0).granted = [builtIn] ++ stepping :: [builtIn] ∧
      (granted (BitVec.ofNat 32 (swPack stepW op))).mpDue (swPack stepW op) builtIn = none ∧
      (granted (BitVec.ofNat 32 (swPack stepW op))).mpOf (sfuReq 33) = some (oneStep (BitVec.ofNat 32 (swPack stepW op))) ∧
      runPc 1 stepping.lanes = some 0 ∧ (BitVec.ofNat 32 (swPack stepW op)).toNat = swPack stepW op) := by
  refine ⟨?_, by decide +kernel, by decide +kernel, by decide +kernel, by decide +kernel⟩
  obtain ⟨e, a, b⟩ := some_and (o := (vecAt 0x40 vw 0).vecEnv ⟨1, 0, .pass⟩ 0x40 vw) (f := fun e => atWord 0x40 vw 0 e &&
    (e.sfuGroups ((vecAt 0x40 vw 0).vecRegs e.c)).filter (fun g => !e.t.sfuDone.contains g) != []) (by decide +kernel)
  rw [Bool.and_eq_true, bne_iff_ne] at b
  exact ⟨e, a, b.1, b.2⟩

/-! ## Attention -/

/-- A window ring of 64 slots and one head of depth 32 at byte 0x10000 of the page. -/
def ringAt (next staged owner : Nat) : RingHdr :=
  { w := 64, d := 32, heads := 1, next := next, staged := staged, owner := owner, stagePos := next, base := va 0x10000 }

/-- Its header's bytes. -/
def hdrBytes (h : RingHdr) : List Byte :=
  leBytes 4 h.w ++ leBytes 2 h.d ++ leBytes 2 h.heads ++ leBytes 4 h.next ++ leBytes 1 h.staged ++ zeros 1 ++ leBytes 2 h.owner ++ leBytes 4 h.stagePos ++
    zeros 4 ++ leBytes 8 h.base

/-- An attention operation of one head of depth 32 on one query. -/
def attF (op kvSrc : Nat) : AttF :=
  { (default : AttF) with op := op, headDim := 32, qHeads := 1, kvHeads := 1, qLen := 1, kvLen := 1, kvSrc := kvSrc, window := 64, dqParts := 1, scale2 := 0x3F800000,
                          scale := 0x3F800000, qDesc := 10, kDesc := 11, vDesc := 12, oDesc := 13, lseDesc := 14, doDesc := 15, dqDesc := 16, dkDesc := 17,
                          dvDesc := 18, dqpDesc := 19, treeDesc := 20, pathDesc := 21, ringDesc := va 0x8000 }

/-- An FP32 tensor of two heads, `n` rows each of depth 32. -/
def ten3 (k n : Nat) : TDesc :=
  { (default : TDesc) with addr := va k, fmt := 1, rank := 3, token := 0xFFFF, dims := [2, n, 32], strides := [128 * n, 128] }

def attTs (n : Nat) : KV TDesc :=
  [(10, ten3 0x20000 n), (11, ten3 0x30000 n), (12, ten3 0x40000 n), (13, ten3 0x50000 n), (14, ten 0x60000 2 n), (15, ten3 0x70000 n), (16, ten3 0x80000 n),
   (17, ten3 0x90000 n), (18, ten3 0xA0000 n), (19, ten3 0xB0000 n), (20, ten 0x8100 1 1), (21, ten 0x8200 1 8)]

/-- A module whose memory holds a ring's header, a node's parent and a path. -/
def rung (h : RingHdr) (parent : Nat) (path : List Byte) : State :=
  { w0 with mem := filled [(0x8000, hdrBytes h), (0x8100, leBytes 1 parent), (0x8200, path)] }

/-- A path of the one node 0. -/
def path0 : List Byte := [1, 0] ++ zeros 30

/-- An operation has met no poison. -/
def clean (s : State) (c i : Nat) : Bool :=
  match s.opOf c i with
  | some (_, _, _, _, q) => !q.poisoned && (q.poisonAt.isNone && !q.dup)
  | none => false

theorem clean_shows {s : State} {c i : Nat} (h : clean s c i = true) : OpShows s c i fun q => q.poisoned = false ∧ q.poisonAt = none ∧ q.dup = false := by
  unfold clean at h
  split at h
  next e =>
    simp only [Bool.and_eq_true, Bool.not_eq_true', Option.isNone_iff_eq_none] at h
    exact ⟨_, _, _, _, _, e, h⟩
  next => cases h

theorem ring_fits : (ringAt 9 1 1).Fits (attF 4 2) 1 ∧ (ringAt (2 ^ 32 - 1) 1 1).Fits (attF 4 2) 1 ∧ (ringAt 9 1 1).Fits (attF 0 2) 1 :=
  ⟨⟨rfl, by decide, by decide, rfl, rfl, fun _ => rfl⟩, ⟨rfl, by decide, by decide, rfl, rfl, fun _ => rfl⟩, ⟨rfl, by decide, by decide, rfl, rfl, fun _ => rfl⟩⟩

/-- A plan of an attention operation. -/
def attPlan (f : AttF) : Plan := plan [.attention f, mark] (attTs 1)

/-- An attention operation due in some module starts where it stands. -/
def attStarts (s : State) (f : AttF) : Prop :=
  OpStarts (due s (.attention f) (attTs 1)) (due s (.attention f) (attTs 1)) 1 0 (attPlan f) (run [OpRun.new, OpRun.new]) (.attention f)

/-- Does it? -/
def attReady (s : State) (f : AttF) : Bool :=
  (due s (.attention f) (attTs 1)).mayIssue 1 0 &&
    inside (due s (.attention f) (attTs 1)) ((due s (.attention f) (attTs 1)).physSpans 1 (opHeads (attPlan f) (.attention f)))

theorem att_starts {s : State} {n m : Nat} (h : (List.range n).all (fun k => attReady s (attF k m)) = true) : ∀ k, k < n → attStarts s (attF k m) := fun k l => by
  have := below h k l
  unfold attReady at this
  rw [Bool.and_eq_true] at this
  exact due_starts _ _ _ this.1 this.2

theorem witness_AttentionOperationsBegin :
    (∀ k : Nat, k < 2 → attStarts linked (attF k 1) ∧ attStarts grouped (attF k 1)) ∧
    (due grouped (.attention (attF 0 1)) (attTs 1)).eddyOf 1 = some (gkey 1 4, eddyG) ∧ eddyG.form.state = 1 ∧ eddyG.op = none ∧
    (due linked (.attention (attF 0 1)) (attTs 1)).eddyOf 1 = none ∧
    (∀ k : Nat, k < 2 → attStarts w0 (attF k 0)) ∧
    (∀ k : Nat, k < 5 → (attStarts (rung (ringAt 9 1 1) 0xFF path0) (attF k 2) ∧
      (due (rung (ringAt 9 1 1) 0xFF path0) (.attention (attF k 2)) (attTs 1)).ringHeader 1 (va 0x8000) = .ok (ringAt 9 1 1, none))) ∧
    (due (rung (ringAt 9 1 2) 0xFF path0) (.attention (attF 4 2)) (attTs 1)).ringHeader 1 (va 0x8000) = .ok (ringAt 9 1 2, none) ∧
    (let s := due (rung (ringAt 9 0 1) 0xFF path0) (.attention (attF 2 2)) (attTs 1)
     s.treeParents 1 (attPlan (attF 2 2)) (attF 2 2) 1 = .ok ([0xFF], none) ∧ treeFails (ringAt 9 0 1) [0xFF] = none ∧
       treeFails (ringAt 9 0 1) [0] = some .verifyTree ∧ treeFails (ringAt (2 ^ 32 - 1) 0 1) [0xFF] = some .ringPosition ∧
       ∃ u v, (s.opBegin 1 0 .none).ringStores 1 0 (attPlan (attF 2 2)) (attF 2 2) (ringAt 9 0 1) true (fun n => (n, 9 + nth (treeDepths [0xFF]) n - 1)) = .ok u ∧
         u.ringFields 1 (va 0x8000) [(16, 4, 9), (12, 1, 1)] = .ok v) ∧
    (let s := due (rung (ringAt 9 0 1) 0xFF path0) (.attention (attF 3 2)) (attTs 1)
     9 + 1 - 1 < noDoc ∧ noDoc ≤ (2 ^ 32 - 1) + 1 - 1 ∧
       ∃ u v, (s.opBegin 1 0 .none).ringStores 1 0 (attPlan (attF 3 2)) (attF 3 2) (ringAt 9 0 1) false (fun n => ((9 + n) % 64, 9 + n)) = .ok u ∧
         u.ringFields 1 (va 0x8000) [(8, 4, 10), (12, 1, 0)] = .ok v ∧ OpShows v 1 0 fun q => q.poisoned = false ∧ q.poisonAt = none ∧ q.dup = false) ∧
    (let s := due (rung (ringAt 9 1 1) 0xFF path0) (.attention (attF 4 2)) (attTs 1)
     (attPlan (attF 4 2)).ten 21 = some (ten 0x8200 1 8) ∧ s.rdBytes 1 (va 0x8200) 32 = .ok (path0, none) ∧
       s.treeParents 1 (attPlan (attF 4 2)) (attF 4 2) 1 = .ok ([0xFF], none) ∧ pathOk (ringAt 9 1 1) path0 [0xFF] = true ∧
       pathOk (ringAt 9 1 1) ([17] ++ zeros 31) [0xFF] = false ∧
       ∃ u v, ((s.opBegin 1 0 .none).recoverRanges 1 ((ringAt 9 1 1).slotRanges true ((List.range (field path0 0 1)).map fun t => field path0 (1 + t) 1)) []).ringMoves 1 0 (ringAt 9 1 1) path0 = .ok u ∧ u.ringFields 1 (va 0x8000) [(8, 4, 10), (12, 1, 0)] = .ok v ∧
         OpShows v 1 0 fun q => q.poisoned = false ∧ q.poisonAt = none ∧ q.dup = false) := by
  have pair {e : Except OpErr State} {f : State → Except OpErr State} (h : holds e (fun u => holds (f u) fun v => clean v 1 0) = true) :
      ∃ u v, e = .ok u ∧ f u = .ok v ∧ OpShows v 1 0 fun q => q.poisoned = false ∧ q.poisonAt = none ∧ q.dup = false := by
    obtain ⟨u, a, b⟩ := ok_and h
    obtain ⟨v, b, k⟩ := ok_and b
    exact ⟨u, v, a, b, clean_shows k⟩
  have head : ∀ k, k < 5 → (due (rung (ringAt 9 1 1) 0xFF path0) (.attention (attF k 2)) (attTs 1)).ringHeader 1 (va 0x8000) = .ok (ringAt 9 1 1, none) := by decide +kernel
  refine ⟨fun k h => ⟨att_starts (n := 2) (by decide +kernel) k h, att_starts (n := 2) (by decide +kernel) k h⟩, rfl, rfl, rfl, rfl, att_starts (by decide +kernel),
    fun k h => ⟨att_starts (n := 5) (by decide +kernel) k h, head k h⟩, by decide +kernel, ⟨by decide +kernel, rfl, rfl, rfl, ?_⟩, ⟨by decide, by decide, pair (by decide +kernel)⟩,
    ⟨rfl, by decide +kernel, by decide +kernel, rfl, rfl, pair (by decide +kernel)⟩⟩
  obtain ⟨u, v, a, b, _⟩ := pair (e := ((due (rung (ringAt 9 0 1) 0xFF path0) (.attention (attF 2 2)) (attTs 1)).opBegin 1 0 .none).ringStores 1 0 (attPlan (attF 2 2))
    (attF 2 2) (ringAt 9 0 1) true (fun n => (n, 9 + nth (treeDepths [0xFF]) n - 1))) (f := fun u => u.ringFields 1 (va 0x8000) [(16, 4, 9), (12, 1, 1)])
    (by decide +kernel)
  exact ⟨u, v, a, b⟩

/-- An operation of two heads, so of two units. -/
def attU (op qLen mask : Nat) : AttF := { attF op 0 with qHeads := 2, qLen := qLen, mask := mask, kvPos0 := 100 * mask }

/-- That operation in progress, its position 0 with some work. -/
def attAt (f : AttF) (g : AttProg) (n : Nat) (l : KV AttWork) : State := { begun w0 (.attention f) (attTs n) (.att g) with att := l }

/-- Its environment. -/
def attE (f : AttF) (g : AttProg) (n : Nat) : AEnv := ⟨1, 0, plan [.attention f, mark] (attTs n), f, g, none⟩

def att0 : AttProg := AttProg.start none []

/-- Unit 0 of one row at its start. -/
def unit0 : AttWork := AttWork.start 0 0 1 32

/-- A unit that has all its results. -/
def unitFin : AttWork := { unit0 with fin := true, rows := [{ Row.start 32 with seen := true }] }

/-- Unit 0 before its exp2 requests, or with their results. -/
def unitSfu (b : Bool) : AttWork := { unit0 with sfu := if b then some [] else none }

theorem witness_AttentionUnitsRun :
    (let e := attE (attU 0 1 0) att0 1; let s := attAt (attU 0 1 0) att0 1 []
     s.attOp 1 0 = some e ∧ s.coreOf 1 0 = some 0 ∧ kvGet (ckey 1 0) s.att = none ∧ kvGet (ckey 1 0) s.tiles = none ∧ e.g.parked = [] ∧
       e.g.next < e.f.units ∧ e.f.back = false) ∧
    (let e := attE (attU 1 1 0) att0 1; let s := attAt (attU 1 1 0) att0 1 []
     s.attOp 1 0 = some e ∧ s.coreOf 1 0 = some 0 ∧ e.g.next < e.f.units ∧ e.f.back = true ∧
       ∃ u, wrAll (fun s q => e.wrPartial s 0 0 q (List.replicate e.f.headDim ⟨0, false, false, false, 0⟩)) (s.attSet 1 0 (AttWork.start 0 0 0 0)) (List.range e.f.qLen) = .ok u) ∧
    (let e := attE (attU 0 1 1) att0 1; let s := attAt (attU 0 1 1) att0 1 [(ckey 1 0, unit0)]
     s.attWork 1 0 = some (unit0, e, 0) ∧ unit0.fin = false ∧ (e.f.rowsIn 32 0) = [0] ∧ s.attRecover e 64 0 0 (e.fwdReads 0 0 0 [0]) [] = s ∧
       s.rebuildDue (s.physSpans 1 (e.fwdReads 0 0 0 [0])) = false ∧ s.mayLoad 0 = true ∧
       ∃ qs qd near, rdAll (fun i => e.row s e.f.qDesc [0, i]) [0] = .ok (qs, none) ∧ rdAll (fun i => e.docAt s (e.docIdx i)) [0] = .ok (qd, none) ∧
         e.keyRefs s 64 0 0 false = .ok (near, none) ∧ e.f.skips false ([0].map e.qPos) [] near = true) ∧
    (∀ b : Bool, let e := attE (attU 0 1 0) att0 1; let s := attAt (attU 0 1 0) att0 1 [(ckey 1 0, unitSfu b)]
     s.attWork 1 0 = some (unitSfu b, e, 0) ∧ s.attRecover e 64 0 0 (e.fwdReads 0 0 0 [0]) [] = s ∧
       s.rebuildDue (s.physSpans 1 (e.fwdReads 0 0 0 [0])) = false ∧ s.mayLoad 0 = true ∧ s.attOp 1 0 = some e ∧ e.present 64 0 0 = true ∧
       (unitSfu b).attempt < 2 ∧
       ∃ qs qd near refs kv, rdAll (fun i => e.row s e.f.qDesc [0, i]) [0] = .ok (qs, none) ∧ rdAll (fun i => e.docAt s (e.docIdx i)) [0] = .ok (qd, none) ∧
         e.keyRefs s 64 0 0 false = .ok (near, none) ∧ e.f.skips false ([0].map e.qPos) [] near = false ∧ e.keyRefs s 64 0 0 true = .ok (refs, none) ∧
         e.f.skips true ([0].map e.qPos) qd refs = false ∧ rdAll (e.keyRow s 64 0 0) refs = .ok (kv, none) ∧
         e.probs { unitSfu b with loaded := true, num := (unitSfu b).num.addFlush ((qs.map Prod.snd).sum) } [0] qs qd refs kv ≠ 0) ∧
    (let e := attE (attU 1 65 1) att0 65; let s := attAt (attU 1 65 1) att0 65 [(ckey 1 0, unit0)]
     s.attWork 1 0 = some (unit0, e, 0) ∧ e.f.back = true ∧ (e.partBlocks 0)[0]? = some 0 ∧ unit0.qb + 1 < ceilDiv e.f.qLen 64 ∧
       s.attRecover e 32 0 0 (e.backReads 0 0 0 0 (e.f.rowsIn 64 0)) [] = s ∧
       s.rebuildDue (s.physSpans 1 (e.backReads 0 0 0 0 (e.f.rowsIn 64 0))) = false ∧ s.mayLoad 0 = true ∧ s.mayStore 0 = true ∧
       ∃ qd near, rdAll (fun i => e.docAt s (e.docIdx i)) (e.f.rowsIn 64 0) = .ok (qd, none) ∧ e.keyRefs s 32 0 0 false = .ok (near, none) ∧
         e.f.skips false ((e.f.rowsIn 64 0).map e.qPos) [] near = true) ∧
    (∀ b : Bool, let e := attE (attU 1 1 0) att0 1; let s := attAt (attU 1 1 0) att0 1 [(ckey 1 0, unitSfu b)]
     s.attWork 1 0 = some (unitSfu b, e, 0) ∧ s.attOp 1 0 = some e ∧ (e.partBlocks 0)[0]? = some 0 ∧ e.f.rowsIn 64 0 = [0] ∧ e.present 32 0 0 = true ∧
       (unitSfu b).attempt < 2 ∧ s.attRecover e 32 0 0 (e.backReads 0 0 0 0 [0]) [] = s ∧
       s.rebuildDue (s.physSpans 1 (e.backReads 0 0 0 0 [0])) = false ∧ s.mayLoad 0 = true ∧ s.mayStore 0 = true ∧
       ∃ qd near refs rs kv dqs u, rdAll (fun i => e.docAt s (e.docIdx i)) [0] = .ok (qd, none) ∧ e.keyRefs s 32 0 0 false = .ok (near, none) ∧
         e.f.skips false ([0].map e.qPos) [] near = false ∧ e.keyRefs s 32 0 0 true = .ok (refs, none) ∧ e.f.skips true ([0].map e.qPos) qd refs = false ∧
         rdAll (e.backRow s 0) [0] = .ok (rs, none) ∧ rdAll (e.keyRow s 32 0 0) refs = .ok (kv, none) ∧ rdAll (e.rdPartial s 0 0) [0] = .ok (dqs, none) ∧
         e.pairs [0] qd refs ≠ 0 ∧ e.backApply s 0 0 0 0 true { unitSfu b with sfu := none } [0] qd rs refs kv dqs = .ok u) ∧
    (let e := attE (attU 0 1 0) att0 1; let s := attAt (attU 0 1 0) att0 1 [(ckey 1 0, unitFin)]
     s.attWork 1 0 = some (unitFin, e, 0) ∧ s.workOf 1 0 = none ∧ unitFin.fin = true ∧ e.eg = none ∧ unitFin.poisoned = false ∧ unitFin.attempt < 2 ∧
       s.rebuildDue (s.physSpans 1 (e.unitWrites 0)) = false ∧ s.mayStore 0 = true ∧ (∃ u, u < e.f.units ∧ u ≠ unitFin.unit ∧ e.g.commit.contains u = false) ∧
       ∃ u, (((s.attDo 1 0 fun g => { g with commit := insNat 0 g.commit }).opCount 1 0 unitFin.num).attWrite e unitFin 0 0) = .ok u) ∧
    (let g : AttProg := { att0 with commit := [0] }; let e := attE (attU 0 1 0) g 1; let s := attAt (attU 0 1 0) g 1 [(ckey 1 0, unitFin)]
     s.attWork 1 0 = some (unitFin, e, 0) ∧ (∃ u, u < e.f.units ∧ u ≠ unitFin.unit ∧ e.g.commit.contains u = false) ∧ e.g.commit.contains unitFin.unit = true) ∧
    (let g : AttProg := { att0 with commit := [0, 1] }; let e := attE (attU 1 1 0) g 1; let s := attAt (attU 1 1 0) g 1 []
     s.attOp 1 0 = some e ∧ (∃ x p r q, s.opOf 1 0 = some (x, p, r, .attention e.f, q) ∧ MoreOps r 0 ∧ RecordOpen s 1 0 r) ∧ e.g.combined = false ∧ e.eg = none ∧
       (List.range e.f.units).all e.g.commit.contains = true ∧
       s.Takes 1 (e.p.rangesOf [e.f.dqpDesc]) s ∧
       s.rebuildDue (s.physSpans 1 (e.p.rangesOf [e.f.dqpDesc]) ++ s.physSpans 1 (e.p.rangesOf [e.f.dqDesc, e.f.dkDesc, e.f.dvDesc])) = false ∧
       ∃ u v, e.combineQueries s = .ok u ∧ e.combineBlocks u = .ok v ∧ OpShows v 1 0 fun q => q.poisoned = false ∧ q.poisonAt = none ∧ q.dup = false) := by
  have two : ∀ b : Bool, ((let s := attAt (attU 0 1 0) att0 1 [(ckey 1 0, unitSfu b)]
      s.rebuildDue (s.physSpans 1 ((attE (attU 0 1 0) att0 1).fwdReads 0 0 0 [0])) = false) ∧
      let s := attAt (attU 1 1 0) att0 1 [(ckey 1 0, unitSfu b)]
      s.rebuildDue (s.physSpans 1 ((attE (attU 1 1 0) att0 1).backReads 0 0 0 0 [0])) = false) ∧ ((attAt (attU 0 1 0) att0 1 [(ckey 1 0, unitSfu b)]).attRecover (attE (attU 0 1 0) att0 1) 64 0 0
        ((attE (attU 0 1 0) att0 1).fwdReads 0 0 0 [0]) [] = attAt (attU 0 1 0) att0 1 [(ckey 1 0, unitSfu b)] ∧
      (attAt (attU 1 1 0) att0 1 [(ckey 1 0, unitSfu b)]).attRecover (attE (attU 1 1 0) att0 1) 32 0 0 ((attE (attU 1 1 0) att0 1).backReads 0 0 0 0 [0]) [] =
        attAt (attU 1 1 0) att0 1 [(ckey 1 0, unitSfu b)]) ∧
      reads (rdAll (fun i => (attE (attU 0 1 0) att0 1).row (attAt (attU 0 1 0) att0 1 [(ckey 1 0, unitSfu b)]) 10 [0, i]) [0])
      (fun qs => reads (rdAll (fun i => (attE (attU 0 1 0) att0 1).docAt (attAt (attU 0 1 0) att0 1 [(ckey 1 0, unitSfu b)])
        ((attE (attU 0 1 0) att0 1).docIdx i)) [0]) fun qd =>
          reads ((attE (attU 0 1 0) att0 1).keyRefs (attAt (attU 0 1 0) att0 1 [(ckey 1 0, unitSfu b)]) 64 0 0 false) fun near =>
            !(attU 0 1 0).skips false ([0].map (attE (attU 0 1 0) att0 1).qPos) [] near &&
            reads ((attE (attU 0 1 0) att0 1).keyRefs (attAt (attU 0 1 0) att0 1 [(ckey 1 0, unitSfu b)]) 64 0 0 true) fun refs =>
              !(attU 0 1 0).skips true ([0].map (attE (attU 0 1 0) att0 1).qPos) qd refs &&
              reads (rdAll ((attE (attU 0 1 0) att0 1).keyRow (attAt (attU 0 1 0) att0 1 [(ckey 1 0, unitSfu b)]) 64 0 0) refs) fun kv =>
                (attE (attU 0 1 0) att0 1).probs { unitSfu b with loaded := true, num := (unitSfu b).num.addFlush ((qs.map Prod.snd).sum) } [0] qs qd refs kv != 0) = true ∧
      reads (rdAll (fun i => (attE (attU 1 1 0) att0 1).docAt (attAt (attU 1 1 0) att0 1 [(ckey 1 0, unitSfu b)]) ((attE (attU 1 1 0) att0 1).docIdx i)) [0])
      (fun qd => reads ((attE (attU 1 1 0) att0 1).keyRefs (attAt (attU 1 1 0) att0 1 [(ckey 1 0, unitSfu b)]) 32 0 0 false) fun near =>
        !(attU 1 1 0).skips false ([0].map (attE (attU 1 1 0) att0 1).qPos) [] near &&
        reads ((attE (attU 1 1 0) att0 1).keyRefs (attAt (attU 1 1 0) att0 1 [(ckey 1 0, unitSfu b)]) 32 0 0 true) fun refs =>
          !(attU 1 1 0).skips true ([0].map (attE (attU 1 1 0) att0 1).qPos) qd refs &&
          reads (rdAll ((attE (attU 1 1 0) att0 1).backRow (attAt (attU 1 1 0) att0 1 [(ckey 1 0, unitSfu b)]) 0) [0]) fun rs =>
            reads (rdAll ((attE (attU 1 1 0) att0 1).keyRow (attAt (attU 1 1 0) att0 1 [(ckey 1 0, unitSfu b)]) 32 0 0) refs) fun kv =>
              reads (rdAll ((attE (attU 1 1 0) att0 1).rdPartial (attAt (attU 1 1 0) att0 1 [(ckey 1 0, unitSfu b)]) 0 0) [0]) fun dqs =>
                (attE (attU 1 1 0) att0 1).pairs [0] qd refs != 0 && holds ((attE (attU 1 1 0) att0 1).backApply (attAt (attU 1 1 0) att0 1 [(ckey 1 0, unitSfu b)]) 0 0 0 0 true { unitSfu b with sfu := none } [0] qd rs refs
                  kv dqs) fun _ => true) = true := by decide +kernel
  refine ⟨⟨rfl, rfl, rfl, rfl, rfl, by decide, rfl⟩, ⟨rfl, rfl, by decide, rfl, ok_some (by decide +kernel)⟩, ⟨rfl, rfl, rfl, by decide +kernel, by decide +kernel, rfl, ?_⟩,
    fun b => ⟨rfl, (two b).2.1.1, (two b).1.1, rfl, rfl, rfl, show (0 : Nat) < 2 by decide, ?_⟩, ⟨rfl, rfl, rfl, by decide, by decide +kernel, by decide +kernel, rfl, rfl, ?_⟩,
    fun b => ⟨rfl, rfl, rfl, rfl, rfl, show (0 : Nat) < 2 by decide, (two b).2.1.2, (two b).1.2, rfl, rfl, ?_⟩, ⟨rfl, rfl, rfl, rfl, rfl, by decide, by decide +kernel, rfl, ⟨1, by decide, by decide, rfl⟩, ?_⟩,
    ⟨rfl, ⟨1, by decide, by decide, rfl⟩, rfl⟩, ⟨rfl, ⟨_, _, _, _, rfl, ⟨1, _, by decide, rfl, by decide⟩, record_open rfl rfl (.inl rfl)⟩, rfl, rfl, rfl,
      takes_inside _ _ _ (by decide +kernel) (by decide +kernel), by decide +kernel, ?_⟩⟩
  · obtain ⟨qs, a, h⟩ := read_and (e := rdAll (fun i => (attE (attU 0 1 1) att0 1).row (attAt (attU 0 1 1) att0 1 [(ckey 1 0, unit0)]) 10 [0, i]) [0])
      (f := fun _ => reads (rdAll (fun i => (attE (attU 0 1 1) att0 1).docAt (attAt (attU 0 1 1) att0 1 [(ckey 1 0, unit0)])
        ((attE (attU 0 1 1) att0 1).docIdx i)) [0]) fun _ =>
          reads ((attE (attU 0 1 1) att0 1).keyRefs (attAt (attU 0 1 1) att0 1 [(ckey 1 0, unit0)]) 64 0 0 false) fun near =>
            (attU 0 1 1).skips false ([0].map (attE (attU 0 1 1) att0 1).qPos) [] near) (by decide +kernel)
    obtain ⟨qd, b, h⟩ := read_and h
    obtain ⟨near, k, h⟩ := read_and h
    exact ⟨qs, qd, near, a, b, k, h⟩
  · obtain ⟨qs, a, h⟩ := read_and (two b).2.2.1
    obtain ⟨qd, d, h⟩ := read_and h
    obtain ⟨near, k, h⟩ := read_and h
    rw [Bool.and_eq_true, Bool.not_eq_true'] at h
    obtain ⟨refs, l, m⟩ := read_and h.2
    rw [Bool.and_eq_true, Bool.not_eq_true'] at m
    obtain ⟨kv, n, o⟩ := read_and m.2
    exact ⟨qs, qd, near, refs, kv, a, d, k, h.1, l, m.1, n, bne_iff_ne.mp o⟩
  · obtain ⟨qd, b, h⟩ := read_and (e := rdAll (fun i => (attE (attU 1 65 1) att0 65).docAt (attAt (attU 1 65 1) att0 65 [(ckey 1 0, unit0)])
        ((attE (attU 1 65 1) att0 65).docIdx i)) ((attU 1 65 1).rowsIn 64 0))
      (f := fun _ => reads ((attE (attU 1 65 1) att0 65).keyRefs (attAt (attU 1 65 1) att0 65 [(ckey 1 0, unit0)]) 32 0 0 false) fun near =>
        (attU 1 65 1).skips false (((attU 1 65 1).rowsIn 64 0).map (attE (attU 1 65 1) att0 65).qPos) [] near) (by decide +kernel)
    obtain ⟨near, k, h⟩ := read_and h
    exact ⟨qd, near, b, k, h⟩
  · obtain ⟨qd, a, h⟩ := read_and (two b).2.2.2
    obtain ⟨near, d, h⟩ := read_and h
    rw [Bool.and_eq_true, Bool.not_eq_true'] at h
    obtain ⟨refs, k, m⟩ := read_and h.2
    rw [Bool.and_eq_true, Bool.not_eq_true'] at m
    obtain ⟨rs, l, n⟩ := read_and m.2
    obtain ⟨kv, o, n⟩ := read_and n
    obtain ⟨dqs, q, n⟩ := read_and n
    rw [Bool.and_eq_true, bne_iff_ne] at n
    obtain ⟨u, t⟩ := ok_some n.2
    exact ⟨qd, near, refs, rs, kv, dqs, u, a, d, h.1, k, m.1, l, o, q, n.1, t⟩
  · exact ok_some (e := ((((attAt (attU 0 1 0) att0 1 [(ckey 1 0, unitFin)]).attDo 1 0 fun g => { g with commit := insNat 0 g.commit }).opCount 1 0
      unitFin.num).attWrite (attE (attU 0 1 0) att0 1) unitFin 0 0)) (by decide +kernel)
  · obtain ⟨u, a, h⟩ := ok_and (e := (attE (attU 1 1 0) { att0 with commit := [0, 1] } 1).combineQueries (attAt (attU 1 1 0) { att0 with commit := [0, 1] } 1 []))
      (f := fun u => holds ((attE (attU 1 1 0) { att0 with commit := [0, 1] } 1).combineBlocks u) fun v => clean v 1 0) (by decide +kernel)
    obtain ⟨v, b, h⟩ := ok_and h
    exact ⟨u, v, a, b, clean_shows h⟩

/-! ## Eddy ring -/

/-- A group of three in which this module is last, its operation in progress, and a landing credit in hand. -/
def eddyG3 (l : List EBlock) (sent : Nat) : Eddy :=
  { eddyG with f := { eddyF with size := 3, rank := 2, members := [5, 4, 3] }, op := some 0, credit := 1, blocks := l, ownSent := sent }

/-- An attention operation whose keys circulate. -/
def attC : AttF := { attF 0 1 with kvLen := 64 }

/-- That operation in progress in its group. -/
def circling (l : List EBlock) (sent : Nat) : State :=
  { begun linked (.attention attC) (attTs 64) (.att att0) with eddy := [(gkey 1 4, eddyG3 l sent)] }

/-- Its environment. -/
def circE (l : List EBlock) (sent : Nat) : AEnv := ⟨1, 0, plan [.attention attC, mark] (attTs 64), attC, att0, some (eddyG3 l sent)⟩

/-- The same, as the second operation of its run. -/
def circLate : State :=
  { linked with ctxs := [(1, busy [mark, .attention attC] (attTs 64) [OpRun.new, { OpRun.new with st := .begun, prog := .att att0 }])],
                eddy := [(gkey 1 4, { eddyG3 [] 0 with op := some 1 })] }

/-- A block of the member before this one, in some circulation. -/
def block (circ : Nat) : List Byte :=
  leBytes 4 circ ++ leBytes 8 3 ++ leBytes 2 1 ++ leBytes 2 0 ++ leBytes 4 0 ++ zeros 44 ++ zeros 8192

/-- That block as it lies in its slot. -/
def landed : EBlock := { rot := 1, loc := 0, head := 0, kind := 0, hdr := (block 1).take 64, sent := false, asked := false, poisoned := false }

/-- The circulation behind another one of the same operation's place, and one whose block is late by the whole stall limit. -/
def asked : State := { circling [] 0 with eddy := [(gkey 1 4, { eddyG3 [] 0 with prev := some (0, 3) })] }
def late : State := { circling [] 0 with refCount := 5000000 }

theorem witness_EddyRingCirculates :
    (let g := eddyG3 [] 0; let s := circling [] 0; let b := block 1
     (∃ r, s.circOf 1 = some (g, circE [] 0, r) ∧ r.step = 3) ∧ (g.f.rank + g.f.size - 1) % g.f.size = 1 ∧ field b 12 2 = 1 ∧ field b 16 4 = 0 ∧
       field b 14 2 = 0 ∧ field b 36 1 = 0 ∧ field b 0 4 = g.circ ∧ field b 4 8 = 3 ∧ b.length = eddyBytes 0 attC.headDim attC.docs ∧ 0 < g.per ∧
       0 < attC.kvHeads ∧ 1 ≠ g.f.rank ∧ 1 < g.f.size ∧ g.find 1 0 0 = none ∧ g.freed < 1 ∧ ∃ v, s.wrBytes 1 (g.blockAddr attC 1 0 0) b = .ok v) ∧
    (∃ g e r, circLate.circOf 1 = some (g, e, r) ∧ field (block 2) 0 4 ≠ g.circ ∧ field (block 2) 36 1 ≠ 3 ∧ EarlierOp r e.i ∧ RecordOpen circLate 1 e.i r) ∧
    (let g := eddyG3 [] 0; let s := circling [] 0
     s.circRuns 1 = true ∧ s.Takes 1 (opReads (plan [.attention attC, mark] (attTs 64)) (.attention attC)) s ∧ g.ownSent < g.per * attC.kvHeads ∧
       g.reach attC g.f.rank 0 = 2 ∧ 0 < g.credit ∧ attC.back = false ∧
       s.sharePort (g.f.portOut.take g.f.ports) 0 = some 1 ∧ ∃ b, (circE [] 0).ownBlock s g 3 0 0 0 false 0xFFFF = .ok (b, none)) ∧
    (let g := eddyG3 [landed] 1; let s := circling [landed] 1
     (∃ r, s.circOf 1 = some (g, circE [landed] 1, r)) ∧ s.circRuns 1 = true ∧ g.per * attC.kvHeads ≤ g.ownSent ∧ g.nextOut attC = some (1, 0, 0) ∧
       g.find 1 0 0 = some landed ∧ 1 < g.reach attC (g.owner 1) 0 ∧ bitOf (field landed.hdr 37 1) 1 = false ∧ landed.asked = false ∧ landed.poisoned = false ∧
       landed.kind ≠ 2 ∧ s = s.recoverRanges 1 [(g.blockAddr attC 1 0 0, eddyBytes landed.kind attC.headDim attC.docs)] [] ∧
       s.sharePort (g.f.portOut.take g.f.ports) 0 = some 1 ∧
       ∃ l, s.rdBytes 1 (g.blockAddr attC 1 0 0 + 64) (eddyBytes 0 attC.headDim attC.docs - 64) = .ok (l, none)) ∧
    (let s := circling [] 0
     ∃ g e r, (s.attEnd 1 0).circOf 1 = some (g, e, r) ∧ (s.attEnd 1 0).circRuns 1 = true ∧
       g.granted < ((List.range (min (g.lastRot attC) (g.freed + g.f.slots))).map fun t => (g.places attC (t + 1)).length).sum ∧
       (s.attEnd 1 0).sharePort (g.f.portIn.take g.f.ports) g.granted = some 2) ∧
    (let g := eddyG3 [] 0; let s := circling [] 0
     (4 : Nat) < 2 ^ 32 ∧ kvGet (gkey 1 4) s.eddy = some g ∧ s.sharePort (g.f.portOut.take g.f.ports) 0 = some 1 ∧
       s.sharePort (g.f.portIn.take g.f.ports) 0 = some 2 ∧ 0 ≠ g.f.rank ∧ 0 < g.per) ∧
    (∀ k : Nat, k < 2 → ∃ g2 e2 step b pa, asked.askedCirc 1 k = some (g2, e2, step) ∧ g2.f.rank = 2 ∧
       asked = asked.recoverRanges 1 (opReads e2.p (.attention e2.f)) [] ∧ e2.ownBlock asked g2 step 0 0 3 false 0 = .ok (b, pa)) ∧
    ((eddyG3 [] 0).f.stallLimit ≠ 0 ∧ kvGetD (stallKey 2 1 0) late.stalls (0, 0) = (0, 0) ∧ 0 + (0 + 1) * (eddyG3 [] 0).f.stallLimit * 1000000 ≤ late.refCount ∧
       ∃ g e r, late.circOf 1 = some (g, e, r) ∧ (r.ops[e.i]?.map OpRun.began).getD 0 ≤ 0) := by
  refine ⟨⟨⟨_, rfl, rfl⟩, by decide +kernel, rfl, rfl, rfl, rfl, rfl, rfl, by decide +kernel, by decide +kernel, by decide, by decide, by decide, rfl, by decide, ?_⟩,
    ⟨_, _, _, rfl, by decide +kernel, by decide +kernel, ⟨0, _, by decide, rfl, by decide⟩, record_open rfl rfl (.inr rfl)⟩,
    ⟨rfl, takes_inside _ _ _ (by decide +kernel) (by decide +kernel), by decide +kernel, by decide +kernel, by decide, rfl, by decide +kernel, ?_⟩,
    ⟨⟨_, rfl⟩, rfl, by decide, by decide +kernel, rfl, by decide +kernel, rfl, rfl, rfl, by decide, (State.recoverRanges_inside _ _ _ (by decide +kernel)).symm,
      by decide +kernel, ?_⟩, ?_, ⟨by decide, rfl, by decide +kernel⟩, ?_, ⟨by decide +kernel, rfl, by decide, _, _, _, rfl, by decide⟩⟩
  · exact ok_some (by decide +kernel)
  · exact ok_clean (e := (circE [] 0).ownBlock (circling [] 0) (eddyG3 [] 0) 3 0 0 0 false 0xFFFF) (by decide +kernel)
  · exact ok_clean (e := (circling [landed] 1).rdBytes 1 ((eddyG3 [landed] 1).blockAddr attC 1 0 0 + 64) (eddyBytes 0 attC.headDim attC.docs - 64)) (by decide +kernel)
  · obtain ⟨x, a, h⟩ := some_and (o := ((circling [] 0).attEnd 1 0).circOf 1) (f := fun x => ((circling [] 0).attEnd 1 0).circRuns 1 &&
      (decide (x.1.granted < ((List.range (min (x.1.lastRot attC) (x.1.freed + x.1.f.slots))).map fun t => (x.1.places attC (t + 1)).length).sum) &&
      ((circling [] 0).attEnd 1 0).sharePort (x.1.f.portIn.take x.1.f.ports) x.1.granted == some 2)) (by decide +kernel)
    rw [Bool.and_eq_true, Bool.and_eq_true, decide_eq_true_eq, beq_iff_eq] at h
    exact ⟨x.1, x.2.1, x.2.2, a, h⟩
  · intro k h
    have := below (n := 2) (f := fun k => has (asked.askedCirc 1 k) fun x => x.1.f.rank == 2 &&
      (inside asked (asked.physSpans 1 (opReads x.2.1.p (.attention x.2.1.f))) && holds (x.2.1.ownBlock asked x.1 x.2.2 0 0 3 false 0) fun _ => true))
      (by decide +kernel) k h
    obtain ⟨x, a, b⟩ := some_and this
    rw [Bool.and_eq_true, Bool.and_eq_true, beq_iff_eq] at b
    obtain ⟨r, d⟩ := ok_some b.2.2
    exact ⟨x.1, x.2.1, x.2.2, r.1, r.2, a, b.1, (asked.recoverRanges_inside 1 _ b.2.1).symm, d⟩

/-! ## Trade ring -/

/-- A ring of four in one node, in which this module is the second. -/
def tradeF4 : TradeFields := { tradeF with size := 4, members := [4, 3, 5, 6], node := 4, mesh := [3, 0, 5, 6] }

/-- A bucket of one element that another member owns. -/
def bucket (owner : Nat) : Bucket :=
  { Bucket.new [0, owner, 1, va 0xB000, va 0xC000, 0, va 0xA000, va 0xD000, 1] with e := some 0 }

/-- The ring with an operation in progress. -/
def tradeG4 (bs : List Bucket) : Trade :=
  { tradeG with f := tradeF4, op := some 0, started := true, amaxDone := true, buckets := bs, credit := 1, granted := 64 }

/-- A module with that ring and operation. -/
def trading (g : Trade) : State := { begun linked (.tradeReduce (va 0x9000) 1 0) [] .none with trade := [(gkey 1 4, g)] }

/-- Its run and environment. -/
def tradeR : Run := run [{ OpRun.new with st := .begun, prog := .none }, OpRun.new]
def tradeE (g : Trade) : TEnv := ⟨1, 0, tradeR, g, 0⟩

/-- A bucket table of one bucket of one element, its scale record at byte 0xA000 of the page. -/
def table : List Byte :=
  leBytes 8 (2 ^ 6 + 2 ^ 14) ++ leBytes 8 (va 0xB000) ++ leBytes 8 (va 0xC000) ++ zeros 8 ++ leBytes 8 (va 0xA000) ++ leBytes 8 (va 0xD000) ++ zeros 16

/-- A module whose memory holds that table. -/
def tabled : State := { linked with mem := filled [(0x9000, table)], trade := [(gkey 1 4, { tradeG with f := tradeF4 })] }

/-- A sent train that is kept. -/
def kept : SentTrain := { bucket := 0, idx := 0, port := 1, bytes := zeros 21, poison := false }

/-- A reduction or gather of that table. -/
def tradeOp (gather : Bool) : PlanOp := if gather then .tradeGather (va 0x9000) 1 0 else .tradeReduce (va 0x9000) 1 0

/-- It is due in some module, and starts where it stands. -/
def tradeStarts (s : State) (gather : Bool) : Prop :=
  OpStarts (due s (tradeOp gather) []) (due s (tradeOp gather) []) 1 0 (plan [tradeOp gather, mark] []) (run [OpRun.new, OpRun.new]) (tradeOp gather)

theorem trade_starts (s : State) (h : ∀ b, ((due s (tradeOp b) []).mayIssue 1 0 &&
    inside (due s (tradeOp b) []) ((due s (tradeOp b) []).physSpans 1 (opHeads (plan [tradeOp b, mark] []) (tradeOp b)))) = true) (b : Bool) : tradeStarts s b := by
  have := h b
  rw [Bool.and_eq_true] at this
  exact due_starts _ _ _ this.1 this.2

theorem witness_TradeOperationsRun :
    (∀ gather : Bool, tradeStarts linked gather ∧ (due linked (tradeOp gather) []).tradeOf 1 = none) ∧
    (∀ gather : Bool, tradeStarts tabled gather ∧ let s := due tabled (tradeOp gather) []
      s.tradeOf 1 = some (gkey 1 4, { tradeG with f := tradeF4 }) ∧ tradeG.form.state = 1 ∧ tradeG.early = [] ∧
        (∃ y ∈ (tradeView tradeF4).ins, s.portAlive y.1 = true) ∧
        s.rdBytes 1 (va 0x9000) 64 = .ok (table, none) ∧ ∃ bs, s.openBuckets 1 gather [bucketAt table 0] = .ok (bs, none)) ∧
    (({ linked with trade := [(gkey 1 4, tradeG)] } : State).tradeOf 1 = some (gkey 1 4, tradeG) ∧ tradeG.form.state = 1) ∧
    (let g := tradeG4 [bucket 0]; let s := trading g
     s.tradeEnv 1 = some (tradeE g) ∧ (tradeE g).Quiet ∧ g.started = true ∧ g.amaxDone = true ∧ g.gather = false ∧ s.circRuns 1 = true ∧ g.f.landTrains ≤ g.granted ∧
       g.nextTrain = some (0, bucket 0, none) ∧ (bucket 0).resid = 0 ∧ 0 < g.credit ∧ s.sharePort g.outs 0 = some 1 ∧
       s = s.recoverRanges 1 [((bucket 0).grad, 4 * (bucket 0).elems), ((bucket 0).resid, 8 * (bucket 0).elems)] [] ∧ s.rdBytes 1 (va 0xB000) 4 = .ok (zeros 4, none)) ∧
    (let g := tradeG4 [bucket 0]; let s := trading g
     s.tradeEnv 1 = some (tradeE g) ∧ g.early = [] ∧ g.started = true ∧ g.gather = false ∧ s.circRuns 1 = true ∧ g.f.rank + 1 ≠ g.f.size ∧ MoreOps tradeR 0 ∧ RecordOpen s 1 0 tradeR ∧
       OpShows s 1 0 fun q => q.poisoned = false ∧ q.dup = false) ∧
    (let g := { tradeG4 [bucket 0] with sent := [kept] }; let s := { trading g with refCount := 5000000 }
     s.tradeEnv 1 = some (tradeE g) ∧ s.ports[1]? ≠ none ∧ g.f.stallLimit ≠ 0 ∧
       g.sent.reverse.find? (fun y => y.bucket == 0 && y.idx == 0 && (y.port == 1 || !g.gather)) = some kept ∧
       kvGetD (stallKey 3 1 0) s.stalls (0, 0) = (0, 0) ∧ (tradeR.ops[0]?.map OpRun.began).getD 0 ≤ 0 ∧ 0 + (0 + 1) * g.f.stallLimit * 1000000 ≤ s.refCount) := by
  refine ⟨fun b => ⟨trade_starts _ (by decide +kernel) b, by cases b <;> rfl⟩, fun b => ⟨trade_starts _ (by decide +kernel) b, ?_⟩, ⟨rfl, rfl⟩,
    ⟨rfl, ⟨rfl, rfl⟩, rfl, rfl, rfl, rfl, by decide, by decide +kernel, rfl, by decide, by decide +kernel, (State.recoverRanges_inside _ _ _ (by decide +kernel)).symm,
      by decide +kernel⟩,
    ⟨rfl, rfl, rfl, rfl, rfl, by decide, ⟨1, _, by decide, rfl, by decide⟩, record_open rfl rfl (.inl rfl), ⟨_, _, _, _, _, rfl, rfl, rfl⟩⟩,
    ⟨rfl, by decide +kernel, by decide, by decide +kernel, rfl, by decide, by decide⟩⟩
  have h : ∀ b, (let s := due tabled (tradeOp b) []
      s.tradeOf 1 = some (gkey 1 4, { tradeG with f := tradeF4 }) ∧ tradeG.form.state = 1 ∧ tradeG.early = [] ∧ (∃ y ∈ (tradeView tradeF4).ins, s.portAlive y.1 = true) ∧
        s.rdBytes 1 (va 0x9000) 64 = .ok (table, none) ∧ holds (s.openBuckets 1 b [bucketAt table 0]) (fun r => r.2 == none) = true) := by
    decide +kernel
  obtain ⟨a, f, e, k, d, o⟩ := h b
  exact ⟨a, f, e, k, d, ok_clean o⟩

/-- A module with that ring as it was before its member started. -/
def opening : Trade := { tradeG4 [bucket 0] with started := false, amaxDone := false }

/-- A reduce train of one element. -/
def train1 : List Byte := leBytes 8 0 ++ leBytes 4 0 ++ leBytes 2 0 ++ leBytes 2 0 ++ leBytes 4 0 ++ zeros 1

theorem witness_TradeMessagesAct :
    (let s := trading opening
     s.tradeEnv 1 = some (tradeE opening) ∧ (tradeE opening).Quiet ∧ opening.opened.contains 2 = false ∧
       (∃ p ∈ opening.allIns, p ≠ 2 ∧ s.portAlive p = true ∧ opening.opened.contains p = false) ∧ tradeR.step = 3 ∧ MoreOps tradeR 0 ∧
       RecordOpen s 1 0 tradeR) ∧
    (let g := { tradeG4 [bucket 0] with amaxDone := false }; let s := trading g
     s.tradeEnv 1 = some (tradeE g) ∧ (tradeE g).Quiet ∧ s.circRuns 1 = true ∧ g.f.rank + 2 < g.f.size ∧
       (g.amaxTake []).buckets.any (fun b => b.verdict.isNone) = true) ∧
    (let g := tradeG4 [bucket 0]; let s := trading g
     s.tradeEnv 1 = some (tradeE g) ∧ g.buckets[field train1 8 3]? = some (bucket 0) ∧ g.headOk false train1 = true ∧
       (parseBody ((bucket 0).span 0 + 1) ((bucket 0).span 0) (train1.drop 20)).isSome = true ∧ field train1 16 2 = 0 ∧
       (bucket 0).landed.contains (field train1 11 1 / 64, 0) = false ∧ (bucket 0).attempt ≤ field train1 11 1 / 64 ∧ (bucket 0).verdict = none ∧
       (bucket 0).owner ≠ g.f.rank ∧ 0 < g.f.landTrains ∧ ∃ v, s.wrBytes 1 (g.slotAddr 0) train1 = .ok v) ∧
    (let g := tradeG4 [bucket 0, bucket 2]; let s := trading g
     s.tradeEnv 1 = some (tradeE g) ∧ (tradeE g).Quiet ∧ g.buckets[0]? = some (bucket 0) ∧ (tradeE g).Pends (some 0) ∧ (tradeE g).Pends none ∧ g.held = none ∧
       s.rdBytes 1 (va 0xA000) 64 = .ok (zeros 64, none) ∧ ∃ u, s.wrBytes 1 (va 0xA000) ((srCommit (zeros 64) 1 5 0).take 53) = .ok u) ∧
    (let b : Bucket := { bucket 1 with verdict := some .commit }; let g := tradeG4 [b]; let s := trading g
     s.tradeEnv 1 = some (tradeE g) ∧ (tradeE g).Quiet ∧ g.held = none ∧ g.contributed = false ∧ g.buckets.all (fun b => b.verdict.isSome) = true ∧ g.f.rank ≠ 0 ∧
       g.f.rank + 1 < g.f.size ∧ b.owner = g.f.rank ∧ s.rdBytes 1 b.out (4 * b.elems) = .ok (zeros 4, none)) ∧
    (let g := { tradeG4 [bucket 0, bucket 2] with gather := true }; let s := trading g
     s.tradeEnv 1 = some (tradeE g) ∧ (tradeE g).Quiet ∧
       (let l : List Byte := leBytes 8 0 ++ leBytes 4 0 ++ leBytes 2 4096 ++ zeros 6 ++ zeros 4
        g.buckets[field l 8 3]? = some (bucket 0) ∧ g.headOk true l = true ∧ (bucket 0).param ≠ 0 ∧ l.length - 20 = ((bucket 0).prange 0).2 ∧
          field l 16 2 = 0 ∧ g.holds 0 0 = false ∧ field l 0 8 = g.stepOf (bucket 0).group ∧
          ({ g with gheld := g.gheld ++ [{ bucket := 0, idx := 0, step := 0, body := none, poisoned := [] }] } : Trade).gatherDone = false ∧
          ∃ v, s.wrBytes 1 ((bucket 0).prange 0).1 (l.drop 20) = .ok v)) := by
  refine ⟨⟨rfl, ⟨rfl, rfl⟩, rfl, ⟨5, by decide, by decide, rfl, rfl⟩, rfl, ⟨1, _, by decide, rfl, by decide⟩, record_open rfl rfl (.inl rfl)⟩, ⟨rfl, ⟨rfl, rfl⟩, by decide +kernel⟩,
    ⟨rfl, rfl, by decide +kernel, by decide +kernel, rfl, rfl, by decide, rfl, by decide, by decide, ok_some (by decide +kernel)⟩,
    ⟨rfl, ⟨rfl, rfl⟩, rfl, ⟨1, bucket 2, by decide, rfl, rfl⟩, ⟨0, bucket 0, by decide, rfl, rfl⟩, rfl, by decide +kernel, ok_some (by decide +kernel)⟩,
    ⟨rfl, ⟨rfl, rfl⟩, rfl, rfl, rfl, by decide, by decide, rfl, by decide +kernel⟩,
    ⟨rfl, ⟨rfl, rfl⟩, rfl, by decide +kernel, by decide, by decide, rfl, rfl, rfl, by decide +kernel, ok_some (by decide +kernel)⟩⟩

/-! ## Parameter update -/

/-- An update behind the reduction of the table at byte 0x9000. -/
def updF : UpdF := { reduce := 0, groups := va 0xE000, state := va 0x10000, lscale := va 0x11000, claimSo := 5, numMode := 0 }

/-- A bucket state entry: masters, first and second moments, slots, one row and column. -/
def bsBytes : List Byte := leBytes 8 (va 0x12000) ++ leBytes 8 (va 0x13000) ++ leBytes 8 (va 0x14000) ++ leBytes 8 (va 0x15000) ++ leBytes 4 1 ++ leBytes 4 1 ++ zeros 24

/-- A module with a ring, the claim object at an index and, in memory, the bucket table, a group's first bytes, two state entries of the bucket and a block
statistic that is not a number. -/
def updS (n : Nat) (group : List Byte) : State :=
  { linked with mem := filled [(0x9000, table), (0xE000, group), (0x10000, bsBytes ++ bsBytes), (0x15000 + 64 + 4096, leBytes 4 0x7FC00000)],
                trade := [(gkey 1 4, { tradeG with f := tradeF4 })], sos := [(5, obj 4 n 0)] }

def updOps : List PlanOp := [.tradeReduce (va 0x9000) 1 0, .optUpdate updF, mark]

/-- The update due behind a reduction that ended with a status. -/
def updDue (s : State) (st : Status) : State :=
  { s with ctxs := [(1, busy updOps [] [{ OpRun.new with st := .ended, status := st }, OpRun.new, OpRun.new])] }

/-- The progress of an update of that bucket, once or twice. -/
def updU (group : List Byte) (n : Nat := 1) : UpdProg :=
  { groups := padTo 64 group :: List.replicate 63 (zeros 64), bks := List.replicate n (bucketAt table 0), held := [], attempts := [], done := [], exhausted := [],
    refreshing := false, sides := [], sidesDone := [], refreshed := 0, retries := 0, fallbacks := 0, scales := [] }

def updR (u : UpdProg) : Run := run [{ OpRun.new with st := .ended }, { OpRun.new with st := .begun, prog := .upd u }, OpRun.new]

/-- The update in progress. -/
def updating (s : State) (u : UpdProg) : State := { s with ctxs := [(1, { cx with plan := some (plan updOps []), run := some (updR u) })] }

def updE (u : UpdProg) : UEnv := ⟨1, 1, updR u, updF, u, { tradeG with f := tradeF4 }⟩

/-- A block preconditioner of root 2 and block 32, refreshed at every step. -/
def precond : List Byte := [2, 2, 32, 0, 1, 0]

/-- The bucket with its entry, once or twice. -/
def own (n : Nat) : List (Nat × List Nat × List Byte) := (List.range n).map fun k => (k, bucketAt table 0, bsBytes)

/-- The update behind a claim, and that it reads the claimed unit where it stands. -/
def claimedOf (s : State) (u : UpdProg) : State := (s.updClaim (updE u) 0).2

def takesUnit (s : State) (u : UpdProg) : Prop :=
  s.unitReady 1 1 0 = true ∧ claimedOf s u = (claimedOf s u).recoverRanges 1 ((updE u).reads (bucketAt table 0) bsBytes 0) [] ∧
    (claimedOf s u).rebuildDue ((claimedOf s u).physSpans 1 ((updE u).reads (bucketAt table 0) bsBytes 0) ++
      (claimedOf s u).physSpans 1 ((updE u).writes (bucketAt table 0) bsBytes 0)) = false

theorem takes_unit {s : State} {u : UpdProg} (h : (s.unitReady 1 1 0 &&
    (inside (claimedOf s u) ((claimedOf s u).physSpans 1 ((updE u).reads (bucketAt table 0) bsBytes 0)) &&
      !(claimedOf s u).rebuildDue ((claimedOf s u).physSpans 1 ((updE u).reads (bucketAt table 0) bsBytes 0) ++
        (claimedOf s u).physSpans 1 ((updE u).writes (bucketAt table 0) bsBytes 0)))) = true) : takesUnit s u := by
  rw [Bool.and_eq_true, Bool.and_eq_true, Bool.not_eq_true'] at h
  exact ⟨h.1, ((claimedOf s u).recoverRanges_inside 1 _ h.2.1).symm, h.2.2⟩

/-- The same of a side in the refresh phase. -/
def heldOf (s : State) (u : UpdProg) (k : Nat) : State := (claimedOf s u).updHold 1 1 0 k

def takesSide (s : State) (u : UpdProg) (k : Nat) (x : Nat × Nat × Nat) : Prop :=
  s.unitReady 1 1 0 = true ∧ heldOf s u k = (heldOf s u k).recoverRanges 1 ((heldOf s u k).sideSlot (updE u) x) [] ∧
    (heldOf s u k).rebuildDue ((heldOf s u k).physSpans 1 ((heldOf s u k).sideSlot (updE u) x)) = false

theorem takes_side {s : State} {u : UpdProg} {k : Nat} {x : Nat × Nat × Nat} (h : (s.unitReady 1 1 0 &&
    (inside (heldOf s u k) ((heldOf s u k).physSpans 1 ((heldOf s u k).sideSlot (updE u) x)) &&
      !(heldOf s u k).rebuildDue ((heldOf s u k).physSpans 1 ((heldOf s u k).sideSlot (updE u) x)))) = true) : takesSide s u k x := by
  rw [Bool.and_eq_true, Bool.and_eq_true, Bool.not_eq_true'] at h
  exact ⟨h.1, ((heldOf s u k).recoverRanges_inside 1 _ h.2.1).symm, h.2.2⟩

/-- The update due behind the reduction starts where it stands. -/
def updRun (st : Status) : Run := run [{ OpRun.new with st := .ended, status := st }, OpRun.new, OpRun.new]

theorem upd_starts {s : State} {st : Status} {x : Ctx} (e : kvGet 1 s.ctxs = some x) (q : x = busy updOps [] (updRun st).ops) (h : s.mayIssue 1 1 = true)
    (k : inside s (s.physSpans 1 (opHeads (plan updOps []) (.optUpdate updF))) = true) :
    OpStarts s s 1 1 (plan updOps []) (updRun st) (.optUpdate updF) := by
  subst q
  have o : s.opOf 1 1 = some (busy updOps [] (updRun st).ops, plan updOps [], updRun st, .optUpdate updF, OpRun.new) := by
    unfold State.opOf
    rw [e]
    rfl
  exact ⟨(s.opRecover_inside 1 1 _ o k).symm, _, _, o, h, rfl, rfl, rfl, ⟨2, _, by decide, rfl, by decide⟩, record_open e rfl (.inr rfl)⟩

/-- A unit's result, and what the claim behind it finds. -/
def unitRuns (n : Nat) (u : UpdProg) (f : State → List (Nat × List Nat × List Byte) → Bool) : Bool :=
  holds ((claimedOf (updating (updS n (u.groups.headD [])) u) u).runUnit (updE u) 0 none (0, bucketAt table 0, bsBytes, 0)) fun v =>
    reads (v.ownedBuckets (updE u)) fun o => f v o

theorem unit_and {n : Nat} {u : UpdProg} {f : State → List (Nat × List Nat × List Byte) → Bool} (h : unitRuns n u f = true) :
    ∃ v o, (claimedOf (updating (updS n (u.groups.headD [])) u) u).runUnit (updE u) 0 none (0, bucketAt table 0, bsBytes, 0) = .ok v ∧
      v.ownedBuckets (updE u) = .ok (o, none) ∧ f v o = true := by
  obtain ⟨v, a, h⟩ := ok_and h
  obtain ⟨o, b, h⟩ := read_and h
  exact ⟨v, o, a, b, h⟩

/-- What the end of an update does to its loss-scale record can be done, its operation clean. -/
def lossWritten (v : State) : Bool :=
  reads (v.rdBytes 1 updF.lscale 64) fun l => holds (v.wrBytes 1 updF.lscale ((lossScale l true).1.take 20)) fun _ => clean v 1 1

theorem loss_and {v : State} (h : lossWritten v = true) : ∃ l w, v.rdBytes 1 updF.lscale 64 = .ok (l, none) ∧
    v.wrBytes 1 updF.lscale ((lossScale l true).1.take 20) = .ok w ∧ OpShows v 1 1 fun q => q.poisoned = false ∧ q.poisonAt = none ∧ q.dup = false := by
  obtain ⟨l, a, h⟩ := read_and h
  obtain ⟨w, b, h⟩ := ok_and h
  exact ⟨l, w, a, b, clean_shows h⟩

/-- A claim of an update finds its environment, its core and its claim object. -/
def claimsUnit (s : State) (u : UpdProg) (n : Nat) : Prop :=
  s.updEnv 1 1 = some (updE u) ∧ s.coreOf 1 0 = some 0 ∧ u.exhausted.contains 0 = false ∧ kvGet 0 u.held = none ∧ kvGet updF.claimSo s.sos = some (obj 4 n 0)

/-- A ring all of whose groups stand at the largest step. -/
def maxRing : Trade := { tradeG with f := tradeF4, states := List.replicate 64 { GroupState.zero with step := 2 ^ 64 - 1 } }

theorem witness_ParameterUpdateRuns :
    (∀ st ∈ [Status.ok, .gradOverflow, .tradeSkew], OpStarts (updDue (updS 7 []) st) (updDue (updS 7 []) st) 1 1 (plan updOps []) (updRun st) (.optUpdate updF) ∧
      ((updRun st).ops[updF.reduce]?).map OpRun.status = some st) ∧
    (OpStarts (updDue linked .ok) (updDue linked .ok) 1 1 (plan updOps []) (updRun .ok) (.optUpdate updF) ∧ (updDue linked .ok).tradeOf 1 = none) ∧
    (∀ b : Bool, let s := updDue (updS 7 (if b then [] else [3])) .ok
      OpStarts s s 1 1 (plan updOps []) (updRun .ok) (.optUpdate updF)) ∧
    (updS 7 []).tradeOf 1 = some (gkey 1 4, { tradeG with f := tradeF4 }) ∧
    (∀ b : Bool, let s := updDue (updS 7 (if b then [] else [3])) .ok
      ∃ l, s.rdBytes 1 updF.groups 4096 = .ok (l, none) ∧ s.updTable 1 (plan updOps []) updF = .ok ([bucketAt table 0], none) ∧
        (updE { updU [] with groups := chunks 64 64 l }).paramsOk (own 1) = b ∧
        s.ownedBuckets (updE { updU [] with groups := chunks 64 64 l }) = .ok (own 1, none) ∧
        ((updE { updU [] with groups := chunks 64 64 l }).units (own 1)).length = 1 ∧ kvGet updF.claimSo s.sos = some (obj 4 7 0) ∧
        ∃ v, s.updScales (updE { updU [] with groups := chunks 64 64 l }) (own 1) = .ok v ∧
          v.ownedBuckets (updE { updU [] with groups := chunks 64 64 l }) = .ok (own 1, none)) ∧
    (let s : State := { updDue (updS 7 []) .ok with trade := [(gkey 1 4, maxRing)] }
     OpStarts s s 1 1 (plan updOps []) (updRun .ok) (.optUpdate updF) ∧ s.tradeOf 1 = some (gkey 1 4, maxRing) ∧ maxRing.stepOf (nth (bucketAt table 0) 0) = 2 ^ 64 - 1 ∧
       ∃ l, s.rdBytes 1 updF.lscale 64 = .ok (l, none)) ∧
    (let s := updDue (updS 7 []) .gradOverflow
     s.rdBytes 1 updF.lscale 64 = .ok (zeros 64, none) ∧ Status.gradOverflow.continues = true ∧ Status.tradeSkew.continues = true ∧
       ∃ v, s.wrBytes 1 updF.lscale ((lossScale (zeros 64) false).1.take 20) = .ok v) ∧
    (let u := updU [] 2; let s := updating (updS 0 (zeros 64)) u
     claimsUnit s u 0 ∧ s.ownedBuckets (updE u) = .ok (own 2, none) ∧ ((updE u).units (own 2))[0]? = some (0, bucketAt table 0, bsBytes, 0) ∧
       takesUnit s u ∧ (claimedOf s u).rdBytes 1 updF.lscale 64 = .ok (zeros 64, none) ∧ kvGetD 0 u.attempts 0 < 2 ∧
       ∃ v o, (claimedOf s u).runUnit (updE u) 0 none (0, bucketAt table 0, bsBytes, 0) = .ok v ∧ v.ownedBuckets (updE u) = .ok (o, none) ∧
         (insNat 0 u.done).length < ((updE u).units o).length) ∧
    (let u := updU precond; let s := updating (updS 0 (padTo 64 precond)) u
     claimsUnit s u 0 ∧ s.ownedBuckets (updE u) = .ok (own 1, none) ∧ ((updE u).units (own 1))[0]? = some (0, bucketAt table 0, bsBytes, 0) ∧
       takesUnit s u ∧ (claimedOf s u).rdBytes 1 updF.lscale 64 = .ok (zeros 64, none) ∧
       ∃ v o sides, (claimedOf s u).runUnit (updE u) 0 none (0, bucketAt table 0, bsBytes, 0) = .ok v ∧ v.ownedBuckets (updE u) = .ok (o, none) ∧
         ((updE u).units o).length ≤ (insNat 0 u.done).length ∧ v.sidesDue (updE u) o = .ok (sides, none) ∧ sides ≠ []) ∧
    (let u := updU []; let s := updating (updS 0 (zeros 64)) u
     claimsUnit s u 0 ∧ MoreOps (updR u) 1 ∧ RecordOpen s 1 1 (updR u) ∧ u.scales = [] ∧ takesUnit s u ∧ (claimedOf s u).rdBytes 1 updF.lscale 64 = .ok (zeros 64, none) ∧
       ∃ v o l w, (claimedOf s u).runUnit (updE u) 0 none (0, bucketAt table 0, bsBytes, 0) = .ok v ∧ v.ownedBuckets (updE u) = .ok (o, none) ∧
         ((updE u).units o).length ≤ (insNat 0 u.done).length ∧ (∀ x ∈ o, pgAlgo ((updE u).pg x.2.1) ≠ 2) ∧ v.rdBytes 1 updF.lscale 64 = .ok (l, none) ∧
         v.wrBytes 1 updF.lscale ((lossScale l true).1.take 20) = .ok w ∧ OpShows v 1 1 fun q => q.poisoned = false ∧ q.poisonAt = none ∧ q.dup = false) ∧
    (let u := updU []; let s := updating (updS 1 []) u
     claimsUnit s u 1 ∧ s.unitReady 1 1 0 = true ∧ s.ownedBuckets (updE u) = .ok (own 1, none) ∧ ((updE u).units (own 1)).length ≤ 1 ∧ u.done.length < ((updE u).units (own 1)).length) ∧
    (let u := { updU precond with refreshing := true, sides := [(0, 0, 0), (0, 0, 1)] }
     (let s := updating (updS 0 precond) u
      claimsUnit s u 0 ∧ u.sides[0]? = some (0, 0, 0) ∧ (insNat 0 u.sidesDone).length ≠ u.sides.length ∧ kvGetD 0 u.attempts 0 < 2 ∧
        takesSide s u 0 (0, 0, 0) ∧ ∃ v, (heldOf s u 0).runRefresh (updE u) false (0, 0, 0) = .ok v) ∧
     (claimsUnit (updating (updS 2 precond) u) u 2 ∧ (updating (updS 2 precond) u).unitReady 1 1 0 = true ∧ u.sides.length ≤ 2)) ∧
    (let u := { updU precond with refreshing := true, sides := [(0, 0, 0), (0, 0, 1)], sidesDone := [0], held := [(0, 1)] }; let s := updating (updS 2 precond) u
     s.updEnv 1 1 = some (updE u) ∧ s.coreOf 1 0 = some 0 ∧ u.exhausted.contains 0 = false ∧ kvGet 0 u.held = some 1 ∧ u.sides[1]? = some (0, 0, 1) ∧
       (insNat 1 u.sidesDone).length = u.sides.length ∧ MoreOps (updR u) 1 ∧ RecordOpen s 1 1 (updR u) ∧ takesSide s u 1 (0, 0, 1) ∧
       ∃ v o k g l w, (heldOf s u 1).runRefresh (updE u) false (0, 0, 1) = .ok v ∧ v.ownedBuckets (updE u) = .ok (o, none) ∧ v.tradeOf 1 = some (k, g) ∧
         v.rdBytes 1 updF.lscale 64 = .ok (l, none) ∧ v.wrBytes 1 updF.lscale ((lossScale l true).1.take 20) = .ok w ∧
         OpShows v 1 1 fun q => q.poisoned = false ∧ q.poisonAt = none ∧ q.dup = false) := by
  have may : (∀ st ∈ [Status.ok, .gradOverflow, .tradeSkew], (updDue (updS 7 []) st).mayIssue 1 1 = true ∧
        inside (updDue (updS 7 []) st) ((updDue (updS 7 []) st).physSpans 1 (opHeads (plan updOps []) (.optUpdate updF))) = true) ∧
      (let s : State := { updDue (updS 7 []) .ok with trade := [(gkey 1 4, maxRing)] }
       s.mayIssue 1 1 = true ∧ inside s (s.physSpans 1 (opHeads (plan updOps []) (.optUpdate updF))) = true) ∧
      ∀ b : Bool, let s := updDue (updS 7 (if b then [] else [3])) .ok
        s.mayIssue 1 1 = true ∧ inside s (s.physSpans 1 (opHeads (plan updOps []) (.optUpdate updF))) = true := by decide +kernel
  have more (u : UpdProg) : MoreOps (updR u) 1 := ⟨2, _, by decide, rfl, by decide⟩
  refine ⟨fun st m => ⟨upd_starts rfl rfl (may.1 st m).1 (may.1 st m).2, rfl⟩, ⟨upd_starts rfl rfl (by decide +kernel) (by decide +kernel), rfl⟩,
    fun b => upd_starts rfl rfl (may.2.2 b).1 (may.2.2 b).2, rfl, ?_,
    ⟨upd_starts rfl rfl may.2.1.1 may.2.1.2, rfl, by decide +kernel, ok_clean (by decide +kernel)⟩,
    ⟨by decide +kernel, rfl, rfl, ok_some (by decide +kernel)⟩,
    ⟨⟨rfl, rfl, rfl, rfl, rfl⟩, by decide +kernel, by decide +kernel, takes_unit (by decide +kernel), by decide +kernel, by decide, ?_⟩,
    ⟨⟨rfl, rfl, rfl, rfl, rfl⟩, by decide +kernel, by decide +kernel, takes_unit (by decide +kernel), by decide +kernel, ?_⟩,
    ⟨⟨rfl, rfl, rfl, rfl, rfl⟩, more _, record_open rfl rfl (.inr rfl), rfl, takes_unit (by decide +kernel), by decide +kernel, ?_⟩,
    ⟨⟨rfl, rfl, rfl, rfl, rfl⟩, by decide +kernel⟩,
    ⟨⟨⟨rfl, rfl, rfl, rfl, rfl⟩, rfl, by decide, by decide, takes_side (by decide +kernel), ok_some (by decide +kernel)⟩, ⟨rfl, rfl, rfl, rfl, rfl⟩, by decide +kernel⟩,
    ⟨rfl, rfl, rfl, rfl, rfl, by decide, more _, record_open rfl rfl (.inr rfl), takes_side (by decide +kernel), ?_⟩⟩
  · have h : ∀ b : Bool, reads ((updDue (updS 7 (if b then [] else [3])) .ok).rdBytes 1 updF.groups 4096) (fun l =>
        decide ((updDue (updS 7 (if b then [] else [3])) .ok).updTable 1 (plan updOps []) updF = .ok ([bucketAt table 0], none)) &&
        (((updE { updU [] with groups := chunks 64 64 l }).paramsOk (own 1) == b) &&
        (decide ((updDue (updS 7 (if b then [] else [3])) .ok).ownedBuckets (updE { updU [] with groups := chunks 64 64 l }) = .ok (own 1, none)) &&
        (decide (((updE { updU [] with groups := chunks 64 64 l }).units (own 1)).length = 1) &&
        holds ((updDue (updS 7 (if b then [] else [3])) .ok).updScales (updE { updU [] with groups := chunks 64 64 l }) (own 1)) fun v =>
          decide (v.ownedBuckets (updE { updU [] with groups := chunks 64 64 l }) = .ok (own 1, none)))))) = true := by decide +kernel
    intro b
    obtain ⟨l, a, k⟩ := read_and (h b)
    simp only [Bool.and_eq_true, beq_iff_eq, decide_eq_true_eq] at k
    obtain ⟨v, p, q⟩ := ok_and k.2.2.2.2
    exact ⟨l, a, k.1, k.2.1, k.2.2.1, k.2.2.2.1, rfl, v, p, of_decide_eq_true q⟩
  · obtain ⟨v, o, a, b, h⟩ := unit_and (n := 0) (u := updU [] 2) (f := fun _ o => decide ((insNat 0 []).length < ((updE (updU [] 2)).units o).length)) (by decide +kernel)
    exact ⟨v, o, a, b, of_decide_eq_true h⟩
  · obtain ⟨v, o, a, b, h⟩ := unit_and (n := 0) (u := updU precond) (f := fun v o => decide (((updE (updU precond)).units o).length ≤ (insNat 0 []).length) &&
      reads (v.sidesDue (updE (updU precond)) o) (· != [])) (by decide +kernel)
    rw [Bool.and_eq_true, decide_eq_true_eq] at h
    obtain ⟨sides, d, k⟩ := read_and h.2
    exact ⟨v, o, sides, a, b, h.1, d, by simpa using k⟩
  · obtain ⟨v, o, a, b, h⟩ := unit_and (n := 0) (u := updU []) (f := fun v o => decide (((updE (updU [])).units o).length ≤ (insNat 0 []).length) &&
      (o.all (fun x => pgAlgo ((updE (updU [])).pg x.2.1) != 2) && lossWritten v)) (by decide +kernel)
    rw [Bool.and_eq_true, Bool.and_eq_true, decide_eq_true_eq] at h
    obtain ⟨l, w, d, k, m⟩ := loss_and h.2.2
    exact ⟨v, o, l, w, a, b, h.1, fun x z => by simpa using List.all_eq_true.mp h.2.1 x z, d, k, m⟩
  · let u := { updU precond with refreshing := true, sides := [(0, 0, 0), (0, 0, 1)], sidesDone := [0], held := [(0, 1)] }
    obtain ⟨v, a, h⟩ := ok_and (e := (heldOf (updating (updS 2 precond) u) u 1).runRefresh (updE u) false (0, 0, 1)) (f := fun v =>
      reads (v.ownedBuckets (updE u)) fun _ => (v.tradeOf 1).isSome && lossWritten v) (by decide +kernel)
    obtain ⟨o, b, h⟩ := read_and h
    rw [Bool.and_eq_true, Option.isSome_iff_exists] at h
    obtain ⟨⟨⟨k, g⟩, t⟩, h⟩ := h
    obtain ⟨l, w, d, p, m⟩ := loss_and h
    exact ⟨v, o, k, g, l, w, a, b, t, d, p, m⟩

/-! ## Experts -/

/-- An expert operation over tokens with rows of one element. -/
def expF (op tokens experts group : Nat) : ExpF :=
  { (default : ExpF) with op := op, tokens := tokens, experts := experts, topk := 1, cap := 32, rowFmt := 1, rowLen := 1, group := group, recDesc := 10,
                          scoreDesc := 11, selDesc := 12, cntDesc := 13, xDesc := 14, bufDesc := 15, yDesc := 16, outDesc := 17, retDesc := 18 }

def expTs (n : Nat) : KV TDesc :=
  [(10, ten 0x2000 n 2), (11, ten 0x4_0000 n 1), (12, ten 0x8_0000 n 1), (13, ten 0xC_0000 1 4), (14, ten 0x10_0000 n 1), (15, ten 0x14_0000 32 1),
   (16, ten 0x18_0000 32 1), (17, ten 0x1C_0000 n 1), (18, ten 0x20_0000 n 1)]

/-- The environment of such an operation that is about to begin. -/
def expE (f : ExpF) : XEnv := ⟨1, 0, plan [.expert f, mark] (expTs 1), run [OpRun.new, OpRun.new], f, OpRun.new⟩

/-- One record that names expert 0, slot 0. -/
def rec0 : Rec := ⟨0, 0, 0, false, false, 0⟩

/-- A route in progress. -/
def routing (f : ExpF) (n : Nat) (q : ExpProg) : State := begun w0 (.expert f) (expTs n) (.exp q)

def expQ : ExpProg := { chunks := [], attempts := [], poisoned := false }

/-- Its environment. -/
def routeE (f : ExpF) (n : Nat) (q : ExpProg) : XEnv :=
  ⟨1, 0, plan [.expert f, mark] (expTs n), run [{ OpRun.new with st := .begun, prog := .exp q }, OpRun.new], f, { OpRun.new with st := .begun, prog := .exp q }⟩

/-- A tensor with an occupancy map and room for some sub-blocks. -/
def omt (cap : Nat) : TDesc :=
  { ten 0x2000 1 1 with layout := 1, omtMap := va 0x3000, omtOfs := va 0x4000, omtData := va 0x5000, omtCap := cap }

def omtTs (cap : Nat) : KV TDesc := [(10, ten 0x2000 1 1), (11, omt cap)]

/-- A module in whose memory the dense tensor's element is 1.0. -/
def ones : State := { w0 with mem := filled [(0x2000, leBytes 4 0x3F800000)] }

/-- A route's chunk takes its scores where they stand. -/
def routeTakes (s : State) (e : XEnv) : Prop :=
  s = s.recoverRanges 1 (e.p.rangesOf [e.f.scoreDesc, e.f.predDesc, e.f.emaskDesc]) [] ∧
    s.rebuildDue (s.physSpans 1 (e.p.rangesOf [e.f.scoreDesc, e.f.predDesc, e.f.emaskDesc]) ++
      s.physSpans 1 (e.p.rangesOf [e.f.recDesc, e.f.selDesc, e.f.cntDesc])) = false

theorem route_takes {s : State} {e : XEnv} (h : (inside s (s.physSpans 1 (e.p.rangesOf [e.f.scoreDesc, e.f.predDesc, e.f.emaskDesc])) &&
    !s.rebuildDue (s.physSpans 1 (e.p.rangesOf [e.f.scoreDesc, e.f.predDesc, e.f.emaskDesc]) ++
      s.physSpans 1 (e.p.rangesOf [e.f.recDesc, e.f.selDesc, e.f.cntDesc]))) = true) : routeTakes s e := by
  rw [Bool.and_eq_true, Bool.not_eq_true'] at h
  exact ⟨(s.recoverRanges_inside 1 _ h.1).symm, h.2⟩

theorem witness_ExpertOperationsRun :
    (∀ k : Nat, k < 3 → OpStarts (due w0 (.expert (expF k 1 1 0)) (expTs 1)) (due w0 (.expert (expF k 1 1 0)) (expTs 1)) 1 0
      (plan [.expert (expF k 1 1 0), mark] (expTs 1)) (run [OpRun.new, OpRun.new]) (.expert (expF k 1 1 0))) ∧
    (let e := expE (expF 1 1 1 0); let s := due w0 (.expert e.f) (expTs 1)
     ∃ l v, e.records s = .ok (l, none) ∧ wrAll (fun s x => s.scatterRow e (e.f.per none) x) (s.opBegin 1 0 .none) (l.filter fun x => !x.remote) = .ok v ∧
       OpShows v 1 0 fun q => q.poisoned = false ∧ q.poisonAt = none ∧ q.dup = false) ∧
    (let e := expE (expF 2 1 1 0); let s := due w0 (.expert e.f) (expTs 1)
     ∃ l act v, e.records s = .ok (l, none) ∧ (∀ x ∈ l, x.remote = false) ∧ s.circRuns 1 = true ∧
       s.rebuildDue (s.physSpans 1 (e.p.rangesOf [e.f.yDesc, e.f.yovfDesc, e.f.retDesc, e.f.recDesc, e.f.wDesc])) = false ∧ rdAll (fun t => e.active s t) (List.range e.f.tokens) = .ok (act, none) ∧
       wrAll (fun s t => s.combineRow e (e.f.per none) l t) (s.opBegin 1 0 .none) (((enumFrom 0 act).filter Prod.snd).map Prod.fst) = .ok v ∧
       OpShows v 1 0 fun q => q.poisoned = false ∧ q.poisonAt = none ∧ q.dup = false) ∧
    (let e := routeE (expF 0 4097 1 0) 4097 expQ; let s := routing (expF 0 4097 1 0) 4097 expQ
     s.expOp 1 0 = some e ∧ 1 < e.f.chunks ∧ expQ.chunks.contains 1 = false ∧ s.circRuns 1 = true ∧ kvGetD 1 expQ.attempts 0 < 2 ∧
       (insNat 1 expQ.chunks).length < e.f.chunks ∧ routeTakes s e ∧
       ∃ rs, rdAll (fun t => e.route s t) ((List.range (min 4096 (e.f.tokens - 4096 * 1))).map (· + 4096 * 1)) = .ok (rs, none)) ∧
    (let e := routeE (expF 0 1 1 0) 1 expQ; let s := routing (expF 0 1 1 0) 1 expQ
     s.expOp 1 0 = some e ∧ 0 < e.f.chunks ∧ e.f.chunks ≤ (insNat 0 expQ.chunks).length ∧ routeTakes s e ∧ s.circRuns 1 = true ∧ MoreOps e.r 0 ∧ RecordOpen s 1 0 e.r ∧
       ∃ rs l v1 v2 v3, rdAll (fun t => e.route s t) ((List.range (min 4096 (e.f.tokens - 4096 * 0))).map (· + 4096 * 0)) = .ok (rs, none) ∧
         e.routeAll s = .ok (l, none) ∧ s.wrBytes 1 (va 0x2000) (routeRecords e.f none [(assignAll e.f.experts l).2] l) = .ok v1 ∧
         v1.routeScores e (ten 0x8_0000 1 1) l = .ok v2 ∧
         v2.wrBytes 1 (va 0xC_0000) (routeCounts e.f (totalsOf (e.f.per none) [(assignAll e.f.experts l).2])) = .ok v3) ∧
    (let s := due ones (.omtPack 10 11 0) (omtTs 1)
     s.mayIssue 1 0 = true ∧ s = s.recoverRanges 1 (ten 0x2000 1 1).ranges [] ∧ ∃ l v, rdAll (fun x : Nat × Nat => s.packBlock 1 0 (ten 0x2000 1 1) (omt 1) x.1 x.2 0xFFFF) (omt 1).blockList = .ok (l, none) ∧
       ((l.map (packedBlock (omt 1).format)).map fun x => popBelow x.1 16).sum ≤ 1 ∧ (s.opBegin 1 0 .none).packPlanes 1 (omt 1) (l.map (packedBlock (omt 1).format)) = .ok v) ∧
    (let s := behindTransfer ones (.omtPack 10 11 0) (omtTs 0)
     s.mayIssue 1 1 = true ∧ s = s.recoverRanges 1 (ten 0x2000 1 1).ranges [] ∧ EarlierOp (run [{ OpRun.new with st := .begun, prog := .wait 1 }, OpRun.new]) 1 ∧
       ∃ l, rdAll (fun x : Nat × Nat => s.packBlock 1 0 (ten 0x2000 1 1) (omt 0) x.1 x.2 0xFFFF) (omt 0).blockList = .ok (l, none) ∧
         0 < ((l.map (packedBlock (omt 0).format)).map fun x => popBelow x.1 16).sum) ∧
    (let s := due ones (.omtUnpack 11 10 0) (omtTs 1)
     s.mayIssue 1 0 = true ∧ s = s.recoverRanges 1 (omt 1).ranges [] ∧ ∃ chk l v, rdAll (fun x : Nat × Nat => s.omtBlock 1 (omt 1) x.1 x.2) (omt 1).blockList = .ok (chk, none) ∧
       rdAll (fun x : (Nat × Nat) × Nat × Nat => s.packBlock 1 0 (omt 1) (ten 0x2000 1 1) x.1.1 x.1.2 x.2.1) (List.zip (omt 1).blockList chk) = .ok (l, none) ∧
       (s.opBegin 1 0 .none).unpackWrite 1 (ten 0x2000 1 1) (movedElems (omt 1).blockList l) = .ok v) := by
  have ready : ∀ k, k < 3 → (due w0 (.expert (expF k 1 1 0)) (expTs 1)).mayIssue 1 0 = true ∧ inside (due w0 (.expert (expF k 1 1 0)) (expTs 1))
      ((due w0 (.expert (expF k 1 1 0)) (expTs 1)).physSpans 1 (opHeads (plan [.expert (expF k 1 1 0), mark] (expTs 1)) (.expert (expF k 1 1 0)))) = true := by
    decide +kernel
  refine ⟨fun k h => due_starts _ _ _ (ready k h).1 (ready k h).2, ?_, ?_, ⟨rfl, by decide, rfl, rfl, by decide, by decide, route_takes (by decide +kernel), ?_⟩,
    ⟨rfl, by decide, by decide, route_takes (by decide +kernel), rfl, ⟨1, _, by decide, rfl, by decide⟩, record_open rfl rfl (.inl rfl), ?_⟩,
    ⟨by decide +kernel, (State.recoverRanges_inside _ _ _ (by decide +kernel)).symm, ?_⟩, ⟨by decide +kernel, (State.recoverRanges_inside _ _ _ (by decide +kernel)).symm, ⟨0, _, by decide, rfl, by decide⟩, ?_⟩, ⟨by decide +kernel, (State.recoverRanges_inside _ _ _ (by decide +kernel)).symm, ?_⟩⟩
  · obtain ⟨l, a, h⟩ := read_and (e := (expE (expF 1 1 1 0)).records (due w0 (.expert (expF 1 1 1 0)) (expTs 1)))
      (f := fun l => holds (wrAll (fun s x => s.scatterRow (expE (expF 1 1 1 0)) ((expF 1 1 1 0).per none) x)
        ((due w0 (.expert (expF 1 1 1 0)) (expTs 1)).opBegin 1 0 .none) (l.filter fun x => !x.remote)) fun v => clean v 1 0) (by decide +kernel)
    obtain ⟨v, b, h⟩ := ok_and h
    exact ⟨l, v, a, b, clean_shows h⟩
  · obtain ⟨l, a, h⟩ := read_and (e := (expE (expF 2 1 1 0)).records (due w0 (.expert (expF 2 1 1 0)) (expTs 1)))
      (f := fun l => (l.all fun x => !x.remote) && reads (rdAll (fun t => (expE (expF 2 1 1 0)).active (due w0 (.expert (expF 2 1 1 0)) (expTs 1)) t) (List.range 1)) fun act =>
        holds (wrAll (fun s t => s.combineRow (expE (expF 2 1 1 0)) ((expF 2 1 1 0).per none) l t)
          ((due w0 (.expert (expF 2 1 1 0)) (expTs 1)).opBegin 1 0 .none) (((enumFrom 0 act).filter Prod.snd).map Prod.fst)) fun v => clean v 1 0) (by decide +kernel)
    rw [Bool.and_eq_true] at h
    obtain ⟨act, b, k⟩ := read_and h.2
    obtain ⟨v, d, k⟩ := ok_and k
    exact ⟨l, act, v, a, fun x m => by simpa using List.all_eq_true.mp h.1 x m, rfl, by decide +kernel, b, d, clean_shows k⟩
  · exact ok_clean (e := rdAll (fun t => (routeE (expF 0 4097 1 0) 4097 expQ).route (routing (expF 0 4097 1 0) 4097 expQ) t)
      ((List.range (min 4096 (4097 - 4096 * 1))).map (· + 4096 * 1))) (by decide +kernel)
  · obtain ⟨rs, a, h⟩ := read_and (e := rdAll (fun t => (routeE (expF 0 1 1 0) 1 expQ).route (routing (expF 0 1 1 0) 1 expQ) t)
        ((List.range (min 4096 (1 - 4096 * 0))).map (· + 4096 * 0)))
      (f := fun _ => reads ((routeE (expF 0 1 1 0) 1 expQ).routeAll (routing (expF 0 1 1 0) 1 expQ)) fun l =>
        holds ((routing (expF 0 1 1 0) 1 expQ).wrBytes 1 (va 0x2000) (routeRecords (expF 0 1 1 0) none [(assignAll 1 l).2] l)) fun v1 =>
          holds (v1.routeScores (routeE (expF 0 1 1 0) 1 expQ) (ten 0x8_0000 1 1) l) fun v2 =>
            holds (v2.wrBytes 1 (va 0xC_0000) (routeCounts (expF 0 1 1 0) (totalsOf ((expF 0 1 1 0).per none) [(assignAll 1 l).2]))) fun _ => true)
      (by decide +kernel)
    obtain ⟨l, b, h⟩ := read_and h
    obtain ⟨v1, d, h⟩ := ok_and h
    obtain ⟨v2, k, h⟩ := ok_and h
    obtain ⟨v3, h⟩ := ok_some h
    exact ⟨rs, l, v1, v2, v3, a, b, d, k, h⟩
  · obtain ⟨l, a, h⟩ := read_and (e := rdAll (fun x : Nat × Nat => (due ones (.omtPack 10 11 0) (omtTs 1)).packBlock 1 0 (ten 0x2000 1 1) (omt 1) x.1 x.2 0xFFFF) (omt 1).blockList)
      (f := fun l => decide (((l.map (packedBlock (omt 1).format)).map fun x => popBelow x.1 16).sum ≤ 1) &&
        holds (((due ones (.omtPack 10 11 0) (omtTs 1)).opBegin 1 0 .none).packPlanes 1 (omt 1) (l.map (packedBlock (omt 1).format))) fun _ => true) (by decide +kernel)
    rw [Bool.and_eq_true, decide_eq_true_eq] at h
    obtain ⟨v, b⟩ := ok_some h.2
    exact ⟨l, v, a, h.1, b⟩
  · obtain ⟨l, a, h⟩ := read_and (e := rdAll (fun x : Nat × Nat => (behindTransfer ones (.omtPack 10 11 0) (omtTs 0)).packBlock 1 0 (ten 0x2000 1 1) (omt 0) x.1 x.2 0xFFFF)
        (omt 0).blockList)
      (f := fun l => decide (0 < ((l.map (packedBlock (omt 0).format)).map fun x => popBelow x.1 16).sum)) (by decide +kernel)
    exact ⟨l, a, of_decide_eq_true h⟩
  · obtain ⟨chk, a, h⟩ := read_and (e := rdAll (fun x : Nat × Nat => (due ones (.omtUnpack 11 10 0) (omtTs 1)).omtBlock 1 (omt 1) x.1 x.2) (omt 1).blockList)
      (f := fun chk => reads (rdAll (fun x : (Nat × Nat) × Nat × Nat =>
        (due ones (.omtUnpack 11 10 0) (omtTs 1)).packBlock 1 0 (omt 1) (ten 0x2000 1 1) x.1.1 x.1.2 x.2.1) (List.zip (omt 1).blockList chk))
        fun l => holds (((due ones (.omtUnpack 11 10 0) (omtTs 1)).opBegin 1 0 .none).unpackWrite 1 (ten 0x2000 1 1) (movedElems (omt 1).blockList l)) fun _ => true)
      (by decide +kernel)
    obtain ⟨l, b, h⟩ := read_and h
    obtain ⟨v, h⟩ := ok_some h
    exact ⟨chk, l, v, a, b, h⟩

/-- A unit or message from member 0 to this one, of the plan's first operation. -/
def toUs : ExpxMsg := { ctx := 1, tag := 4, op := 0, src := 0, dst := 1 }

/-- A group whose counts are known, with nothing in progress. -/
def expxB : Expx := { expxG with base := [(0, [[1], [1]]), (1, [[1], [1]])] }

/-- A module with that group and an expert operation of it. -/
def exchanging (op : Nat) : State := { begun linked (.expert (expF op 1 2 4)) (expTs 1) .none with expx := [(gkey 1 4, expxB)] }

/-- Its environment. -/
def exE (op : Nat) : XEnv :=
  ⟨1, 0, plan [.expert (expF op 1 2 4), mark] (expTs 1), run [{ OpRun.new with st := .begun, prog := .none }, OpRun.new], expF op 1 2 4,
    { OpRun.new with st := .begun, prog := .none }⟩

/-- A row of one FP32 zero as it travels, and the group that already holds one, which is asked for again. -/
def row0 : List Byte := leBytes 1 4 ++ zeros 4
def expxH : Expx := { expxB with rows := [(0, [(0, 1, 0, 0)])] }
def rowAsked : State := { exchanging 1 with expx := [(gkey 1 4, expxH)], rowDue := [(1, (9 * gib + 0x14_0000) / 64)] }

/-- A combine in progress behind the scatter whose one row stands here. -/
def returning : State :=
  { linked with ctxs := [(1, busy [.expert (expF 1 1 2 4), .expert (expF 2 1 2 4), mark] (expTs 1)
                   [{ OpRun.new with st := .ended }, { OpRun.new with st := .begun, prog := .none }, OpRun.new])],
                expx := [(gkey 1 4, expxH)] }

/-- Where a row of member 0 stands. -/
def rowSpans (s : State) : List (Nat × Nat) := s.physSpans 1 [((ten 0x14_0000 32 1).at [0, 0], 4)]

theorem witness_ExpertExchangeActs :
    (kvGet (gkey toUs.ctx toUs.tag) (exchanging 1).expx = some expxB ∧ expxB.form.state = 1 ∧ toUs.dst = expxB.f.rank ∧ toUs.errs = [] ∧ expxB.op = none ∧
      kvGet toUs.src expxB.counts = none ∧ expxB.taken = [] ∧ ({ toUs with dst := 0 } : ExpxMsg).dst ≠ expxB.f.rank ∧ expxB.f.tag = toUs.tag) ∧
    (let g := { expxB with taken := [(0, 3, 0)] }; g.form.state = 1 ∧ toUs.dst = g.f.rank ∧ (toUs.src, 3, toUs.op) ∈ g.taken) ∧
    (let g := { expxB with counts := [(0, [{ step := 3, op := 0, counts := [1], poisoned := false }])] }
     g.form.state = 1 ∧ toUs.dst = g.f.rank ∧ ∃ x ∈ kvGetD toUs.src g.counts [], x.step = 3 ∧ x.op = toUs.op) ∧
    (exchanging 1).sharePort (expxB.f.portOut.take expxB.f.ports) 0 = some 1 ∧
    (exchanging 1).expxTarget toUs 1 = some (exE 1) ∧ (exchanging 2).expxTarget toUs 2 = some (exE 2) ∧ (expxB.op ≠ some toUs.op ∧ expxB.rows = [] ∧ expxB.returned = []) ∧
    (exE 1).landSlot expxB (15, 0) 0 1 0 = (15, 0) ∧ (exE 1).p.ten 15 = some (ten 0x14_0000 32 1) ∧
    (∀ s ∈ [exchanging 1, rowAsked], ∃ sc v, s.expxTarget toUs 1 = some (exE 1) ∧
      rdAll (fun k => s.rdScale 1 (ten 0x14_0000 32 1) 0 k) (List.range (exE 1).f.rowLen) = .ok (sc, none) ∧
      s.wrBytes 1 ((ten 0x14_0000 32 1).at [0, 0]) (rowBytes (ten 0x14_0000 32 1).format (storeRow (exE 1).f.numMode (ten 0x14_0000 32 1).format sc row0)) = .ok v) ∧
    ((kvGetD toUs.op expxH.rows []).any (fun x => x.1 == 0 && x.2.1 == 1 && x.2.2.1 == 0) = true ∧
      ∃ b ∈ rowAsked.rowDue, inSpans (rowSpans rowAsked) ⟨b.2, 0, true, 1⟩ = true) ∧
    (∃ sc v, (exE 2).p.ten 18 = some (ten 0x20_0000 1 1) ∧ rdAll (fun k => (exchanging 2).rdScale 1 (ten 0x20_0000 1 1) 0 k) (List.range 1) = .ok (sc, none) ∧
      (exchanging 2).wrBytes 1 ((ten 0x20_0000 1 1).at [0, 0]) (storeReturn (exE 2).f.numMode 1 (ten 0x20_0000 1 1).format sc (zeros 4)) = .ok v) ∧
    (let s := exchanging 1
     s = s.recoverRanges 1 ((exE 1).p.rangesOf [14, 0, 10]) [] ∧
     ∃ l x body, (exE 1).records s = .ok (l, none) ∧ (remoteRows ((exE 1).f.per (some expxB)) 0 l).find? (fun x => x.1.e == 0 && x.2 == 0) = some x ∧
      (exE 1).rowBody s x.1 = .ok (body, none)) ∧
    (let m := { toUs with op := 1 }; let s := returning
     s.expxTarget m 1 = none ∧ s.sharePort (expxH.f.portOut.take expxH.f.ports) 0 = some 1 ∧
     ∃ e, s.expxTarget m 2 = some e ∧ s = s.recoverRanges 1 (e.p.rangesOf [e.f.yDesc, e.f.yovfDesc]) [] ∧
       (expxH.heldRows e).find? (fun x => x.1 == 0 && x.2.2.2 == 0) = some (0, 1, 0, 0) ∧ e.landSlot expxH (e.f.yDesc, e.f.yovfDesc) 0 1 0 = (16, 0) ∧
       e.p.ten 16 = some (ten 0x18_0000 32 1) ∧ e.p.ten e.f.retDesc = some (ten 0x20_0000 1 1) ∧
       ∃ row, s.rdBytes 1 ((ten 0x18_0000 32 1).at [0, 0]) 4 = .ok (row, none)) := by
  refine ⟨by decide +kernel, by decide +kernel, by decide +kernel, by decide +kernel, rfl, rfl, by decide, by decide +kernel, rfl, fun s m => ?_, by decide +kernel, ?_,
    ⟨(State.recoverRanges_inside _ _ _ (by decide +kernel)).symm, ?_⟩,
    ⟨by decide +kernel, by decide +kernel, _, rfl, (State.recoverRanges_inside _ _ _ (by decide +kernel)).symm, by decide +kernel, by decide +kernel, rfl, rfl,
      ok_clean (by decide +kernel)⟩⟩
  · have t : s.expxTarget toUs 1 = some (exE 1) := by
      rcases List.mem_pair.mp m with rfl | rfl <;> rfl
    have h : [exchanging 1, rowAsked].all (fun s =>
        reads (rdAll (fun k => s.rdScale 1 (ten 0x14_0000 32 1) 0 k) (List.range (exE 1).f.rowLen)) fun sc =>
          holds (s.wrBytes 1 ((ten 0x14_0000 32 1).at [0, 0]) (rowBytes (ten 0x14_0000 32 1).format
            (storeRow (exE 1).f.numMode (ten 0x14_0000 32 1).format sc row0))) fun _ => true) = true := by decide +kernel
    have h := List.all_eq_true.mp h s m
    obtain ⟨sc, a, b⟩ := read_and h
    obtain ⟨v, b⟩ := ok_some b
    exact ⟨sc, v, t, a, b⟩
  · obtain ⟨sc, a, h⟩ := read_and (e := rdAll (fun k => (exchanging 2).rdScale 1 (ten 0x20_0000 1 1) 0 k) (List.range 1)) (f := fun sc =>
      holds ((exchanging 2).wrBytes 1 ((ten 0x20_0000 1 1).at [0, 0]) (storeReturn (exE 2).f.numMode 1 (ten 0x20_0000 1 1).format sc (zeros 4))) fun _ => true)
      (by decide +kernel)
    obtain ⟨v, h⟩ := ok_some h
    exact ⟨sc, v, rfl, a, h⟩
  · obtain ⟨l, a, h⟩ := read_and (e := (exE 1).records (exchanging 1))
      (f := fun l => has ((remoteRows ((exE 1).f.per (some expxB)) 0 l).find? fun x => x.1.e == 0 && x.2 == 0) fun x =>
        reads ((exE 1).rowBody (exchanging 1) x.1) fun _ => true) (by decide +kernel)
    obtain ⟨x, b, h⟩ := some_and h
    obtain ⟨body, k, _⟩ := read_and h
    exact ⟨l, x, body, a, b, k⟩

/-! ## Transfers -/

/-- A tier token of 4,096 bytes. -/
def token (st : Nat) : Token := { size := 4096, home := lpBase, state := st, poison := 0, placed := [] }

/-- A transfer descriptor of 64 bytes between byte 0x2000 of the page and a token, with a gate. -/
def xferBytes (tok up gate : Nat) : List Byte :=
  leBytes 8 (va 0x2000) ++ leBytes 8 tok ++ leBytes 8 0 ++ leBytes 8 64 ++ leBytes 1 up ++ leBytes 1 0 ++ leBytes 2 gate ++ leBytes 4 1 ++ leBytes 2 0xFFFF ++
    zeros 22

/-- The first transfer of operation 0. -/
def xfer (up gate : Nat) : Xfer := xferOf (xferBytes 0 up gate) 0 0

/-- A module whose context 1 is about to join a transfer from its list, behind `n` operations. -/
def joining (n tok : Nat) : State :=
  { w0 with mem := filled [(0x9000, xferBytes tok 0 0xFFFF)],
            ctxs := [(1, { busy (List.replicate n mark ++ [.transfer (va 0x9000) 1, mark]) [] (List.replicate (n + 2) OpRun.new) with tokens := [token 0] })] }

/-- A module with a transfer at the head of a queue and a credit pool of so many credits. -/
def queued (up gate st credits : Nat) : State :=
  { withObj (obj 5 credits 9) with
    ctxs := [(1, { busy [mark, .transfer (va 0x9000) 1, mark] [] [OpRun.new, { OpRun.new with st := .begun, prog := .wait 1 }, OpRun.new] with
                   tokens := [token st], down := if up = 0 then [{ xfer up gate with op := 1 }] else [], up := if up = 0 then [] else [{ xfer up gate with op := 1 }] })] }

/-- What the start of a transfer asks of a state. -/
def startable (s : State) (up : Bool) : Bool :=
  has (kvGet 1 s.ctxs) fun x => has (x.queueOf up)[0]? fun t => !t.started && !t.waiting && !x.countsSaved && s.running &&
    (x.down ++ x.up).all (fun u => t.seq ≤ u.seq) && (x.tokens[t.token]?).isSome

/-- A module with a transfer of so many bytes under way, its operation waiting for some transfers yet. -/
def moving (up : Bool) (bytes m : Nat) : State :=
  { w0 with
    ctxs := [(1, { busy [mark, .transfer (va 0x9000) 1, mark] [] [OpRun.new, { OpRun.new with st := .begun, prog := .wait m }, OpRun.new] with
                   tokens := [token 1],
                   down := if up then [] else [{ xfer 0 0xFFFF with op := 1, started := true, bytes := bytes }],
                   up := if up then [{ xfer 1 0xFFFF with op := 1, started := true, bytes := bytes }] else [] })] }

/-- Does a step of context 1 take these bytes where they stand? -/
def takesSpans (s : State) (l : List (Nat × Nat)) : Bool := !(s.recover 1 l []).rebuildDue l && (s.recover 1 l []).mem == s.mem

/-- What a segment of a transfer asks of a state, with the sectors that the segment reads and writes. -/
def movable (s : State) (up : Bool) (bytes m : Nat) (f : List Nat → List Nat → Bool) : Bool :=
  has (kvGet 1 s.ctxs) fun x => has (x.queueOf up)[0]? fun t => has x.tokens[t.token]? fun k =>
    t.started && (s.running && (s.tierPick == some (1, up) && (!x.countsSaved && (s.rebuild == [] && (t.done == 0 && (t.bytes == bytes && (t.doneSo == 0xFFFF &&
      holds (vspans x.maps up t.hbm (min segBytes bytes)) fun ps => ps.all (fun p => (s.region p.1).isHbm) &&
        (has (s.opOf 1 t.op) (fun o => o.2.2.2.2.prog == .wait m) && (takesSpans { s with tierLast := (1, up) } (if up then [(k.home + t.offset, min segBytes bytes)] else ps) &&
          f (sectorList (if up then [(k.home + t.offset, min segBytes bytes)] else ps)) (sectorList (if up then ps else [(k.home + t.offset, min segBytes bytes)])))))))))))

theorem witness_TransfersJoinStartAndMove :
    (∃ p r, OpDue (joining 0 0) 1 0 p r (.transfer (va 0x9000) 1)) ∧ joining 0 0 = (joining 0 0).recoverRanges 1 [(va 0x9000, 64 * 1)] [] ∧
    (reads ((joining 0 0).rdBytes 1 (va 0x9000) (64 * 1)) fun l => has (kvGet 1 (joining 0 0).ctxs) fun x =>
      (List.zip ((enumFrom 0 (chunks 64 2 l)).map fun y => xferOf y.2 (x.xferSeq + y.1) 0) (chunks 64 2 l)).all fun y => x.xferOk y.1 (field y.2 32 1)) = true ∧
    (∃ p r, OpDue (joining 1 7) 1 1 p r (.transfer (va 0x9000) 1) ∧ EarlierOp r 1) ∧ joining 1 7 = (joining 1 7).recoverRanges 1 [(va 0x9000, 64 * 1)] [] ∧
    (reads ((joining 1 7).rdBytes 1 (va 0x9000) (64 * 1)) fun l => has (kvGet 1 (joining 1 7).ctxs) fun x =>
      (List.zip ((enumFrom 0 (chunks 64 2 l)).map fun y => xferOf y.2 (x.xferSeq + y.1) 1) (chunks 64 2 l)).any fun y => !x.xferOk y.1 (field y.2 32 1)) = true ∧
    startable (queued 0 0xFFFF 0 0) false = true ∧ (xfer 0 0xFFFF).gated = true ∧
    startable (queued 1 0xFFFF 2 0) true = true ∧
    (startable (queued 1 0xFFFF 0 0) true = true ∧ ∃ x p r o q, (queued 1 0xFFFF 0 0).opOf 1 1 = some (x, p, r, o, q) ∧ q.st = .begun ∧ EarlierOp r 1 ∧
      RecordOpen (queued 1 0xFFFF 0 0) 1 1 r) ∧
    (startable (queued 0 5 0 3) false = true ∧ (xfer 0 5).gated = false ∧
      ∃ v u, kvGet 5 (queued 0 5 0 3).sos = some (obj 5 3 9) ∧ (queued 0 5 0 3).soApply 5 (acquireOp 5) 1 1 0 = (.done v, u) ∧ u.ctxs = (queued 0 5 0 3).ctxs) ∧
    (startable (queued 0 5 0 0) false = true ∧
      ∃ n u, kvGet 5 (queued 0 5 0 0).sos = some (obj 5 0 9) ∧ (queued 0 5 0 0).soApply 5 (acquireOp 5) 1 1 0 = (.wait n, u) ∧ u.ctxs = (queued 0 5 0 0).ctxs) ∧
    (let o : Obj := { obj 3 1 0 with holder := some (2, 0) }; let s : State := { queued 0 5 0 0 with sos := [(5, o)] }
     startable s false = true ∧ ∃ n u, kvGet 5 s.sos = some o ∧ s.soApply 5 (acquireOp 3) 1 1 0 = (.wait n, u) ∧ u.ctxs = s.ctxs) ∧
    (∀ up : Bool, movable (moving up 65600 1) up 65600 1 (fun _ _ => true) = true) ∧
    (∀ up : Bool, ∀ m ∈ [1, 2], movable (moving up 64 m) up 64 m (fun src dst => (moving up 64 m).mem == [] && (src.length == 1 && (dst.length == 1 &&
      dst.all fun b => (List.range 64).all fun j => (moving up 64 m).region (b + j) != .host))) = true) ∧
    ∀ (up : Bool) (m : Nat), ∃ x p r o q, (moving up 64 m).opOf 1 1 = some (x, p, r, o, q) ∧ q.st = .begun ∧ q.poisoned = false ∧ q.poisonAt = none ∧
      q.dup = false ∧ MoreOps r 1 ∧ RecordOpen (moving up 64 m) 1 1 r := by
  refine ⟨⟨_, _, _, _, rfl, by decide +kernel, rfl, rfl, rfl, ⟨1, _, by decide, rfl, by decide⟩, record_open rfl rfl (.inl rfl)⟩,
    (State.recoverRanges_inside _ _ _ (by decide +kernel)).symm, by decide +kernel,
    ⟨_, _, ⟨_, _, rfl, by decide +kernel, rfl, rfl, rfl, ⟨2, _, by decide, rfl, by decide⟩, record_open rfl rfl (.inr rfl)⟩, ⟨0, _, by decide, rfl, by decide⟩⟩,
    (State.recoverRanges_inside _ _ _ (by decide +kernel)).symm,
    by decide +kernel, by decide +kernel, by decide +kernel, by decide +kernel,
    ⟨by decide +kernel, _, _, _, _, _, rfl, rfl, ⟨0, _, by decide, rfl, by decide⟩, record_open rfl rfl (.inr rfl)⟩,
    ⟨by decide +kernel, by decide +kernel, _, _, rfl, rfl, rfl⟩, ⟨by decide +kernel, _, _, rfl, rfl, rfl⟩, ⟨by decide +kernel, _, _, rfl, rfl, rfl⟩,
    by decide +kernel, by decide +kernel,
    fun up m => ⟨_, _, _, _, _, rfl, rfl, rfl, rfl, rfl, ⟨0, _, by decide, rfl, by decide⟩, record_open rfl rfl (.inr rfl)⟩⟩

/-! ## Stage queues -/

/-- A stage operation on queue 4 from the tensor 10. -/
def stq (op : Nat) : StqF := { op := op, tag := 4, lullAs := 0, srcDesc := 10, result := 0 }

/-- The queue's producing end with so many credits, and its consuming end with what has landed. -/
def produces (credit : Nat) : StageQ := { stageG with credit := credit, f := { stageF with base := va 0x30000 } }
def consumes (get rel : Nat) (landed : List (Nat × Nat)) : StageQ :=
  { stageG with f := { stageF with consumer := true, base := va 0x30000 }, getIdx := get, relIdx := rel, landed := landed }

/-- A module with that end, its context about to begin a stage operation behind a transfer. -/
def staging (q : StageQ) (op : Nat) : State :=
  { behindTransfer linked (.stage (stq op)) [(10, ten 0x2000 1 16)] with stageQ := [(gkey 1 4, q)] }

/-- Both ends on this module, in contexts 1 and 2. -/
def bothEnds : State :=
  { staging { produces 1 with f := { stageF with peer := 3, ports := 0, port := [], base := va 0x30000 } } 0 with
    stageQ := [(gkey 1 4, { produces 1 with f := { stageF with peer := 3, ports := 0, port := [], base := va 0x30000 } }),
               (gkey 2 4, { consumes 0 0 [] with f := { stageF with ctx := 2, consumer := true, peer := 3, ports := 0, port := [], peerCtx := 1, base := va 0x30000 } })],
    ctxs := [(1, busy [.transfer (va 0) 1, .stage (stq 0)] [(10, ten 0x2000 1 16)] [{ OpRun.new with st := .begun, prog := .wait 1 }, OpRun.new]),
             (2, { cx with positions := [] })] }

/-- A stage operation is due in context 1 behind a transfer. -/
theorem stage_due (s : State) (f : StqF) (ts : KV TDesc) (h : s.mayIssue 1 1 = true)
    (k : kvGet 1 s.ctxs = some (busy [.transfer (va 0) 1, .stage f] ts [{ OpRun.new with st := .begun, prog := .wait 1 }, OpRun.new]))
    (e : s.opOf 1 1 = some (busy [.transfer (va 0) 1, .stage f] ts [{ OpRun.new with st := .begun, prog := .wait 1 }, OpRun.new],
      plan [.transfer (va 0) 1, .stage f] ts, run [{ OpRun.new with st := .begun, prog := .wait 1 }, OpRun.new], .stage f, OpRun.new)) :
    ∃ p r, OpDue s 1 1 p r (.stage f) :=
  ⟨_, _, _, _, e, h, rfl, rfl, rfl, ⟨0, _, by decide, rfl, by decide⟩, record_open k rfl (.inr rfl)⟩

theorem witness_StageQueuesCarryItems :
    ((∃ p r, OpDue (staging (produces 0) 0) 1 1 p r (.stage (stq 0))) ∧ (produces 0).form.state = 1 ∧ (produces 0).credit = 0) ∧
    ((∃ p r, OpDue (staging (produces 1) 0) 1 1 p r (.stage (stq 0))) ∧ (staging (produces 1) 0).stageLocal (produces 1).f = false ∧
      (let z := (staging (produces 1) 0).opBegin 1 1 (.wait 0)
       z.Takes 1 [(va 0x2000, 64)] z ∧ ∃ l pa, z.itemSegs 1 (va 0x2000) 64 = .ok (l, pa)) ∧ (staging (produces 1) 0).sharePort (produces 1).ports 0 = some 1 ∧
      ((staging (produces 1) 0).ports[1]?).isSome = true) ∧
    ((∃ p r, OpDue bothEnds 1 1 p r (.stage (stq 0))) ∧ (∃ q o, kvGet (gkey 1 4) bothEnds.stageQ = some q ∧ bothEnds.stageLocal q.f = true ∧ q.f.tag = 4 ∧
      q.f.peerCtx = 2 ∧ 0 < q.f.itemBytes ∧ q.f.itemBytes ≤ itemSegBytes ∧ kvGet (gkey 2 4) bothEnds.stageQ = some o ∧ o.form.state = 1 ∧ o.f.consumer = true ∧
      o.relIdx ≤ q.putIdx ∧ o.landed = [] ∧ o.segs = [] ∧ bothEnds.stageSkew 2 4 3 0 o = false ∧ bothEnds.stageOp 2 4 = none ∧ o.f.itemBytes = 64 ∧
      let z := bothEnds.opBegin 1 1 (.wait 0)
      z.Takes 1 [(va 0x2000, 64)] z ∧ ∃ l, z.rdBytes 1 (va 0x2000) 64 = .ok (l, none) ∧ (l.length == 64 && holds (z.wrBytes 2 (o.slotAddr 0) l) fun _ => true) = true)) ∧
    ((∃ p r, OpDue (staging (consumes 0 0 []) 1) 1 1 p r (.stage (stq 1))) ∧ (∀ e ∈ (consumes 0 0 []).landed, e.1 ≠ 0) ∧ (staging (consumes 0 0 []) 1).circRuns 1 = true ∧ 0 < 0 + (consumes 0 0 []).f.slots) ∧
    ((∃ p r, OpDue (staging (consumes 0 0 [(0, 3)]) 1) 1 1 p r (.stage (stq 1))) ∧
      (consumes 0 0 [(0, 3)]).landed.find? (fun e => e.1 == 0) = some (0, 3) ∧ (stq 1).result = 0) ∧
    ((∃ p r, OpDue (staging (consumes 1 0 [(0, 3)]) 2) 1 1 p r (.stage (stq 2))) ∧ (staging (consumes 1 0 [(0, 3)]) 2).stageLocal (consumes 1 0 []).f = false ∧
      (staging (consumes 1 0 [(0, 3)]) 2).sharePort (consumes 1 0 []).ports 0 = some 1) ∧
    (let s : State := { linked with stageQ := [(gkey 1 4, consumes 1 1 [(1, 3)])] }
     s.stageOp 1 4 = none ∧ 0 < (consumes 1 1 []).relIdx ∧ s.stageSkew 1 4 3 2 (consumes 1 1 [(1, 3)]) = false ∧
       s.stageSkew 1 4 3 3 (consumes 1 1 [(1, 3)]) = true ∧ (∃ e ∈ (consumes 1 1 [(1, 3)]).landed, e.1 = 1) ∧ (consumes 1 1 []).segs = [] ∧ ∃ v, s.wrBytes 1 ((consumes 1 1 []).slotAddr 2) (zeros 64) = .ok v) ∧
    (let s : State := { linked with stageQ := [(gkey 1 4, produces 1)] }
     s.stageOp 1 4 = none ∧ (produces 1).credit < (produces 1).f.slots ∧ (produces 2).f.slots ≤ (produces 2).credit) ∧
    (let s : State := { begun linked (.stage (stq 1)) [] .none with stageQ := [(gkey 1 4, consumes 0 0 [])], refCount := 5000000 }
     s.stageOp 1 4 = some (0, stq 1) ∧ (consumes 0 0 []).f.stallLimit ≠ 0 ∧ OpShows s 1 0 (· = { OpRun.new with st := .begun, prog := .none }) ∧
       kvGetD (stallKey 5 1 4) s.stalls (0, 0) = (0, 0) ∧ OpRun.new.began ≤ 0 ∧ 0 + (0 + 1) * (consumes 0 0 []).f.stallLimit * 1000000 ≤ s.refCount) := by
  refine ⟨⟨stage_due _ _ _ (by decide +kernel) rfl rfl, by decide, by decide⟩, ⟨stage_due _ _ _ (by decide +kernel) rfl rfl, by decide +kernel,
      ⟨takes_inside _ _ _ (by decide +kernel) (by decide +kernel), ?_⟩, by decide +kernel, rfl⟩,
    ⟨stage_due _ _ _ (by decide +kernel) rfl rfl, _, _, rfl, by decide +kernel, rfl, rfl, by decide, by decide, rfl, rfl, rfl, by decide, rfl, rfl, by decide +kernel,
      by decide +kernel, rfl, takes_inside _ _ _ (by decide +kernel) (by decide +kernel), ?_⟩,
    ⟨stage_due _ _ _ (by decide +kernel) rfl rfl, by decide, rfl, by decide⟩, ⟨stage_due _ _ _ (by decide +kernel) rfl rfl, by decide, rfl⟩,
    ⟨stage_due _ _ _ (by decide +kernel) rfl rfl, by decide +kernel, by decide +kernel⟩,
    ⟨by decide +kernel, by decide, by decide +kernel, by decide +kernel, by decide, rfl, ?_⟩, ⟨by decide +kernel, by decide, by decide⟩,
    rfl, by decide, ⟨_, _, _, _, _, rfl, rfl⟩, rfl, by decide, by decide⟩
  · obtain ⟨⟨l, pa⟩, h⟩ := ok_some (e := ((staging (produces 1) 0).opBegin 1 1 (.wait 0)).itemSegs 1 (va 0x2000) 64) (by decide +kernel)
    exact ⟨l, pa, h⟩
  · exact read_and (by decide +kernel)
  · exact ok_some (by decide +kernel)

/-! ## Marks, snapshots, rebuild -/

/-- A module whose context 1 is about to begin an operation behind a transfer, and that operation. -/
def marking (o : PlanOp) : State := behindTransfer w0 o []

theorem marking_due (o : PlanOp) (h : (marking o).mayIssue 1 1 = true) : ∃ p r, OpDue (marking o) 1 1 p r o :=
  ⟨_, _, _, _, rfl, h, rfl, rfl, rfl, ⟨0, _, by decide, rfl, by decide⟩, record_open rfl rfl (.inr rfl)⟩

/-- A STEP_MARK with one tensor's fingerprint, due as the first operation of its run. -/
def stepMark : PlanOp := .stepMark (va 0x5000) [(7, va 0x2000, 64)]

/-- A trace mark whose record's area is not mapped. -/
def unmapped : State :=
  { w0 with ctxs := [(1, { busy [.transfer (va 0) 1, .traceMark 6 9] [] [] with
      run := some { run [{ OpRun.new with st := .begun, prog := .wait 1 }, OpRun.new] with area := 0 } })] }

/-- A context whose plan has a tensor that can be rebuilt, and a sector of it that waits. -/
def rebuildT : TDesc := { ten 0x2000 1 16 with rebuildCount := 1 }
def rebuilding : State := { w0 with rebuild := [(1, (9 * gib + 0x2000) / 64)], ctxs := [(1, busy [mark] [(10, rebuildT)] [OpRun.new])] }

theorem witness_MarksSnapshotsAndRebuild :
    (let s := due w0 stepMark []
     OpStarts s s 1 0 (plan [stepMark, mark] []) (run [OpRun.new, OpRun.new]) stepMark ∧ (∃ fps, rdAll (s.fpOf 1) [(7, va 0x2000, 64)] = .ok (fps, none)) ∧
       (∃ fp, s.stateFp 1 (plan [stepMark, mark] []) = .ok (fp, none)) ∧ ((s.reach 1 true (va 0x5000) 384).isOk = true)) ∧
    ((∃ p r, OpDue (marking (.lullSnap (va 0x5000))) 1 1 p r (.lullSnap (va 0x5000))) ∧
      ∃ x v, kvGet 1 (marking (.lullSnap (va 0x5000))).ctxs = some x ∧ (marking (.lullSnap (va 0x5000))).wrBytes 1 (va 0x5000) x.lullSum = .ok v) ∧
    (∃ p r, OpDue (marking (.traceMark 6 9)) 1 1 p r (.traceMark 6 9)) ∧ (marking (.traceMark 6 9)).tqEnable = 0#8 ∧
    (∃ x p r o q f, unmapped.opOf 1 1 = some (x, p, r, o, q) ∧ kvGet 1 unmapped.ctxs = some x ∧ o = .traceMark 6 9 ∧ unmapped.mayIssue 1 1 = true ∧
      unmapped.reach 1 true (r.area + 128 * 1) 128 = .error f ∧ f.kind ≠ kindWaits ∧ EarlierOp r 1) ∧
    ∃ x p d, kvGet 1 rebuilding.ctxs = some x ∧ x.plan = some p ∧ p.ten 10 = some d ∧ d.rebuildCount ≠ 0 ∧ x.quiet d = true ∧ rebuilding.Canonical ∧
      rebuilding.rebuild.filter (fun b => b.1 == 1 && (x.tensorSpans d).any fun y => decide (y.1 / 64 ≤ b.2 ∧ b.2 * 64 < y.1 + y.2)) ≠ [] := by
  refine ⟨⟨due_starts _ _ _ (by decide +kernel) (by decide +kernel), ok_clean (by decide +kernel), ok_clean (by decide +kernel), by decide +kernel⟩,
    ⟨marking_due _ (by decide +kernel), busy [.transfer (va 0) 1, .lullSnap (va 0x5000)] [] [{ OpRun.new with st := .begun, prog := .wait 1 }, OpRun.new], ?_⟩,
    marking_due _ (by decide +kernel), rfl, ⟨_, _, _, _, _, _, rfl, rfl, rfl, by decide +kernel, rfl, by decide, ⟨0, _, by decide, rfl, by decide⟩⟩,
    _, _, _, rfl, rfl, rfl, by decide, by decide +kernel, rfl, by decide +kernel⟩
  obtain ⟨v, h⟩ := ok_some (e := (marking (.lullSnap (va 0x5000))).wrBytes 1 (va 0x5000)
    (busy [.transfer (va 0) 1, .lullSnap (va 0x5000)] [] [{ OpRun.new with st := .begun, prog := .wait 1 }, OpRun.new]).lullSum) (by decide +kernel)
  exact ⟨v, rfl, h⟩

/-! ## Order of values, restore -/

theorem witness_SelectionsPlaceZeroesAndNaNs : (∃ a b : W32, isNan32 a = false ∧ isNan32 b = false ∧ bitOf a.toNat 31 = true ∧ bitOf b.toNat 31 = false) ∧
    (∃ a b : W32, isNan32 a = true ∧ isNan32 b = true) ∧ (∃ a b : W32, isNan32 a = false ∧ isNan32 b = false ∧ bitOf a.toNat 31 = false ∧ bitOf b.toNat 31 = false) ∧
    (∃ a b : W32, isNan32 a = false ∧ isNan32 b = false ∧ bitOf a.toNat 31 = true ∧ bitOf b.toNat 31 = true) :=
  ⟨⟨0x80000000, 0, by decide⟩, ⟨nan32, nan32, by decide⟩, ⟨0, 0x3F800000, by decide⟩, 0xBF800000, 0x80000000, by decide⟩

/-- A position whose image stands in its save area. -/
def imaged0 : State :=
  (({ w0 with ctxs := [(1, { cx with positions := [{ res0 with place := .restoring 0 0 true, image := true }] })] } : State).physWrite
    (352 * gib + imgArch 0 + 0x3FC0) (imageHeader 1 0 0 1 0))

theorem witness_RestoreMakesPositionResident_complete : ∃ q x, imaged0.pos? 1 0 = some q ∧ kvGet 1 imaged0.ctxs = some x ∧ q.place = .restoring 0 0 true ∧
    q.saveDue = false ∧ imaged0.firstPoison q.area (imageBytes x.part) = none ∧ imaged0.headerOk 1 0 x.part q = true :=
  ⟨{ res0 with place := .restoring 0 0 true, image := true }, { cx with positions := [{ res0 with place := .restoring 0 0 true, image := true }] },
    by decide +kernel, by decide +kernel, rfl, rfl, by decide +kernel, by decide +kernel⟩

/-! ## Worked examples of the spec -/

/-- 02: FP32 to BF16, ties to even, and the least value that overflows. -/
theorem test_bf16_ties : [0x3F808000, 0x3F818000, 0x7F7F7FFF].map (fun n => fvPattern ffBf16 (roundTo ffBf16 false (fv32 n)).v) = [0x3F80, 0x3F82, 0x7F7F] ∧
    (roundTo ffBf16 false (fv32 0x7F7F8000)).ovf = true := by decide +kernel

/-- 02, truncation in the window: the group sum and its writeback. -/
theorem test_window_truncates :
    (accAdd false Entry.zero (groupSum ffBf16 ffBf16 false (groupOps ffBf16 ffBf16 false 0 3 [0x3F80, 0x3581, 0xBF80] [0x3F80, 0x3581, 0x3F80]))).v = 0x2B820000 ∧
      (wbEntry ffBf16 0 ⟨0x2B820000, 0, false⟩).pat = 0x2B82 := by decide +kernel

/-- 02, zero times infinity: NaN and INV in that entry, infinity and INFIN beside it, written 0x7FC0 and 0x7F80. -/
theorem test_zero_times_infinity :
    (let x := accAdd false Entry.zero (groupSum ffBf16 ffBf16 false (groupOps ffBf16 ffBf16 false 0 1 [0] [0x7F80]))
     isNan32 x.v = true ∧ hasFl x.fl flINV = true ∧ (wbEntry ffBf16 0 x).pat = 0x7FC0 ∧ (wbEntry ffBf16 0 x).kind = 0) ∧
    (let y := accAdd false Entry.zero (groupSum ffBf16 ffBf16 false (groupOps ffBf16 ffBf16 false 0 1 [0x3F80] [0x7F80]))
     y = ⟨0x7F800000, flINFIN, false⟩ ∧ (wbEntry ffBf16 0 y).pat = 0x7F80 ∧ (wbEntry ffBf16 0 y).sat = false) := by decide +kernel

/-- 02, a saturating tile: the three entries, written in saturate mode and in infinity mode. -/
theorem test_saturating_tile :
    accAdd false Entry.zero (groupSum ffBf16 ffBf16 false (groupOps ffBf16 ffBf16 false 0 1 [0x7F00] [0x4100])) = ⟨0x7F800000, flOVF, false⟩ ∧
    [(⟨0x7F800000, flOVF, false⟩ : Entry), ⟨0x7F7F8000, 0, false⟩, ⟨0x7F7F7FFF, 0, false⟩].map
        (fun e => ((wbEntry ffBf16 0 e).pat, (wbEntry ffBf16 2 e).pat, (wbEntry ffBf16 0 e).sat, (wbEntry ffBf16 2 e).sat)) =
      [(0x7F7F, 0x7F80, true, true), (0x7F7F, 0x7F80, true, true), (0x7F7F, 0x7F7F, false, false)] := by decide +kernel

/-- 04: pf_mul of (2^100, +0) with itself. -/
theorem test_pfmul_overflows : let x : PF := ⟨0x71800000, 0, 0, false⟩
    (pfMul x x).hi = 0x7F800000 ∧ (pfMul x x).lo = 0 ∧ (pfMul x x).fl = flOVF := by decide +kernel

/-- 12, one dropout element: kept and scaled, and the uniform that the same draw would have given. -/
theorem test_dropout_element : (kcgEnt 1 0x1999999A 0x3F8E38E4 false 0xB3C14A075E92D6F8 ⟨0x40000000, 0, false⟩).v = 0x400E38E4 ∧
    (kcgEnt 0 0 0 false 0xB3C14A075E92D6F8 Entry.zero).v = w32 (.fin false 11780426 (-24)) := by decide +kernel

/-- 15 R361: the packing of the MEM_MAP packet of the text. -/
theorem test_mem_map_packing : unpack (leBytes 8 0x0000010000000011 ++ leBytes 8 0x0000001000000000 ++ leBytes 8 0x0000000000300004) 0 0 [10, 48, 48, 20, 1, 1] =
    [17, 0x000040000000, 0x001000000000, 4, 1, 1] ∧ (leBytes 8 0x0000010000000011) = [0x11, 0, 0, 0, 0, 1, 0, 0] := by decide +kernel

/-- 05, one key quantised: scale and elements. -/
theorem test_key_quantised : (quantRow false [fvOf ffBf16 0x3F80, fvOf ffBf16 0xC060, fvOf ffBf16 0x3E80, fvOf ffBf16 0x42C8]).1 = 0x3E65 ∧
    (quantRow false [fvOf ffBf16 0x3F80, fvOf ffBf16 0xC060, fvOf ffBf16 0x3E80, fvOf ffBf16 0x42C8]).2.1 = [0x49, 0xD8, 0x39, 0x7E] := by decide +kernel

/-- 05, a five-node tree: depths, and the staged keys that nodes 3 and 4 see. -/
theorem test_five_node_tree : treeDepths [0xFF, 0xFF, 0, 0, 2] = [1, 1, 2, 2, 3] ∧
    (List.range 5).filter (fun k => isAncestor [0xFF, 0xFF, 0, 0, 2] k 5 4) = [0, 2, 4] ∧
    (List.range 5).filter (fun k => isAncestor [0xFF, 0xFF, 0, 0, 2] k 5 3) = [0, 3] := by decide +kernel

/-- 08, locating an element: sub-block 10 is the third occupied one, sub-block 8 is empty. -/
theorem test_omt_locates : popBelow 0x8421 10 = 2 ∧ bitOf 0x8421 10 = true ∧ bitOf 0x8421 8 = false := by decide +kernel

/-- 08, six tokens, four experts: positions and counts by expert, and the slots of token 3. -/
theorem test_six_tokens :
    (let l := [(0, [0, 2]), (1, [1, 2]), (2, [0, 1]), (3, [2, 0]), (5, [2, 0])].map fun x => ((x.1, ⟨true, 4, x.2.map fun k => (k, 0), false⟩) : Nat × Routed)
     (assignAll 4 l).2 = [4, 2, 4, 0] ∧ ((assignAll 4 l).1.filter fun a => a.t == 3).map (fun a => (a.e, slotFor 2 (assignAll 4 l).2 a.e a.ord)) =
       [(2, (true, 2)), (0, (true, 0))]) := by decide +kernel

/-- 09, attempt 0: element x overflows at rank 3, element y goes through. -/
theorem test_hops_overflow : (hopElem false (-4) none ⟨0x40400000, 0, false⟩).1 = some 48 ∧ (hopElem false (-4) (some (some 48)) ⟨0x40800000, 0, false⟩).1 = some 112 ∧
    (hopElem false (-4) (some (some 112)) ⟨0x40000000, 0, false⟩).1 = none ∧ (hopElem false (-4) (some (some 5)) ⟨0x3EC00000, 0, false⟩).1 = some 11 := by
  decide +kernel

/-- 09, attempt 1: element y with the residuals that it writes. -/
theorem test_hops_carry : hopElem false (-2) none ⟨0x3EA00000, 0, false⟩ = (some 1, 0x3D800000) ∧
    hopElem false (-2) (some (some 1)) ⟨0x3EC00000, 0, false⟩ = (some 2, 0x3E000000) ∧
    hopElem false (-2) (some (some 2)) ⟨0xBE000000, 0, false⟩ = (some 2, 0xBE000000) := by decide +kernel

/-- 10, the first step of an adaptive group: the group's record, its constants, and the element. -/
def adaptive : List Byte :=
  leBytes 1 (1 + 4) ++ zeros 7 ++ [0x3D800000, 0x3F000000, 0x3F400000, 0x322BCC77, 0x3E000000, 0x3E800000, 0x40000000].flatMap (leBytes 4) ++ zeros 28

theorem test_adaptive_first_step :
    (updMultiplier false adaptive 10 0x46800000).v = 0x39000000 ∧
      (let k := updConsts false adaptive 0 10 0x46800000
       k.r1.v = 0x40000000 ∧ k.r2.v = 0x40800000 ∧
         (let r := updElem k (eMul false ⟨0x45800000, 0, false⟩ k.k) Entry.zero Entry.zero ⟨0x3FC00000, 0, 0, false⟩
          r.1.v = 0x3E800000 ∧ r.2.1.v = 0x3D800000 ∧ r.2.2.hi = 0x3FB68000 ∧ r.2.2.lo = 0)) := by decide +kernel

/-- 05, the maximum changes in the last block: the row after the three blocks, of keys z with values v. -/
def keysOf (l : List (Nat × Nat)) : List KeyVal := (enumFrom 0 l).map fun x => (x.1, [fvOf ffBf16 x.2.1], [fvOf ffBf16 x.2.2])

theorem test_maximum_changes :
    (let f : AttF := { (default : AttF) with headDim := 1, scale2 := 0x3F800000, scale := 0x3F800000 }
     let go (l : List (Nat × Nat)) (r : Row) : Row := (rowAttend f (fun _ _ _ => default) [fvOf ffBf16 0x3F80] (keysOf l) r).1
     let r0 := go [(0x3F80, 0x4080), (0x4000, 0x4100)] (Row.start 1)
     let r1 := go [(0x0000, 0x4000)] r0
     let r2 := go [(0x40A0, 0x4180)] r1
     [r0, r1, r2].map (fun r => (r.m.v, r.l.v, r.o.map Entry.v)) =
       [(0x40000000, 0x3FC00000, [0x41200000]), (0x40000000, 0x3FE00000, [0x41280000]), (0x40A00000, 0x3F9C0000, [0x418A8000])]) := by decide +kernel

/-- 03, M = 1,000 and N = 4,100: 264 tiles, the last at (7, 32), and 192 groups. -/
theorem test_grid_of_tiles : (let f : MatF := { (default : MatF) with m := 1000, n := 4100, k := 6144, tileM := 4, tileN := 4, kSplit := 1 }
    (f.gm, f.gn, f.units, f.coord 263, f.groups) = (8, 33, 264, (7, 32), 192)) := by decide +kernel

/-- 07, eviction in a hot set of 12 slots: V before F by release stamp, P and R no candidates. -/
theorem test_eviction_order :
    (let mdl (slots : List Nat) (refs : List (Nat × Bool)) (pins stamp : Nat) : Model :=
       { (default : Model) with state := 2, slots := slots, refs := refs, pins := pins, stamp := stamp }
     let ms := [(1, mdl [1, 2, 3, 4, 5] [(1, true), (2, false)] 0 0), (2, mdl [6, 7] [] 1 3100), (4, mdl [11, 12] [] 0 2400), (3, mdl [8, 9, 10] [] 0 3100)]
     (ms.map fun m => m.2.candidate) = [false, false, true, true] ∧
       (victimsFor 4 (ms.filter fun m => m.2.candidate)).map Prod.fst = [4, 3]) := by decide +kernel

/-! ## Ill-formed commands, a term for each check -/

/-- Well-formed operands of each compound kind, which the variants below leave by one value. -/
def hd0 : PktHead := default
def eddyW : EddyFields := { (default : EddyFields) with size := 1, members := [0], portOut := [0, 0, 0, 0], portIn := [0, 0, 0, 0] }
def expxW : ExpxFields := { (default : ExpxFields) with size := 1, members := [0], portOut := [0, 0, 0, 0], portIn := [0, 0, 0, 0] }
def tradeW : TradeFields :=
  { (default : TradeFields) with size := 1, members := [0], portOut := [0, 0, 0, 0], portIn := [0, 0, 0, 0], gportOut := [0, 0, 0, 0], gportIn := [0, 0, 0, 0],
                                 mesh := [0, 0, 0, 0, 0, 0, 0, 0] }
def stageW : StageFields := { (default : StageFields) with port := [0, 0, 0, 0] }
def flitW : Flit := { seq := 0, kind := 0, ack := 0, nak := false, vc := 0, first := false, last := false, len := 0, crVc := 0, crCount := 0, bind := 0, payload := [], crcOk := true }

theorem test_ill_formed_pkt_head : hd0.wellFormed = true ∧
    [
      { hd0 with queue := 2 ^ 10 }, { hd0 with seq := 2 ^ 32 }, { hd0 with reply := 2 ^ 8 }].all (fun f : PktHead => !f.wellFormed) = true := by decide +kernel

theorem test_ill_formed_ctx_fields : (default : CtxFields).wellFormed = true ∧
    [
      { (default : CtxFields) with id := 2 ^ 10 }, { (default : CtxFields) with cls := 2 ^ 2 }, { (default : CtxFields) with part := 2 ^ 2 },
      { (default : CtxFields) with domain := 2 ^ 16 }, { (default : CtxFields) with cqBase := 2 ^ 64 },
      { (default : CtxFields) with cqSlots := 2 ^ 17 }, { (default : CtxFields) with rqBase := 2 ^ 64 },
      { (default : CtxFields) with rqSlots := 2 ^ 17 }, { (default : CtxFields) with boostUs := 2 ^ 16 }].all (fun f : CtxFields => !f.wellFormed) = true := by decide +kernel

theorem test_ill_formed_map_fields : (default : MapFields).wellFormed = true ∧
    [
      { (default : MapFields) with ctx := 2 ^ 10 }, { (default : MapFields) with va := 2 ^ 48 }, { (default : MapFields) with pa := 2 ^ 48 },
      { (default : MapFields) with pages := 2 ^ 20 }].all (fun f : MapFields => !f.wellFormed) = true := by decide +kernel

theorem test_ill_formed_kv_ring_fields : (default : KvRingFields).wellFormed = true ∧
    [
      { (default : KvRingFields) with ctx := 2 ^ 10 }, { (default : KvRingFields) with header := 2 ^ 48 },
      { (default : KvRingFields) with w := 2 ^ 21 }, { (default : KvRingFields) with d := 2 ^ 9 }, { (default : KvRingFields) with heads := 2 ^ 9 },
      { (default : KvRingFields) with owner := 2 ^ 10 }, { (default : KvRingFields) with base := 2 ^ 48 },
      { (default : KvRingFields) with next := 2 ^ 32 }].all (fun f : KvRingFields => !f.wellFormed) = true := by decide +kernel

theorem test_ill_formed_so_fields : (default : SoFields).wellFormed = true ∧
    [
      { (default : SoFields) with id := 2 ^ 16 }, { (default : SoFields) with type := 2 ^ 3 }, { (default : SoFields) with domain := 2 ^ 16 },
      { (default : SoFields) with init := 2 ^ 64 }, { (default : SoFields) with param := 2 ^ 64 }].all (fun f : SoFields => !f.wellFormed) = true := by decide +kernel

theorem test_ill_formed_eddy_fields : eddyW.wellFormed = true ∧
    [
      { eddyW with tag := 2 ^ 32 }, { eddyW with ctx := 2 ^ 10 }, { eddyW with size := 2 ^ 9 }, { eddyW with rank := 2 ^ 8 },
      { eddyW with members := [] }, { eddyW with members := 2 ^ 16 :: List.replicate 0 0 }, { eddyW with ports := 2 ^ 3 },
      { eddyW with portOut := [] }, { eddyW with portOut := 2 ^ 4 :: List.replicate 3 0 }, { eddyW with portIn := [] },
      { eddyW with portIn := 2 ^ 4 :: List.replicate 3 0 }, { eddyW with layout := 2 ^ 2 }, { eddyW with slice := 2 ^ 22 },
      { eddyW with pos0 := 2 ^ 32 }, { eddyW with slots := 2 ^ 3 }, { eddyW with landBase := 2 ^ 64 }, { eddyW with slotBytes := 2 ^ 40 },
      { eddyW with formTimeout := 2 ^ 16 }, { eddyW with stallLimit := 2 ^ 16 }].all (fun f : EddyFields => !f.wellFormed) = true := by decide +kernel

theorem test_ill_formed_expx_fields : expxW.wellFormed = true ∧
    [
      { expxW with tag := 2 ^ 32 }, { expxW with ctx := 2 ^ 10 }, { expxW with size := 2 ^ 9 }, { expxW with rank := 2 ^ 8 },
      { expxW with members := [] }, { expxW with members := 2 ^ 16 :: List.replicate 0 0 }, { expxW with ports := 2 ^ 3 },
      { expxW with portOut := [] }, { expxW with portOut := 2 ^ 4 :: List.replicate 3 0 }, { expxW with portIn := [] },
      { expxW with portIn := 2 ^ 4 :: List.replicate 3 0 }, { expxW with pos0 := 2 ^ 32 }, { expxW with formTimeout := 2 ^ 16 },
      { expxW with stallLimit := 2 ^ 16 }].all (fun f : ExpxFields => !f.wellFormed) = true := by decide +kernel

theorem test_ill_formed_trade_fields : tradeW.wellFormed = true ∧
    [
      { tradeW with tag := 2 ^ 32 }, { tradeW with ctx := 2 ^ 10 }, { tradeW with size := 2 ^ 9 }, { tradeW with rank := 2 ^ 8 },
      { tradeW with members := [] }, { tradeW with members := 2 ^ 16 :: List.replicate 0 0 }, { tradeW with ports := 2 ^ 3 },
      { tradeW with portOut := [] }, { tradeW with portOut := 2 ^ 4 :: List.replicate 3 0 }, { tradeW with portIn := [] },
      { tradeW with portIn := 2 ^ 4 :: List.replicate 3 0 }, { tradeW with node := 2 ^ 4 }, { tradeW with gports := 2 ^ 3 },
      { tradeW with gportOut := [] }, { tradeW with gportOut := 2 ^ 4 :: List.replicate 3 0 }, { tradeW with gportIn := [] },
      { tradeW with gportIn := 2 ^ 4 :: List.replicate 3 0 }, { tradeW with mesh := [] }, { tradeW with mesh := 2 ^ 4 :: List.replicate 7 0 },
      { tradeW with landBase := 2 ^ 64 }, { tradeW with landTrains := 2 ^ 17 }, { tradeW with formTimeout := 2 ^ 16 },
      { tradeW with stallLimit := 2 ^ 16 }].all (fun f : TradeFields => !f.wellFormed) = true := by decide +kernel

theorem test_ill_formed_stage_fields : stageW.wellFormed = true ∧
    [
      { stageW with tag := 2 ^ 32 }, { stageW with ctx := 2 ^ 10 }, { stageW with peer := 2 ^ 16 }, { stageW with peerCtx := 2 ^ 10 },
      { stageW with ports := 2 ^ 3 }, { stageW with port := [] }, { stageW with port := 2 ^ 4 :: List.replicate 3 0 }, { stageW with slots := 2 ^ 8 },
      { stageW with itemBytes := 2 ^ 32 }, { stageW with base := 2 ^ 64 }, { stageW with formTimeout := 2 ^ 16 }, { stageW with stallLimit := 2 ^ 16 }].all (fun f : StageFields => !f.wellFormed) = true := by decide +kernel

theorem test_ill_formed_flit : flitW.wellFormed = true ∧
    [
      { flitW with seq := 2 ^ 12 }, { flitW with kind := 2 ^ 4 }, { flitW with ack := 2 ^ 12 }, { flitW with vc := 2 ^ 3 },
      { flitW with len := 2 ^ 8 }, { flitW with crVc := 2 ^ 3 }, { flitW with crCount := 2 ^ 10 }, { flitW with bind := 2 ^ 32 },
      { flitW with payload := zeros 241 }].all (fun f : Flit => !f.wellFormed) = true := by decide +kernel

theorem test_ill_formed_v_loc : (default : VLoc).wellFormed = true ∧
    [
      { (default : VLoc) with ctx := 2 ^ 10 }, { (default : VLoc) with stream := 2 ^ 2 }].all (fun f : VLoc => !f.wellFormed) = true := by decide +kernel

theorem test_ill_formed_v_word : (default : VWord).wellFormed = true ∧
    [
      { (default : VWord) with stream := 2 ^ 2 }, { (default : VWord) with d := 2 ^ 5 }, { (default : VWord) with a := 2 ^ 5 },
      { (default : VWord) with b := 2 ^ 5 }, { (default : VWord) with c := 2 ^ 5 }, { (default : VWord) with p := 2 ^ 3 },
      { (default : VWord) with fmt := 2 ^ 3 }, { (default : VWord) with imm := 2 ^ 25 }].all (fun f : VWord => !f.wellFormed) = true := by decide +kernel

theorem test_ill_formed_step_word : (default : StepWord).wellFormed = true ∧
    [
      { (default : StepWord) with d := 2 ^ 3 }, { (default : StepWord) with a := 2 ^ 3 }, { (default : StepWord) with b := 2 ^ 3 },
      { (default : StepWord) with c := 2 ^ 3 }, { (default : StepWord) with imm := 2 ^ 16 }].all (fun f : StepWord => !f.wellFormed) = true := by decide +kernel

theorem test_ill_formed_form_msg : (default : FormMsg).wellFormed = true ∧
    [
      { (default : FormMsg) with ctx := 2 ^ 10 }, { (default : FormMsg) with port := 2 ^ 4 }, { (default : FormMsg) with tag := 2 ^ 32 },
      { (default : FormMsg) with size := 2 ^ 9 }, { (default : FormMsg) with rank := 2 ^ 8 }].all (fun f : FormMsg => !f.wellFormed) = true := by decide +kernel

theorem test_ill_formed_open_msg : (default : OpenMsg).wellFormed = true ∧
    [
      { (default : OpenMsg) with ctx := 2 ^ 10 }, { (default : OpenMsg) with port := 2 ^ 4 }, { (default : OpenMsg) with tag := 2 ^ 32 },
      { (default : OpenMsg) with number := 2 ^ 64 }, { (default : OpenMsg) with step := 2 ^ 64 }].all (fun f : OpenMsg => !f.wellFormed) = true := by decide +kernel

theorem test_ill_formed_expx_msg : (default : ExpxMsg).wellFormed = true ∧
    [
      { (default : ExpxMsg) with ctx := 2 ^ 10 }, { (default : ExpxMsg) with tag := 2 ^ 32 }, { (default : ExpxMsg) with op := 2 ^ 20 },
      { (default : ExpxMsg) with src := 2 ^ 6 }, { (default : ExpxMsg) with dst := 2 ^ 6 }].all (fun f : ExpxMsg => !f.wellFormed) = true := by decide +kernel

/-- An ill-formed header. -/
def hdBad : PktHead := { hd0 with queue := 2 ^ 10 }

/-! Commands whose every operand fits, and every check of a command with one operand that does not. -/

theorem test_well_formed_1 : [
      .ctxCreate hd0 default, .ctxDestroy hd0 0, .ctxQuery hd0 0, .ctxSet hd0 0 0 0 0 0, .ctxSuspend hd0 0, .ctxResume hd0 0, .kcgSet hd0 0 0,
      .memMap hd0 default, .memUnmap hd0 0 0 0 false, .memTranslate hd0 0 0, .memCopy hd0 0 0 0 0 [], .memFill hd0 0 0 0 0, .tierQuery hd0 0 0,
      .kvRingCreate hd0 default, .cfgSet hd0 0 0, .cfgGet hd0 0, .planAdmit hd0 0 0 [], .monoCheckComplete 0, .planRelease hd0, .planRun hd0 0 0,
      .planQuery hd0, .soCreate hd0 default, .soDestroy hd0 0, .soRead hd0 0, .soSignal hd0 0 0 0, .soReset hd0 0 0, .tradeRingCreate hd0 tradeW,
      .tradeRingDestroy hd0 0 0, .tradeRingQuery hd0 0 0, .tradeStateRead hd0 0 0 0, .tradeStateWrite hd0 0 0 0 [], .eddyGroupCreate hd0 eddyW,
      .eddyGroupDestroy hd0 0 0, .eddyGroupQuery hd0 0 0, .expxGroupCreate hd0 expxW, .expxGroupDestroy hd0 0 0, .expxGroupQuery hd0 0 0,
      .stageQueueCreate hd0 stageW, .stageQueueDestroy hd0 0 0, .stageQueueQuery hd0 0 0, .mcRegister hd0 0 0 0, .mcUnregister hd0 0, .mcLoad hd0 0,
      .mcPin hd0 0, .mcUnpin hd0 0, .mcEvict hd0 0, .mcQuery hd0 0 0, .mcWriteback hd0 0, .modelWritebackComplete 0 { lost := false }, .telRead hd0 0 0 0].all (fun i : Instr => WellFormed i) = true := by decide +kernel

theorem test_well_formed_2 : [
      .lullRead hd0 0 0 0, .fwStageWrite hd0 0 [], .fwStageCommit hd0, .fwActivate hd0 0 0 0, .fwQuery hd0, .attestQuote hd0 0 0, .identRead hd0 0,
      .resetOrdered hd0, .pwrCapSet hd0 0, .pwrQuery hd0, .doorbellWrite 0, .packetAccept 0 [], .rqHeadWrite 0 0, .hiRetrainWrite 0,
      .hiWinWrite false 0, .mqEnableWrite 0, .ntEnableWrite 0, .ntAckWrite 0, .lostCounterRead default 0, .vlModuleIdWrite 0, .vlEnableWrite 0,
      .vpRetrainWrite 0 0, .registerWrite 0 0, .recEraseStaging, .recWrite, .recCommit, .recInstall, .recBootActive, .recRestart,
      .hostWriteTransaction 0 [] [], .hostReadRequest 0 0 0 [], .hostReadCompletion 0 0 [], .sidebandAccess false 0 false 0, .ucieTrainAttempt,
      .ucieFlitReplay 0, .ucieLinkFault, .ucieTrainAttemptEnd false, .vauriTrainAttempt 0, .vauriTrainAttemptEnd 0 default, .vauriUnitSend 0 0,
      .vauriIdleSend 0, .flitDataReceive 0 flitW, .flitSignalReceive 0 flitW, .flitLandAckReceive 0 flitW default, .flitIdleReceive 0 flitW,
      .vauriReplayTimeout 0, .vauriLockLost 0 0, .vauriBerCheck 0, .linkCreditReserve 0 0, .soRsignal 0 0].all (fun i : Instr => WellFormed i) = true := by decide +kernel

theorem test_well_formed_3 : [
      .rsignalDepart 0 0, .syncSignal 0 0, .syncWait 0 0, .syncTrywait 0 { op := 0 }, .syncRaise 0 0, .syncWaitge 0 0, .syncArrive 0 0, .syncArrivewait 0 0,
      .syncAcquire 0 0, .syncTryacquire 0 { op := 0 }, .syncRelease 0 0, .syncFadd 0 { op := 0 }, .syncTake 0 0, .syncReturn 0 0, .syncRead 0 { op := 0 }, .waiterWake 0 0,
      .soWaitTimeout 0 0, .soParityError 0, .matmul 0 0 [], .claimReply 0 0 0, .tileChunkLoad 0 0 [], .tileGroupComplete 0 0 default,
      .commitReply 0 0 default, .vector 0 0, .vadd default default, .vsub default default, .vmul default default, .vfma default default,
      .vmin default default, .vmax default default, .vabs default default, .vneg default default, .vcmp default default, .vsel default default,
      .vpand default default, .vpor default default, .vcvt default default, .vtwosum default default, .vtwoprod default default,
      .vld default default [], .vst default default default, .vlda default default, .vred default default, .vsort default default,
      .vmerge default default, .vtopk default default, .vsfu default default, .vkcg default default, .vvar default default, .sfuGrant 0 { storeOk := false }].all (fun i : Instr => WellFormed i) = true := by decide +kernel

theorem test_well_formed_4 : [
      .sfuResult 0, .msSplite 0 default, .msSpliti 0 default, .msSeg 0 default, .msHorner 0 default, .msFadd 0 default, .msFmul 0 default,
      .msFfma 0 default, .msScale 0 default, .msCmp 0 default, .msSel 0 default, .msSkip 0 default, .msClamp 0 default, .msSeamclamp 0 default,
      .msCall 0 default, .msOut 0 default, .attentionForward 0 0 [], .attentionBackward 0 0 [], .attentionVerify 0 0 [], .attentionAppend 0 0 [],
      .attentionCommit 0 0 [], .attendBlock 0 0 default [], .backwardStep 0 0 default [], .backwardCombine 0 { op := 0 }, .formMessage default,
      .sealMessage default 0 0, .sealedMessage default 0 0, .formTimeout default 0 0, .eddyBlockLand 0 0 [] ⟨false, []⟩, .eddyBlockForward 0 [],
      .eddyCreditGrant 0, .eddyCreditReceive 0 0, .eddyResendRequest 0 0 0 0 { dest := 0, circ := 0 }, .eddyStallTimeout 0, .openMessage default,
      .amaxExchangeMessage 0 false [], .trainLand 0 0 [] [], .trainSend 0 [], .tradeLandingCredit 0 0, .trainRerequest 0 0 0 0,
      .bucketVerdictMessage 0 0 default default 0, .verdictRecordMessage 0 [], .finalVerdictRecord 0 [], .gatherTrainLand 0 0 [] [],
      .tradeStallTimeout 0, .tradeReduce 0 0 [], .tradeGather 0 0 [], .optUpdate 0 0 [], .updateUnit 0 0 0 default [], .refreshUnit 0 0 0 default []].all (fun i : Instr => WellFormed i) = true := by decide +kernel

theorem test_well_formed_5 : [
      .expertRoute 0 0 [], .routeChunkCount 0 0 0 default [], .expertScatter 0 0 [], .expertCombine 0 0 [], .expxCountLand default 0 [] false,
      .expxRowGrant default, .expxRowLand default 0 0 0 [] false false, .expxReturnLand default 0 [] false false, .expxRowResendRequest default 0 0 0,
      .omtPack 0 0 [], .omtUnpack 0 0 [], .transfer 0 { op := 0 }, .transferStart 0 false, .transferSegmentComplete 0 false [], .stqPut 0 0 [], .stqGet 0 { op := 0 },
      .stqRelease 0 0, .stageItemLand 0 0 0 0 0 [] false false, .stageCreditReturn 0 0, .stageStallTimeout 0 0, .stepMark 0 0 [], .lullSnap 0 { op := 0 },
      .traceMark 0 0, .tensorRebuild 0 0 false, .quantumExpire 0, .saveOrder 0 0 {}, .saveDrainComplete 0 0, .saveComplete 0 0, .restoreOrder 0 { pos := 0 },
      .restoreComplete 0 0 [], .boostBudgetExpire 0, .telemetryMirrorRefresh, .i2cMirrorRead 0 0 0 false, .i2cRecoveryAccess 0 0 false [] 0,
      .governorTick 0 0, .thermalSample [], .thermalStepUp default 0, .inputVoltageEvent 0, .inputShutdown false 0, .auxPowerUp 0, .busbarPowerUp,
      .resetRelease false, .resetNLow, .calmPoint, .fwBackgroundCopyComplete, .flashStoreComplete false].all (fun i : Instr => WellFormed i) = true := by decide +kernel

theorem test_ill_formed_1 : [
      .ctxCreate hdBad default, .ctxCreate hd0 { (default : CtxFields) with id := 2 ^ 40 }, .ctxDestroy hdBad 0, .ctxDestroy hd0 (2 ^ 10),
      .ctxQuery hdBad 0, .ctxQuery hd0 (2 ^ 10), .ctxSet hdBad 0 0 0 0 0, .ctxSet hd0 (2 ^ 10) 0 0 0 0, .ctxSet hd0 0 (2 ^ 2) 0 0 0,
      .ctxSet hd0 0 0 0 (2 ^ 16) 0, .ctxSet hd0 0 0 0 0 (2 ^ 3), .ctxSuspend hdBad 0, .ctxSuspend hd0 (2 ^ 10), .ctxResume hdBad 0,
      .ctxResume hd0 (2 ^ 10), .kcgSet hdBad 0 0, .kcgSet hd0 (2 ^ 10) 0, .memMap hdBad default,
      .memMap hd0 { (default : MapFields) with ctx := 2 ^ 40 }, .memUnmap hdBad 0 0 0 false, .memUnmap hd0 (2 ^ 10) 0 0 false,
      .memUnmap hd0 0 (2 ^ 48) 0 false, .memUnmap hd0 0 0 (2 ^ 20) false, .memTranslate hdBad 0 0, .memTranslate hd0 (2 ^ 10) 0,
      .memTranslate hd0 0 (2 ^ 48), .memCopy hdBad 0 0 0 0 [], .memCopy hd0 (2 ^ 10) 0 0 0 [], .memCopy hd0 0 (2 ^ 48) 0 0 [],
      .memCopy hd0 0 0 (2 ^ 48) 0 [], .memCopy hd0 0 0 0 (2 ^ 40) [], .memFill hdBad 0 0 0 0, .memFill hd0 (2 ^ 10) 0 0 0, .memFill hd0 0 (2 ^ 48) 0 0,
      .memFill hd0 0 0 (2 ^ 40) 0, .tierQuery hdBad 0 0, .tierQuery hd0 (2 ^ 10) 0, .tierQuery hd0 0 (2 ^ 16), .kvRingCreate hdBad default,
      .kvRingCreate hd0 { (default : KvRingFields) with ctx := 2 ^ 40 }, .cfgSet hdBad 0 0, .cfgSet hd0 (2 ^ 8) 0, .cfgSet hd0 0 (2 ^ 32),
      .cfgGet hdBad 0, .cfgGet hd0 (2 ^ 8), .planAdmit hdBad 0 0 [], .planAdmit hd0 (2 ^ 48) 0 [], .planAdmit hd0 0 (2 ^ 32) [],
      .monoCheckComplete (2 ^ 10), .planRelease hdBad].all (fun i : Instr => !WellFormed i) = true := by decide +kernel

theorem test_ill_formed_2 : [
      .planRun hdBad 0 0, .planRun hd0 (2 ^ 64) 0, .planRun hd0 0 (2 ^ 48), .planQuery hdBad, .soCreate hdBad default,
      .soCreate hd0 { (default : SoFields) with id := 2 ^ 40 }, .soDestroy hdBad 0, .soDestroy hd0 (2 ^ 16), .soRead hdBad 0, .soRead hd0 (2 ^ 16),
      .soSignal hdBad 0 0 0, .soSignal hd0 (2 ^ 16) 0 0, .soSignal hd0 0 (2 ^ 4) 0, .soSignal hd0 0 0 (2 ^ 64), .soReset hdBad 0 0,
      .soReset hd0 (2 ^ 16) 0, .soReset hd0 0 (2 ^ 64), .tradeRingCreate hdBad tradeW, .tradeRingCreate hd0 { tradeW with tag := 2 ^ 40 },
      .tradeRingDestroy hdBad 0 0, .tradeRingDestroy hd0 (2 ^ 32) 0, .tradeRingDestroy hd0 0 (2 ^ 10), .tradeRingQuery hdBad 0 0,
      .tradeRingQuery hd0 (2 ^ 32) 0, .tradeRingQuery hd0 0 (2 ^ 10), .tradeStateRead hdBad 0 0 0, .tradeStateRead hd0 (2 ^ 10) 0 0,
      .tradeStateRead hd0 0 (2 ^ 6) 0, .tradeStateRead hd0 0 0 (2 ^ 3), .tradeStateWrite hdBad 0 0 0 [], .tradeStateWrite hd0 (2 ^ 10) 0 0 [],
      .tradeStateWrite hd0 0 (2 ^ 6) 0 [], .tradeStateWrite hd0 0 0 (2 ^ 6) [], .eddyGroupCreate hdBad eddyW,
      .eddyGroupCreate hd0 { eddyW with tag := 2 ^ 40 }, .eddyGroupDestroy hdBad 0 0, .eddyGroupDestroy hd0 (2 ^ 32) 0,
      .eddyGroupDestroy hd0 0 (2 ^ 10), .eddyGroupQuery hdBad 0 0, .eddyGroupQuery hd0 (2 ^ 32) 0, .eddyGroupQuery hd0 0 (2 ^ 10),
      .expxGroupCreate hdBad expxW, .expxGroupCreate hd0 { expxW with tag := 2 ^ 40 }, .expxGroupDestroy hdBad 0 0, .expxGroupDestroy hd0 (2 ^ 32) 0,
      .expxGroupDestroy hd0 0 (2 ^ 10), .expxGroupQuery hdBad 0 0, .expxGroupQuery hd0 (2 ^ 32) 0, .expxGroupQuery hd0 0 (2 ^ 10),
      .stageQueueCreate hdBad stageW].all (fun i : Instr => !WellFormed i) = true := by decide +kernel

theorem test_ill_formed_3 : [
      .stageQueueCreate hd0 { stageW with tag := 2 ^ 40 }, .stageQueueDestroy hdBad 0 0, .stageQueueDestroy hd0 (2 ^ 32) 0,
      .stageQueueDestroy hd0 0 (2 ^ 10), .stageQueueQuery hdBad 0 0, .stageQueueQuery hd0 (2 ^ 32) 0, .stageQueueQuery hd0 0 (2 ^ 10),
      .mcRegister hdBad 0 0 0, .mcRegister hd0 (2 ^ 16) 0 0, .mcRegister hd0 0 (2 ^ 40) 0, .mcRegister hd0 0 0 (2 ^ 48), .mcUnregister hdBad 0,
      .mcUnregister hd0 (2 ^ 16), .mcLoad hdBad 0, .mcLoad hd0 (2 ^ 16), .mcPin hdBad 0, .mcPin hd0 (2 ^ 16), .mcUnpin hdBad 0, .mcUnpin hd0 (2 ^ 16),
      .mcEvict hdBad 0, .mcEvict hd0 (2 ^ 16), .mcQuery hdBad 0 0, .mcQuery hd0 (2 ^ 16) 0, .mcQuery hd0 0 (2 ^ 9), .mcWriteback hdBad 0,
      .mcWriteback hd0 (2 ^ 16), .modelWritebackComplete (2 ^ 16) { lost := false }, .telRead hdBad 0 0 0, .telRead hd0 (2 ^ 16) 0 0, .telRead hd0 0 (2 ^ 16) 0,
      .telRead hd0 0 0 (2 ^ 6), .lullRead hdBad 0 0 0, .lullRead hd0 (2 ^ 10) 0 0, .lullRead hd0 0 (2 ^ 8) 0, .lullRead hd0 0 0 (2 ^ 3),
      .fwStageWrite hdBad 0 [], .fwStageWrite hd0 (2 ^ 28) [], .fwStageCommit hdBad, .fwActivate hdBad 0 0 0, .fwActivate hd0 (2 ^ 1) 0 0,
      .fwActivate hd0 0 (2 ^ 32) 0, .fwActivate hd0 0 0 (2 ^ 64), .fwQuery hdBad, .attestQuote hdBad 0 0, .attestQuote hd0 0 (2 ^ 48),
      .identRead hdBad 0, .identRead hd0 (2 ^ 48), .resetOrdered hdBad, .pwrCapSet hdBad 0, .pwrCapSet hd0 (2 ^ 11)].all (fun i : Instr => !WellFormed i) = true := by decide +kernel

theorem test_ill_formed_4 : [
      .pwrQuery hdBad, .doorbellWrite (2 ^ 10), .packetAccept (2 ^ 10) [], .rqHeadWrite (2 ^ 10) 0, .lostCounterRead default (2 ^ 12),
      .vpRetrainWrite (2 ^ 4) 0, .registerWrite (2 ^ 32) 0, .hostWriteTransaction (2 ^ 48) [] [], .hostReadRequest (2 ^ 48) 0 0 [],
      .hostReadRequest 0 (2 ^ 5) 0 [], .hostReadRequest 0 0 (2 ^ 12) [], .hostReadCompletion (2 ^ 12) 0 [], .hostReadCompletion 0 (2 ^ 4) [],
      .sidebandAccess false (2 ^ 48) false 0, .vauriTrainAttempt (2 ^ 4), .vauriTrainAttemptEnd (2 ^ 4) default, .vauriUnitSend (2 ^ 4) 0,
      .vauriUnitSend 0 (2 ^ 3), .vauriIdleSend (2 ^ 4), .flitDataReceive (2 ^ 4) flitW, .flitDataReceive 0 { flitW with seq := 2 ^ 40 },
      .flitSignalReceive (2 ^ 4) flitW, .flitSignalReceive 0 { flitW with seq := 2 ^ 40 }, .flitLandAckReceive (2 ^ 4) flitW default,
      .flitLandAckReceive 0 { flitW with seq := 2 ^ 40 } default, .flitIdleReceive (2 ^ 4) flitW, .flitIdleReceive 0 { flitW with seq := 2 ^ 40 },
      .vauriReplayTimeout (2 ^ 4), .vauriLockLost (2 ^ 4) 0, .vauriLockLost 0 (2 ^ 4), .vauriBerCheck (2 ^ 4), .linkCreditReserve (2 ^ 4) 0,
      .linkCreditReserve 0 (2 ^ 3), .soRsignal (2 ^ 10) 0, .soRsignal 0 (2 ^ 20), .rsignalDepart (2 ^ 10) 0, .rsignalDepart 0 (2 ^ 20),
      .syncSignal (2 ^ 10) 0, .syncSignal 0 (2 ^ 20), .syncWait (2 ^ 10) 0, .syncWait 0 (2 ^ 20), .syncTrywait (2 ^ 10) { op := 0 }, .syncTrywait 0 { op := 2 ^ 20 },
      .syncRaise (2 ^ 10) 0, .syncRaise 0 (2 ^ 20), .syncWaitge (2 ^ 10) 0, .syncWaitge 0 (2 ^ 20), .syncArrive (2 ^ 10) 0, .syncArrive 0 (2 ^ 20),
      .syncArrivewait (2 ^ 10) 0].all (fun i : Instr => !WellFormed i) = true := by decide +kernel

theorem test_ill_formed_5 : [
      .syncArrivewait 0 (2 ^ 20), .syncAcquire (2 ^ 10) 0, .syncAcquire 0 (2 ^ 20), .syncTryacquire (2 ^ 10) { op := 0 }, .syncTryacquire 0 { op := 2 ^ 20 },
      .syncRelease (2 ^ 10) 0, .syncRelease 0 (2 ^ 20), .syncFadd (2 ^ 10) { op := 0 }, .syncFadd 0 { op := 2 ^ 20 }, .syncTake (2 ^ 10) 0, .syncTake 0 (2 ^ 20),
      .syncReturn (2 ^ 10) 0, .syncReturn 0 (2 ^ 20), .syncRead (2 ^ 10) { op := 0 }, .syncRead 0 { op := 2 ^ 20 }, .waiterWake (2 ^ 16) 0, .waiterWake 0 (2 ^ 10),
      .soWaitTimeout (2 ^ 16) 0, .soWaitTimeout 0 (2 ^ 10), .soParityError (2 ^ 16), .matmul (2 ^ 10) 0 [], .matmul 0 (2 ^ 20) [],
      .claimReply (2 ^ 10) 0 0, .claimReply 0 (2 ^ 8) 0, .claimReply 0 0 (2 ^ 20), .tileChunkLoad (2 ^ 10) 0 [], .tileChunkLoad 0 (2 ^ 8) [],
      .tileGroupComplete (2 ^ 10) 0 default, .tileGroupComplete 0 (2 ^ 8) default, .commitReply (2 ^ 10) 0 default, .commitReply 0 (2 ^ 8) default,
      .vector (2 ^ 10) 0, .vector 0 (2 ^ 20), .vadd { (default : VLoc) with ctx := 2 ^ 40 } default,
      .vadd default { (default : VWord) with d := 2 ^ 40 }, .vsub { (default : VLoc) with ctx := 2 ^ 40 } default,
      .vsub default { (default : VWord) with d := 2 ^ 40 }, .vmul { (default : VLoc) with ctx := 2 ^ 40 } default,
      .vmul default { (default : VWord) with d := 2 ^ 40 }, .vfma { (default : VLoc) with ctx := 2 ^ 40 } default,
      .vfma default { (default : VWord) with d := 2 ^ 40 }, .vmin { (default : VLoc) with ctx := 2 ^ 40 } default,
      .vmin default { (default : VWord) with d := 2 ^ 40 }, .vmax { (default : VLoc) with ctx := 2 ^ 40 } default,
      .vmax default { (default : VWord) with d := 2 ^ 40 }, .vabs { (default : VLoc) with ctx := 2 ^ 40 } default,
      .vabs default { (default : VWord) with d := 2 ^ 40 }, .vneg { (default : VLoc) with ctx := 2 ^ 40 } default,
      .vneg default { (default : VWord) with d := 2 ^ 40 }, .vcmp { (default : VLoc) with ctx := 2 ^ 40 } default].all (fun i : Instr => !WellFormed i) = true := by decide +kernel

theorem test_ill_formed_6 : [
      .vcmp default { (default : VWord) with d := 2 ^ 40 }, .vsel { (default : VLoc) with ctx := 2 ^ 40 } default,
      .vsel default { (default : VWord) with d := 2 ^ 40 }, .vpand { (default : VLoc) with ctx := 2 ^ 40 } default,
      .vpand default { (default : VWord) with d := 2 ^ 40 }, .vpor { (default : VLoc) with ctx := 2 ^ 40 } default,
      .vpor default { (default : VWord) with d := 2 ^ 40 }, .vcvt { (default : VLoc) with ctx := 2 ^ 40 } default,
      .vcvt default { (default : VWord) with d := 2 ^ 40 }, .vtwosum { (default : VLoc) with ctx := 2 ^ 40 } default,
      .vtwosum default { (default : VWord) with d := 2 ^ 40 }, .vtwoprod { (default : VLoc) with ctx := 2 ^ 40 } default,
      .vtwoprod default { (default : VWord) with d := 2 ^ 40 }, .vld { (default : VLoc) with ctx := 2 ^ 40 } default [],
      .vld default { (default : VWord) with d := 2 ^ 40 } [], .vst { (default : VLoc) with ctx := 2 ^ 40 } default default,
      .vst default { (default : VWord) with d := 2 ^ 40 } default, .vlda { (default : VLoc) with ctx := 2 ^ 40 } default,
      .vlda default { (default : VWord) with d := 2 ^ 40 }, .vred { (default : VLoc) with ctx := 2 ^ 40 } default,
      .vred default { (default : VWord) with d := 2 ^ 40 }, .vsort { (default : VLoc) with ctx := 2 ^ 40 } default,
      .vsort default { (default : VWord) with d := 2 ^ 40 }, .vmerge { (default : VLoc) with ctx := 2 ^ 40 } default,
      .vmerge default { (default : VWord) with d := 2 ^ 40 }, .vtopk { (default : VLoc) with ctx := 2 ^ 40 } default,
      .vtopk default { (default : VWord) with d := 2 ^ 40 }, .vsfu { (default : VLoc) with ctx := 2 ^ 40 } default,
      .vsfu default { (default : VWord) with d := 2 ^ 40 }, .vkcg { (default : VLoc) with ctx := 2 ^ 40 } default,
      .vkcg default { (default : VWord) with d := 2 ^ 40 }, .vvar { (default : VLoc) with ctx := 2 ^ 40 } default,
      .vvar default { (default : VWord) with d := 2 ^ 40 }, .sfuGrant (2 ^ 8) { storeOk := false }, .sfuResult (2 ^ 8), .msSplite (2 ^ 8) default,
      .msSplite 0 { (default : StepWord) with d := 2 ^ 40 }, .msSpliti (2 ^ 8) default, .msSpliti 0 { (default : StepWord) with d := 2 ^ 40 },
      .msSeg (2 ^ 8) default, .msSeg 0 { (default : StepWord) with d := 2 ^ 40 }, .msHorner (2 ^ 8) default,
      .msHorner 0 { (default : StepWord) with d := 2 ^ 40 }, .msFadd (2 ^ 8) default, .msFadd 0 { (default : StepWord) with d := 2 ^ 40 },
      .msFmul (2 ^ 8) default, .msFmul 0 { (default : StepWord) with d := 2 ^ 40 }, .msFfma (2 ^ 8) default,
      .msFfma 0 { (default : StepWord) with d := 2 ^ 40 }, .msScale (2 ^ 8) default].all (fun i : Instr => !WellFormed i) = true := by decide +kernel

theorem test_ill_formed_7 : [
      .msScale 0 { (default : StepWord) with d := 2 ^ 40 }, .msCmp (2 ^ 8) default, .msCmp 0 { (default : StepWord) with d := 2 ^ 40 },
      .msSel (2 ^ 8) default, .msSel 0 { (default : StepWord) with d := 2 ^ 40 }, .msSkip (2 ^ 8) default,
      .msSkip 0 { (default : StepWord) with d := 2 ^ 40 }, .msClamp (2 ^ 8) default, .msClamp 0 { (default : StepWord) with d := 2 ^ 40 },
      .msSeamclamp (2 ^ 8) default, .msSeamclamp 0 { (default : StepWord) with d := 2 ^ 40 }, .msCall (2 ^ 8) default,
      .msCall 0 { (default : StepWord) with d := 2 ^ 40 }, .msOut (2 ^ 8) default, .msOut 0 { (default : StepWord) with d := 2 ^ 40 },
      .attentionForward (2 ^ 10) 0 [], .attentionForward 0 (2 ^ 20) [], .attentionBackward (2 ^ 10) 0 [], .attentionBackward 0 (2 ^ 20) [],
      .attentionVerify (2 ^ 10) 0 [], .attentionVerify 0 (2 ^ 20) [], .attentionAppend (2 ^ 10) 0 [], .attentionAppend 0 (2 ^ 20) [],
      .attentionCommit (2 ^ 10) 0 [], .attentionCommit 0 (2 ^ 20) [], .attendBlock (2 ^ 10) 0 default [], .attendBlock 0 (2 ^ 8) default [],
      .backwardStep (2 ^ 10) 0 default [], .backwardStep 0 (2 ^ 8) default [], .backwardCombine (2 ^ 10) { op := 0 }, .backwardCombine 0 { op := 2 ^ 20 },
      .formMessage { (default : FormMsg) with ctx := 2 ^ 40 }, .sealMessage default (2 ^ 10) 0, .sealMessage default 0 (2 ^ 32),
      .sealedMessage default (2 ^ 10) 0, .sealedMessage default 0 (2 ^ 32), .formTimeout default (2 ^ 10) 0, .formTimeout default 0 (2 ^ 32),
      .eddyBlockLand (2 ^ 10) 0 [] ⟨false, []⟩, .eddyBlockLand 0 (2 ^ 4) [] ⟨false, []⟩, .eddyBlockForward (2 ^ 10) [], .eddyCreditGrant (2 ^ 10),
      .eddyCreditReceive (2 ^ 10) 0, .eddyCreditReceive 0 (2 ^ 32), .eddyResendRequest (2 ^ 10) 0 0 0 { dest := 0, circ := 0 }, .eddyResendRequest 0 0 0 0 { dest := 2 ^ 16, circ := 0 }, .eddyResendRequest 0 0 0 0 { dest := 0, circ := 2 ^ 32 },
      .eddyStallTimeout (2 ^ 10), .openMessage { (default : OpenMsg) with ctx := 2 ^ 40 }, .amaxExchangeMessage (2 ^ 10) false [],
      .trainLand (2 ^ 10) 0 [] []].all (fun i : Instr => !WellFormed i) = true := by decide +kernel

theorem test_ill_formed_8 : [
      .trainLand 0 (2 ^ 4) [] [], .trainSend (2 ^ 10) [], .tradeLandingCredit (2 ^ 10) 0, .tradeLandingCredit 0 (2 ^ 17),
      .trainRerequest (2 ^ 10) 0 0 0, .trainRerequest 0 (2 ^ 4) 0 0, .trainRerequest 0 0 (2 ^ 24) 0, .trainRerequest 0 0 0 (2 ^ 16),
      .bucketVerdictMessage (2 ^ 10) 0 default default 0, .bucketVerdictMessage 0 (2 ^ 24) default default 0,
      .bucketVerdictMessage 0 0 default default (2 ^ 8), .verdictRecordMessage (2 ^ 10) [], .finalVerdictRecord (2 ^ 10) [],
      .gatherTrainLand (2 ^ 10) 0 [] [], .gatherTrainLand 0 (2 ^ 4) [] [], .tradeStallTimeout (2 ^ 10), .tradeReduce (2 ^ 10) 0 [],
      .tradeReduce 0 (2 ^ 20) [], .tradeGather (2 ^ 10) 0 [], .tradeGather 0 (2 ^ 20) [], .optUpdate (2 ^ 10) 0 [], .optUpdate 0 (2 ^ 20) [],
      .updateUnit (2 ^ 10) 0 0 default [], .updateUnit 0 (2 ^ 20) 0 default [], .updateUnit 0 0 (2 ^ 8) default [],
      .refreshUnit (2 ^ 10) 0 0 default [], .refreshUnit 0 (2 ^ 20) 0 default [], .refreshUnit 0 0 (2 ^ 8) default [], .expertRoute (2 ^ 10) 0 [],
      .expertRoute 0 (2 ^ 20) [], .routeChunkCount (2 ^ 10) 0 0 default [], .routeChunkCount 0 (2 ^ 20) 0 default [],
      .routeChunkCount 0 0 (2 ^ 10) default [], .expertScatter (2 ^ 10) 0 [], .expertScatter 0 (2 ^ 20) [], .expertCombine (2 ^ 10) 0 [],
      .expertCombine 0 (2 ^ 20) [], .expxCountLand { (default : ExpxMsg) with ctx := 2 ^ 40 } 0 [] false, .expxCountLand default (2 ^ 64) [] false,
      .expxCountLand default 0 [2 ^ 32] false, .expxRowGrant { (default : ExpxMsg) with ctx := 2 ^ 40 },
      .expxRowLand { (default : ExpxMsg) with ctx := 2 ^ 40 } 0 0 0 [] false false, .expxRowLand default (2 ^ 11) 0 0 [] false false,
      .expxRowLand default 0 (2 ^ 32) 0 [] false false, .expxRowLand default 0 0 (2 ^ 32) [] false false,
      .expxReturnLand { (default : ExpxMsg) with ctx := 2 ^ 40 } 0 [] false false, .expxReturnLand default (2 ^ 32) [] false false,
      .expxRowResendRequest { (default : ExpxMsg) with ctx := 2 ^ 40 } 0 0 0, .expxRowResendRequest default (2 ^ 11) 0 0,
      .expxRowResendRequest default 0 (2 ^ 32) 0].all (fun i : Instr => !WellFormed i) = true := by decide +kernel

theorem test_ill_formed_9 : [
      .expxRowResendRequest default 0 0 (2 ^ 32), .omtPack (2 ^ 10) 0 [], .omtPack 0 (2 ^ 20) [], .omtUnpack (2 ^ 10) 0 [], .omtUnpack 0 (2 ^ 20) [],
      .transfer (2 ^ 10) { op := 0 }, .transfer 0 { op := 2 ^ 20 }, .transferStart (2 ^ 10) false, .transferSegmentComplete (2 ^ 10) false [], .stqPut (2 ^ 10) 0 [],
      .stqPut 0 (2 ^ 20) [], .stqGet (2 ^ 10) { op := 0 }, .stqGet 0 { op := 2 ^ 20 }, .stqRelease (2 ^ 10) 0, .stqRelease 0 (2 ^ 20),
      .stageItemLand (2 ^ 10) 0 0 0 0 [] false false, .stageItemLand 0 (2 ^ 32) 0 0 0 [] false false, .stageItemLand 0 0 (2 ^ 64) 0 0 [] false false,
      .stageItemLand 0 0 0 (2 ^ 64) 0 [] false false, .stageItemLand 0 0 0 0 (2 ^ 16) [] false false, .stageCreditReturn (2 ^ 10) 0,
      .stageCreditReturn 0 (2 ^ 32), .stageStallTimeout (2 ^ 10) 0, .stageStallTimeout 0 (2 ^ 32), .stepMark (2 ^ 10) 0 [], .stepMark 0 (2 ^ 20) [],
      .lullSnap (2 ^ 10) { op := 0 }, .lullSnap 0 { op := 2 ^ 20 }, .traceMark (2 ^ 10) 0, .traceMark 0 (2 ^ 20), .tensorRebuild (2 ^ 10) 0 false,
      .tensorRebuild 0 (2 ^ 20) false, .quantumExpire (2 ^ 10), .saveOrder (2 ^ 10) 0 {}, .saveOrder 0 (2 ^ 8) {}, .saveDrainComplete (2 ^ 10) 0,
      .saveDrainComplete 0 (2 ^ 8), .saveComplete (2 ^ 10) 0, .saveComplete 0 (2 ^ 8), .restoreOrder (2 ^ 10) { pos := 0 }, .restoreOrder 0 { pos := 2 ^ 8 },
      .restoreComplete (2 ^ 10) 0 [], .restoreComplete 0 (2 ^ 8) [], .boostBudgetExpire (2 ^ 16), .i2cMirrorRead (2 ^ 7) 0 0 false,
      .i2cMirrorRead 0 (2 ^ 16) 0 false, .i2cRecoveryAccess (2 ^ 7) 0 false [] 0, .i2cRecoveryAccess 0 (2 ^ 16) false [] 0,
      .thermalStepUp default (2 ^ 16), .inputVoltageEvent (2 ^ 32)].all (fun i : Instr => !WellFormed i) = true := by decide +kernel

theorem test_ill_formed_10 : [
      .inputShutdown false (2 ^ 32), .auxPowerUp (2 ^ 3)].all (fun i : Instr => !WellFormed i) = true := by decide +kernel

/-- Every command that meets errors, with a list of them. -/
def withErrs (l : List SectorErr) : List Instr := [
      .memCopy hd0 0 0 0 0 l, .planAdmit hd0 0 0 l, .modelWritebackComplete 0 { lost := false, errs := l }, .packetAccept 0 l,
      .hostWriteTransaction 0 [] l, .hostReadRequest 0 0 0 l, .kvRingCreate hd0 { (default : KvRingFields) with errs := l }, .syncTrywait 0 ⟨0, l⟩,
      .syncTryacquire 0 ⟨0, l⟩, .syncFadd 0 ⟨0, l⟩, .syncRead 0 ⟨0, l⟩, .matmul 0 0 l, .tileChunkLoad 0 0 l, .commitReply 0 0 ⟨default, l⟩,
      .vld default default l, .vst default default l, .attentionForward 0 0 l, .attentionBackward 0 0 l, .attentionVerify 0 0 l,
      .attentionAppend 0 0 l, .attentionCommit 0 0 l, .attendBlock 0 0 default l, .backwardStep 0 0 default l, .backwardCombine 0 ⟨0, l⟩,
      .eddyBlockLand 0 0 [] ⟨false, l⟩, .eddyBlockForward 0 l, .eddyResendRequest 0 0 0 0 ⟨0, 0, l⟩, .trainLand 0 0 [] l, .trainSend 0 l,
      .tradeReduce 0 0 l, .tradeGather 0 0 l, .optUpdate 0 0 l, .updateUnit 0 0 0 default l, .refreshUnit 0 0 0 default l,
      .expertRoute 0 0 l, .routeChunkCount 0 0 0 default l, .expertScatter 0 0 l, .expertCombine 0 0 l,
      .expxRowGrant { (default : ExpxMsg) with errs := l }, .omtPack 0 0 l, .omtUnpack 0 0 l, .transfer 0 ⟨0, l⟩, .transferSegmentComplete 0 false l,
      .stqPut 0 0 l, .stqGet 0 ⟨0, l⟩, .stepMark 0 0 l, .lullSnap 0 ⟨0, l⟩, .restoreComplete 0 0 l]

/-- A detected error names a sector below 2^42 and a syndrome of 16 bits, and a management message fails eight tries at most. -/
theorem test_ill_formed_errors : (withErrs [default]).all (fun i => WellFormed i) = true ∧ (withErrs [{ (default : SectorErr) with sector := 2 ^ 42 }]).all (fun i => !WellFormed i) = true ∧
    (withErrs [{ (default : SectorErr) with syndrome := 2 ^ 16 }]).all (fun i => !WellFormed i) = true ∧
    [({ die := 9 } : MsgTries), { hub := 9 }, { cp := 9 }].all (fun m => !WellFormed (.ctxDestroy { hd0 with msg := m } 0) && (!WellFormed (.saveOrder 0 0 m) &&
      !WellFormed (.restoreOrder 0 ⟨0, m⟩))) = true := by decide +kernel
end Sys2Proof.Tests
end

section
/-! SUPPORT. Host commands of the memory tiers: a ready packet that names a context, the searches for a mapping, and MEM_MAP
(07_memory_tiers R176 to R178). -/
namespace Sys2Proof

/-! ## The operands of MEM_MAP -/

/-- The page size of MM_SIZE. -/
def MapFields.pageSize (f : MapFields) : Nat := if f.size1G then 2 ^ 30 else 2 ^ 21

theorem MapFields.pageSize_pos (f : MapFields) : 0 < f.pageSize := by
  unfold MapFields.pageSize
  split <;> decide

/-- Check 1 of R178 fails. -/
def MapFields.misaligned (f : MapFields) : Bool := decide (f.va % f.pageSize ≠ 0) || decide (f.pa % f.pageSize ≠ 0)

theorem MapFields.misaligned_iff (f : MapFields) : f.misaligned = true ↔ f.va % f.pageSize ≠ 0 ∨ f.pa % f.pageSize ≠ 0 := by
  simp [MapFields.misaligned]

/-- Each address of the command's range lies in one of its pages. -/
theorem MapFields.exists_page {f : MapFields} {a : Nat} (h1 : f.va ≤ a) (h2 : a < f.va + f.pages * f.pageSize) :
    ∃ i, i < f.pages ∧ f.va + i * f.pageSize ≤ a ∧ a < f.va + i * f.pageSize + f.pageSize := by
  have lt : (a - f.va) / f.pageSize < f.pages := (Nat.div_lt_iff_lt_mul f.pageSize_pos).mpr (by omega)
  have split := Nat.div_add_mod' (a - f.va) f.pageSize
  have rest := Nat.mod_lt (a - f.va) f.pageSize_pos
  exact ⟨_, lt, by omega, by omega⟩

/-- Each page of the command lies in its range. -/
theorem MapFields.page_inside {f : MapFields} {i : Nat} (h : i < f.pages) : i * f.pageSize + f.pageSize ≤ f.pages * f.pageSize := by
  rw [← Nat.succ_mul]
  exact Nat.mul_le_mul_right _ h

end Sys2Proof

namespace Sys2Proof.Machine

/-! One proof after another, so that the check's memory is not shared among many threads. -/
set_option Elab.async false

/-! ## A ready packet -/

/-- Accepting a packet leaves memory as it was. -/
@[simp] theorem State.accept_mem (s : State) (h : PktHead) (op : Nat) : (s.accept h op).mem = s.mem := by
  obtain ⟨_, _, e, _⟩ := s.accept_only h op
  rw [e]

/-- Accepting a packet leaves the map of physical addresses as it was (R169). -/
@[simp] theorem State.accept_region (s : State) (h : PktHead) (op a : Nat) : (s.accept h op).region a = s.region a := by
  obtain ⟨_, _, e, _⟩ := s.accept_only h op
  rw [e]
  rfl

/-- Accepting a packet leaves the save pools as they were (R340). -/
@[simp] theorem State.accept_inSavePool (s : State) (h : PktHead) (op a : Nat) : (s.accept h op).inSavePool a = s.inSavePool a := by
  obtain ⟨_, _, e, _⟩ := s.accept_only h op
  rw [e]
  rfl

/-- Accepting a packet leaves of each context all but its positions. -/
theorem State.accept_ctx {s : State} {c : Nat} {x : Ctx} (h : PktHead) (op : Nat) (e : kvGet c s.ctxs = some x) :
    ∃ ps, kvGet c (s.accept h op).ctxs = some { x with positions := ps } :=
  (s.accept_only h op).ctx e

/-- Updating a context leaves memory as it was. -/
@[simp] theorem State.ctxDo_mem (s : State) (c : Nat) (f : Ctx → Ctx) : (s.ctxDo c f).mem = s.mem := by
  obtain ⟨_, e⟩ := s.ctxDo_only c f
  rw [e]

/-- A command whose packet is ready answers what its body answers of the state that has accepted the packet. -/
theorem State.command_of_ready {s : State} {h : PktHead} {slots : Nat} (hr : Ready s h slots) (op : Nat)
    (body : State → Status × List Byte × State) {st : Status} {results : List Byte} {u : State}
    (e : body (s.accept h op) = (st, results, u)) : s.command h op slots body = .next (u.reply h op slots st results) := by
  obtain ⟨⟨begins, pass⟩, fits⟩ := hr
  simp [State.command, State.commit, State.reply, begins, pass, CpCheck.cause, Nat.not_lt.mpr fits, e]

/-- A ready command on an existing context answers what its body answers. -/
theorem State.onCtx_of_ready {s : State} {h : PktHead} {slots c op : Nat} {x : Ctx} (hr : Ready s h slots) (hc : c ≠ 0)
    (hx : kvGet c (s.accept h op).ctxs = some x) (bad0 : Status) (body : Ctx → State → Status × List Byte × State) {st : Status}
    {results : List Byte} {u : State} (e : body x (s.accept h op) = (st, results, u)) :
    s.onCtx h op slots c bad0 body = .next (u.reply h op slots st results) :=
  State.command_of_ready hr op _ (by simp [hc, hx, e])

/-! ## Checks in order -/

@[simp] theorem firstFail_nil : firstFail [] = none := rfl
@[simp] theorem firstFail_true (st : Status) (l : List (Bool × Status)) : firstFail ((true, st) :: l) = some st := rfl
@[simp] theorem firstFail_false (st : Status) (l : List (Bool × Status)) : firstFail ((false, st) :: l) = firstFail l := rfl

/-- The first check that fails refuses. -/
theorem guarded_of_fail {l : List (Bool × Status)} {st : Status} (e : firstFail l = some st) (s : State)
    (body : State → Status × List Byte × State) : guarded l s body = (st, [], s) := by
  unfold guarded
  rw [e]
  rfl

/-- The body runs where no check fails. -/
theorem guarded_of_pass {l : List (Bool × Status)} (e : firstFail l = none) (s : State) (body : State → Status × List Byte × State) :
    guarded l s body = body s := by
  unfold guarded
  rw [e]

/-! ## The mapping that holds an address -/

/-- A mapping that is found is one of the list and holds the address. -/
theorem findMap_some {l : List Mapping} {a : Nat} {m : Mapping} (e : findMap l a = some m) : m ∈ l ∧ m.va ≤ a ∧ a < m.va + m.size := by
  unfold findMap at e
  exact ⟨List.mem_of_find?_eq_some e, by simpa using List.find?_some e⟩

/-- No mapping is found where none holds the address. -/
theorem findMap_eq_none_iff {l : List Mapping} {a : Nat} : findMap l a = none ↔ ∀ m ∈ l, ¬ (m.va ≤ a ∧ a < m.va + m.size) := by
  simp [findMap]

/-- The first list is searched first. -/
theorem findMap_append (l k : List Mapping) (a : Nat) : findMap (l ++ k) a = (findMap l a).or (findMap k a) := List.find?_append

/-! ## MEM_MAP (R178) -/

/-- Check 2 of R178 fails. -/
def State.mapOutOfRange (s : State) (f : MapFields) : Bool :=
  decide (f.va + f.pages * f.pageSize > 2 ^ 48) ||
    ((List.range f.pages).map (· * f.pageSize)).any fun o => !s.pageOk (f.pa + o) f.pageSize

/-- Check 3 of R178 fails. -/
def State.mapStraddles (s : State) (f : MapFields) : Bool :=
  ((List.range f.pages).map (· * f.pageSize)).any fun o => s.straddles (f.pa + o) f.pageSize

/-- Check 4 of R178 fails. -/
def Ctx.mapBusy (x : Ctx) (f : MapFields) : Bool := x.maps.any fun m => meet (m.va, m.size) (f.va, f.pages * f.pageSize)

/-- The checks in their order. -/
def State.mapChecks (s : State) (f : MapFields) (x : Ctx) : List (Bool × Status) :=
  [(f.pages == 0, .paramRange), (f.misaligned, .memAlign), (s.mapOutOfRange f, .memRange), (s.mapStraddles f, .memAlign),
    (x.mapBusy f, .memBusy)]

/-- The mapping of the page at an offset from the first one. -/
def State.newPage (s : State) (f : MapFields) (o : Nat) : Mapping :=
  { va := f.va + o, pa := f.pa + o, big := f.size1G, write := f.write, hot := false
    loc := match s.region (f.pa + o) with | .local _ => true | _ => false }

/-- The mappings that a command makes. -/
def State.newPages (s : State) (f : MapFields) : List Mapping := ((List.range f.pages).map (· * f.pageSize)).map (s.newPage f)

theorem exec_memMap (h : PktHead) (f : MapFields) (s : State) : exec (.memMap h f) s = s.onMem h 0x0201 f.ctx fun x s =>
    guarded (s.mapChecks f x) s fun s => (.ok, [], s.ctxDo f.ctx fun x => { x with maps := x.maps ++ s.newPages f }) := rfl

theorem State.mapOutOfRange_iff (s : State) (f : MapFields) : s.mapOutOfRange f = true ↔
    2 ^ 48 < f.va + f.pages * f.pageSize ∨ ∃ i, i < f.pages ∧ s.pageOk (f.pa + i * f.pageSize) f.pageSize = false := by
  simp [State.mapOutOfRange]

theorem State.mapStraddles_iff (s : State) (f : MapFields) :
    s.mapStraddles f = true ↔ ∃ i, i < f.pages ∧ s.straddles (f.pa + i * f.pageSize) f.pageSize = true := by
  simp [State.mapStraddles]

theorem Ctx.mapBusy_iff (x : Ctx) (f : MapFields) :
    x.mapBusy f = true ↔ ∃ m ∈ x.maps, meet (m.va, m.size) (f.va, f.pages * f.pageSize) = true := by
  simp [Ctx.mapBusy]

/-- Accepting the packet, which moves positions, leaves the checks as they were. -/
theorem State.accept_mapChecks (s : State) (h : PktHead) (op : Nat) (f : MapFields) (x : Ctx) (ps : List Position) :
    (s.accept h op).mapChecks f { x with positions := ps } = s.mapChecks f x := by
  simp only [State.mapChecks, State.mapOutOfRange, State.mapStraddles, Ctx.mapBusy, State.pageOk, State.straddles, State.accept_region,
    State.accept_inSavePool]

/-- Accepting the packet leaves the mappings to make as they were. -/
theorem State.accept_newPages (s : State) (h : PktHead) (op : Nat) (f : MapFields) : (s.accept h op).newPages f = s.newPages f :=
  List.map_congr_left fun o _ => by simp only [State.newPage, State.accept_region]

/-- A MEM_MAP that fails a check maps nothing. -/
theorem memMap_refuses {s : State} {h : PktHead} {f : MapFields} {x : Ctx} {st : Status} (hr : Ready s h 1) (hc : f.ctx ≠ 0)
    (hx : kvGet f.ctx s.ctxs = some x) (fails : firstFail (s.mapChecks f x) = some st) :
    Replies (.memMap h f) s h 0x0201 1 st [] fun u => u.mem = s.mem ∧ CtxShows u f.ctx fun y => y.maps = x.maps := by
  obtain ⟨ps, hy⟩ := State.accept_ctx h 0x0201 hx
  rw [← s.accept_mapChecks h 0x0201 f x ps] at fails
  exact ⟨s.accept h 0x0201, (exec_memMap h f s).trans (State.onCtx_of_ready hr hc hy _ _ (guarded_of_fail fails _ _)),
    s.accept_mem h _, _, hy, rfl⟩

/-- A MEM_MAP that passes every check adds its pages to the context's. -/
theorem memMap_adds_newPages {s : State} {h : PktHead} {f : MapFields} {x : Ctx} (hr : Ready s h 1) (hc : f.ctx ≠ 0)
    (hx : kvGet f.ctx s.ctxs = some x) (passes : firstFail (s.mapChecks f x) = none) :
    Replies (.memMap h f) s h 0x0201 1 .ok [] fun u => u.mem = s.mem ∧ CtxShows u f.ctx fun y => y.maps = x.maps ++ s.newPages f := by
  obtain ⟨ps, hy⟩ := State.accept_ctx h 0x0201 hx
  rw [← s.accept_mapChecks h 0x0201 f x ps] at passes
  refine ⟨_, (exec_memMap h f s).trans (State.onCtx_of_ready hr hc hy _ _ (guarded_of_pass passes _ _)), by simp, ?_⟩
  exact ⟨_, by rw [State.ctxDo_ctx, if_pos rfl, hy, s.accept_newPages]; rfl, rfl⟩

/-! ## What the new pages translate -/

theorem State.mem_newPages {s : State} {f : MapFields} {m : Mapping} :
    m ∈ s.newPages f ↔ ∃ i, i < f.pages ∧ s.newPage f (i * f.pageSize) = m := by
  simp [State.newPages]

/-- Outside the command's range no new page is found. -/
theorem findMap_newPages_outside (s : State) {f : MapFields} {a : Nat} (h : a < f.va ∨ f.va + f.pages * f.pageSize ≤ a) :
    findMap (s.newPages f) a = none := by
  rw [findMap_eq_none_iff]
  intro m hm ⟨h1, h2⟩
  obtain ⟨i, hi, rfl⟩ := State.mem_newPages.mp hm
  have inside := MapFields.page_inside hi
  change f.va + i * f.pageSize ≤ a at h1
  change a < f.va + i * f.pageSize + f.pageSize at h2
  omega

/-- In the command's range a new page is found. -/
theorem findMap_newPages_inside (s : State) {f : MapFields} {a : Nat} (h1 : f.va ≤ a) (h2 : a < f.va + f.pages * f.pageSize) :
    ∃ o, f.va + o ≤ a ∧ findMap (s.newPages f) a = some (s.newPage f o) := by
  obtain ⟨i, hi, le, lt⟩ := MapFields.exists_page h1 h2
  cases e : findMap (s.newPages f) a with
  | none => exact absurd ⟨le, lt⟩ (findMap_eq_none_iff.mp e _ (State.mem_newPages.mpr ⟨i, hi, rfl⟩))
  | some m =>
    obtain ⟨mem, low, _⟩ := findMap_some e
    obtain ⟨j, _, rfl⟩ := State.mem_newPages.mp mem
    exact ⟨_, low, rfl⟩

/-- Where check 4 passes, no old page holds an address of the command's range. -/
theorem Ctx.findMap_of_not_mapBusy {x : Ctx} {f : MapFields} {a : Nat} (free : x.mapBusy f = false) (h1 : f.va ≤ a)
    (h2 : a < f.va + f.pages * f.pageSize) : findMap x.maps a = none := by
  rw [findMap_eq_none_iff]
  intro m hm ⟨h3, h4⟩
  have apart : ¬ meet (m.va, m.size) (f.va, f.pages * f.pageSize) = true := fun e => by
    rw [(x.mapBusy_iff f).mpr ⟨m, hm, e⟩] at free
    exact Bool.noConfusion free
  simp only [meet, Bool.and_eq_true, decide_eq_true_eq] at apart
  omega

/-- Where check 4 passes, an address of the command's range translates to its place, and for a write only if the pages are writable. -/
theorem translate_newPages (s : State) {x : Ctx} {f : MapFields} {a : Nat} (free : x.mapBusy f = false) (h1 : f.va ≤ a)
    (h2 : a < f.va + f.pages * f.pageSize) (write : Bool) :
    translate (x.maps ++ s.newPages f) a write = if write && !f.write then .error ⟨a, 1, 0⟩ else .ok (f.pa + (a - f.va)) := by
  obtain ⟨o, low, e⟩ := findMap_newPages_inside s h1 h2
  have found : findMap (x.maps ++ s.newPages f) a = some (s.newPage f o) := by
    rw [findMap_append, x.findMap_of_not_mapBusy free h1 h2, e, Option.none_or]
  have place : f.pa + o + (a - (f.va + o)) = f.pa + (a - f.va) := by omega
  simp only [translate, found, State.newPage, place]

/-- Outside the command's range every address is mapped as before. -/
theorem findMap_append_newPages_outside (s : State) (l : List Mapping) {f : MapFields} {a : Nat}
    (h : a < f.va ∨ f.va + f.pages * f.pageSize ≤ a) : findMap (l ++ s.newPages f) a = findMap l a := by
  rw [findMap_append, findMap_newPages_outside s h, Option.or_none]

/-- Settles O19: a command that fails a check leaves the accepted state as it is, one that passes them appends its pages, and pages that
meet none of the old ones are the ones found for the addresses of the range. -/
theorem mapChecksInOrderThenMaps : Obligations.MapChecksInOrderThenMaps := by
  intro s h f x size hr hc hx hsize hpages misaligned range straddle busy hm hrange hs hb
  obtain rfl : size = f.pageSize := hsize
  rw [← f.misaligned_iff] at hm
  rw [← s.mapOutOfRange_iff] at hrange
  rw [← s.mapStraddles_iff] at hs
  rw [← x.mapBusy_iff] at hb
  have some_page : (f.pages == 0) = false := beq_false_of_ne hpages
  simp only [hm, hrange, hs, hb, Bool.not_eq_true]
  refine ⟨fun st fails => memMap_refuses hr hc hx ?_, fun fits inside whole free => ?_⟩
  · rw [State.mapChecks, some_page]
    rcases fails with ⟨bad, rfl⟩ | ⟨fits, bad, rfl⟩ | ⟨fits, inside, bad, rfl⟩ | ⟨fits, inside, whole, bad, rfl⟩ <;> simp [*]
  · have passes : firstFail (s.mapChecks f x) = none := by simp [State.mapChecks, some_page, fits, inside, whole, free]
    obtain ⟨u, e, mem, y, hy, maps⟩ := memMap_adds_newPages hr hc hx passes
    refine ⟨u, e, mem, y, hy, fun a h1 h2 => ?_, fun a out => ?_⟩
    · rw [maps, translate_newPages s free h1 h2, translate_newPages s free h1 h2]
      cases f.write <;> simp
    · rw [maps, findMap_append_newPages_outside s x.maps out]

end Sys2Proof.Machine
end

section
/-! SUPPORT. A command's reply room at its commit point (15_command_protocol R356): the reserved slots, a packet that does not begin, and a
reply that needs more slots than are reserved. -/
namespace Sys2Proof.Machine

/-! One proof after another, so that the check's memory is not shared among many threads. -/
set_option Elab.async false

/-- PK_REPLY is raised to 1 and lowered to 8 (R356). -/
theorem pktRoom_eq_ite (h : PktHead) : pktRoom h = if h.reply = 0 then 1 else if 8 < h.reply then 8 else h.reply := by
  unfold pktRoom
  split
  · omega
  · split <;> omega

/-- A packet does not begin while its queue has fewer free slots than the reserved ones and the IDLE slot (R329, R356). -/
theorem State.mayBegin_eq_false_of_freeSlots_lt {s : State} {h : PktHead} {q : QueueRec} (hq : kvGet h.queue s.queues = some q)
    (full : s.freeSlots h.queue q < pktRoom h + 1) : s.mayBegin h = false := by
  have short : decide (pktRoom h + 1 ≤ s.freeSlots h.queue q) = false := decide_eq_false (Nat.not_le.mpr full)
  simp only [State.mayBegin, hq, short, Bool.and_false, Bool.false_and]

/-- A command whose packet may not begin is withheld: nothing changes. -/
theorem State.commit_of_mayBegin_eq_false {s : State} {h : PktHead} (waits : s.mayBegin h = false) (op slots : Nat) (body : State → State) :
    s.commit h op slots body = s := by
  simp only [State.commit, waits, Bool.not_false, if_true]

/-- A command that begins and passes the CP's check, but whose reply needs more slots than are reserved, is accepted and answered
ST_REPLY_ROOM in the reserved slots; its body does not run (R356). -/
theorem State.commit_of_pktRoom_lt {s : State} {h : PktHead} {slots : Nat} (begins : s.mayBegin h = true) (pass : h.cp = .pass)
    (exceeds : pktRoom h < slots) (op : Nat) (body : State → State) :
    s.commit h op slots body = (s.accept h op).reply h op (pktRoom h) .replyRoom [] := by
  simp [State.commit, State.reply, begins, pass, CpCheck.cause, exceeds]

/-- Settles O11: the bounds are those of `pktRoom`, too few free slots keep the packet from beginning, and a reply too long for its room
takes the branch of the commit point that does not run the command's body. -/
theorem replyRoomIsReserved : Obligations.ReplyRoomIsReserved := by
  refine ⟨pktRoom_eq_ite, fun s h q hq full op slots body => ?_, fun s h op slots body begins pass exceeds => ?_⟩
  · exact State.commit_of_mayBegin_eq_false (State.mayBegin_eq_false_of_freeSlots_lt hq full) op slots body
  · exact State.commit_of_pktRoom_lt begins pass exceeds op body

end Sys2Proof.Machine
end
